-- ==== Sys2Proof/Word.lean ====
section
/-!
DEFINITION. The word types: a register is a `Word`, a memory cell a `Byte`. The manual's numbers that are counted,
compared or scaled are `Nat` or `Int`.
-/

namespace Sys2Proof

/-- A register word (spec/00_scope.md R2). -/
abbrev Word := BitVec 32

/-- A byte of host memory, DRAM or a buffer. -/
abbrev Byte := BitVec 8

/-- A drop code of one nozzle (spec/00_scope.md, headline figures). -/
abbrev Code := BitVec 4

/-- The number of a signed bit pattern of `w` bits held in a natural number. -/
def sext (w n : Nat) : Int :=
  if 2 ^ (w - 1) ≤ n % 2 ^ w then (n % 2 ^ w : Nat) - (2 ^ w : Nat) else (n % 2 ^ w : Nat)

/-- The bit pattern of `w` bits of an integer, as a natural number. -/
def wrap (w : Nat) (i : Int) : Nat := (i % (2 ^ w : Nat)).toNat

/-- Bits `lo` to `lo + wid - 1` of a number. -/
def bits (n lo wid : Nat) : Nat := n / 2 ^ lo % 2 ^ wid

/-- Bit `i` of a number. -/
def bit (n i : Nat) : Bool := n / 2 ^ i % 2 == 1

/-- `n` with bits `lo` to `lo + wid - 1` replaced by the low bits of `v`. -/
def setBits (n lo wid v : Nat) : Nat :=
  n - bits n lo wid * 2 ^ lo + v % 2 ^ wid * 2 ^ lo

/-- Division rounding up. -/
def ceilDiv (a b : Nat) : Nat := (a + b - 1) / b

/-- 1 for true. -/
def b2n (b : Bool) : Nat := if b then 1 else 0

end Sys2Proof
end

