-- ==== Sys2Proof/Syntax.lean ====
section
/-!
DEFINITION. The commands of the block: one constructor of `Instr` for each row of spec/opcode_table.json, and the
types of their operands. A quantity the device measures or receives (a sampled level, a message, the result of a
check made by an analogue or outside unit) is an operand (DESIGN CHOICE, log entry 9).
-/

namespace Sys2Proof

/-- A requester's window on the registers (spec/21_register_map.md R550). -/
inductive Win where
  | host0 | host2 | cox
  deriving DecidableEq, Repr

/-- A cell of the boundary chain (spec/19_observation_and_test.md R519): the ball's row and column, and the level that it drives, none
where it drives nothing. -/
structure BsCell where
  row : Nat
  col : Nat
  drive : Option Bool
  deriving DecidableEq, Repr

/-- The instructions of the test access port (spec/19_observation_and_test.md R519); what is then shifted into the cells of the
boundary chain, by SAMPLE/PRELOAD and EXTEST. -/
inductive TapInstr where
  | bypass | idcode | samplePreload (scan : List BsCell) | extest (scan : List BsCell) | clamp | highz
  deriving DecidableEq, Repr

/-- A memory BAR of the function (spec/13_host_and_command_protocol.md R349). -/
inductive Bar where
  | bar0 | bar2 | bar4
  deriving DecidableEq, Repr

/-- A command packet as the cox has taken it (spec/13_host_and_command_protocol.md R355): the submission queue it
came from and its fields; the opcode is the constructor's. `hostFail` tells that a host read which the command itself makes
fails on the link (spec/16_dma_and_compression.md R429). -/
structure Packet where
  sq : Fin 8
  flags : BitVec 8
  seq : BitVec 16
  epoch : BitVec 8
  plen : BitVec 8
  rsv : BitVec 16
  par : List Byte
  hostFail : Bool := false
  deriving DecidableEq, Repr

/-- What the device cannot tell of an interface test by itself at a write of TST_CTRL (spec/19_observation_and_test.md R516): the errors
or mismatches found since the write before, and whether the checker of an external line is in step. -/
structure TstSeen where
  errs : Nat := 0
  sync : Bool := false
  deriving DecidableEq, Repr

/-- The recovery image as the boot reads it from the flash, where no command writes it (spec/20_power_clocks_boot.md R534, R536): KEY,
the payload, the SHA-256 field and the public key of its header, and whether its signature verifies. -/
structure RecImage where
  key : Nat := 0
  payload : List Byte := []
  sha : List Byte := []
  pub : List Byte := []
  sigOk : Bool := false
  deriving DecidableEq, Repr

/-- How a packet fetch ended (spec/13_host_and_command_protocol.md R352): well; well, but with an error that the link corrected; well,
but with a host read that the command then makes failing (spec/16_dma_and_compression.md R429); or failed, with the AER status bit. -/
inductive FetchErr where
  | ok
  | corrected
  | readFails
  | failed (aer : BitVec 8)
  deriving DecidableEq, Repr

/-- What a quill receiver's decoder finds of a codeword (spec/10_quill_head_link.md R271). -/
inductive Codeword where
  | clean
  | corrected
  | uncorrectable
  deriving DecidableEq, Repr

/-- What the ECC finds on a read of a DRAM burst (spec/12_memory.md R331-R333): for the first and the second copy. -/
inductive MemErr where
  | clean
  | corrected
  | ueFirst
  | ueBoth
  deriving DecidableEq, Repr

/-- How the words of a completed ink-line read back from the line store (spec/07_run_ahead_pipeline.md R199): clean;
some corrected; words uncorrectable at the read-back; or words that fail later and are found uncorrectable, or corrected,
when they are read for transmission. A failing word is given by its head group. -/
inductive LsErr where
  | ok
  | corrected (words : BitVec 32)
  | readBack (g : Fin 64) (more : List (Fin 64))
  | later (g : Fin 64) (more : List (Fin 64))
  | laterCorrected (words : List (Fin 64))
  deriving DecidableEq, Repr

/-- How the signatures of a cross-audit compare (spec/18_fault_tolerance.md R477, R478): of two, equal or not; of
three, which one the majority rejects. -/
inductive AuditSig where
  | agree
  | auditedOdd
  | auditorOdd
  | allDiffer
  deriving DecidableEq, Repr

/-- What a temperature input measures in a conversion (spec/11_head_health.md R302): in diode mode the voltages at 6, 24 and 96 uA, in
nV; in NTC mode the resistance, in milliohm. -/
structure TsSample where
  v6 : BitVec 32 := 0
  v24 : BitVec 32 := 0
  v96 : BitVec 32 := 0
  r : BitVec 32 := 0
  deriving DecidableEq, Repr

/-- The samples of a drop gate's ADC from a line's FIRE edge on, one each 100 ns (spec/11_head_health.md R308). -/
structure GateSamples where
  gate : Fin 8
  x : List (BitVec 12)
  deriving DecidableEq, Repr

/-- A frame taken by a proof engine (spec/08_density_and_placement_loops.md R214): the camera, and whether the read of the ring
meets an uncorrectable error of its own, beside the bursts that are poisoned. -/
structure ProofFrame where
  cam : Fin 4
  ringErr : Bool
  deriving DecidableEq, Repr

/-- The write-CRC failures of a write before success (spec/12_memory.md R335): on the copy at D, and on the second copy. -/
structure CrcFails where
  first : Nat := 0
  second : Nat := 0
  deriving DecidableEq, Repr

/-- A write of MEM_LOOP (spec/12_memory.md R345): the word, and the mismatched bits that the loopback selected until then has
brought the checker since the last such write. -/
structure LoopWrite where
  v : Word
  errs : Nat := 0
  deriving DecidableEq, Repr

/-- How memory training ended (spec/12_memory.md R341): trained, with the ranks (c x 4 + r) that failed and the
RAAIMT (0 where the DRAM reports RFM as not required) and RAAMMT that the mode registers give (R328); a geometry that disagrees
with MEM_CFG (R320); or a failure. -/
inductive InitResult where
  | trained (failed : List Nat) (raaimt raammt : Nat)
  | geometry
  | failed
  deriving DecidableEq, Repr

/-- What crew forming found (spec/17_time_and_crew.md R459). -/
inductive FormResult where
  | formed
  | badParam
  | range
  | hwFault
  deriving DecidableEq, Repr

/-- What a member asks of the crew's token (spec/17_time_and_crew.md R469, R470, spec/08_density_and_placement_loops.md
R235): a COMMIT of a KIND with L, N and STRICT; a loop generation or a derate generation with its L_e; a job command by
its opcode, with its job ID, ARM's trigger and its position. -/
inductive CrewReq where
  | commit (kind l n : Nat) (strict : Bool)
  | loops (le : Nat)
  | derate (le : Nat)
  | job (op id : Nat) (byPos : Bool) (pos : Int)
  deriving DecidableEq, Repr

/-- A vote (R469): the status of the member's checks; where SC_U0 is chained, its seam neighbour LEFT; SC_U0 and u(SL_BOUND_16) in
2^-28 of a grid pixel, and the values of a chained SC_U0 that R148 lets the generation take (R468); the smallest B_b of its bars that
the generation uses (R470), and the strokes by which the generation's cut-off comes earlier there (R179). -/
structure CrewVote where
  status : BitVec 8
  left : Option (Fin 4)
  u0 : Int
  u16 : Int
  u0Range : Option (Int × Int)
  minB : Int
  lead : Nat := 0
  deriving DecidableEq, Repr

/-- A DECIDE as a member receives it (R469): status, L_e, GEN, apply time, the chained U0, the crew's smallest
B_b, whether the member's loop changes reached the lead in time (spec/08_density_and_placement_loops.md R235), and whether their
SHIFT and STRETCH go in. -/
structure CrewDec where
  status : BitVec 8
  le : Nat
  gen : BitVec 8
  ta : BitVec 32
  u0 : Option Int
  minB : Int
  loops : Bool := true
  dist : Bool := true
  deriving DecidableEq, Repr

/-- A BULK message (R458, R459, spec/08_density_and_placement_loops.md R235): generation changes, a member's loop changes
for a boundary with the SHIFT of its edge zones (first and last) and the changed fields, a HELLO with seat and SIZE, or the demand for
the last one again after its CRC failed. -/
inductive Bulk where
  | changes (data : List Byte)
  | delivery (le : Nat) (first last : Int) (data : List Byte)
  | hello (seat size : Nat) (id : BitVec 64)
  | again
  deriving DecidableEq, Repr

/-- A SKEW message (R465): as received on the lead's side with the member's reply, or on the member's side first and
final; or a codeword of one of the port's two lanes, message and parity symbols, by which a link relocks and is watched (R458, R466). -/
inductive Skew where
  | ask (t1 : BitVec 32)
  | reply (t1 t2 t3 : BitVec 32)
  | final (d : BitVec 16)
  | word (lane : Fin 2) (msg check : List (BitVec 10))
  deriving DecidableEq, Repr

/-- A crew link lost (R471): the port, and the mask of the lanes lost (R473). -/
structure CrewLoss where
  port : Fin 4
  lanes : BitVec 2 := 3
  deriving DecidableEq, Repr

/-- An LSP packet addressed to a personality (spec/15_lh460_compatibility.md R402-R408). -/
structure LspPacket where
  lp : Fin 8
  bytes : List Byte
  deriving DecidableEq, Repr

/-- A received PTP message (spec/17_time_and_crew.md R455, R456): kind 0 Sync, 1 Follow_Up, 2 Delay_Req, 3 Delay_Resp,
4 Pdelay_Req, 5 Pdelay_Resp, 6 Pdelay_Resp_Follow_Up, 7 Announce; domain, sender's clockIdentity, sequence number, the
two-step flag, the time stamp carried in ns, correctionField in 2^-16 ns; and in an Announce the data set, in the order of
its comparison. -/
structure PtpMsg where
  kind : Fin 8
  domain : Byte
  src : BitVec 64
  seq : BitVec 16
  twoStep : Bool
  stamp : Int
  corr : Int
  rank : List Nat
  deriving DecidableEq, Repr

/-- The commands of the block, one a row of the opcode table, in the table's order. Each constructor's docstring cites
the row's rule and says what the operands are. -/
inductive Instr where
  /-- REGISTER_WRITE (R4): `w` the requester's window, `off` the BAR0 (or BAR2) offset, `v` the data. -/
  | registerWrite (w : Win) (off : BitVec 21) (v : Word)
  /-- REG64_LO_READ (R550): the window and the offset of the _LO word. -/
  | reg64LoRead (w : Win) (off : BitVec 21)
  /-- RC_READ (R4): the window and the offset read. -/
  | rcRead (w : Win) (off : BitVec 21)
  /-- ACCESS_VIOLATION (R5): the BAR, the offset and the direction of the access. -/
  | accessViolation (bar : Bar) (off : BitVec 26) (write : Bool)
  /-- TABLE_WRITE (R184): BAR4 offset in a nozzle or segment table window and the data. -/
  | tableWrite (off : BitVec 26) (v : Word)
  /-- APERTURE_ACCESS (R351, R184): BAR4 offset; a byte lane is none where its byte enable is clear (a read of a memory window
  uses the length only). -/
  | apertureAccess (off : BitVec 26) (write : Bool) (data : List (Option Byte))
  /-- ENC_COUNT (R39): port and the new sampled levels of A and B. -/
  | encCount (n : Fin 4) (a : Bool) (b : Bool)
  /-- ENC_INDEX (R45): port whose Z pulse rises. -/
  | encIndex (n : Fin 4)
  /-- ENC_INDEX_MISSING (R48): port. -/
  | encIndexMissing (n : Fin 4)
  /-- ENC_LOS (R44): port and the input lost (false A, true B). -/
  | encLos (n : Fin 4) (onB : Bool)
  /-- ENC_LOS_CLEAR (R44): port. -/
  | encLosClear (n : Fin 4)
  /-- ENC_AMP_FAULT (R38): port and the measured radius in mV. -/
  | encAmpFault (n : Fin 4) (radius : BitVec 16)
  /-- ENC_AMP_CLEAR (R38): port. -/
  | encAmpClear (n : Fin 4)
  /-- ENC_SPEED_DECAY (R55): port. -/
  | encSpeedDecay (n : Fin 4)
  /-- ENC_STANDSTILL (R56): port. -/
  | encStandstill (n : Fin 4)
  /-- CMP_TARGET_WRITE (R68): channel, window and the high word written. -/
  | cmpTargetWrite (m : Fin 16) (w : Win) (hi : Word)
  /-- CMP_CFG_WRITE (R75): channel and the word written. -/
  | cmpCfgWrite (m : Fin 16) (v : Word)
  /-- CMP_INTERP_FIRE (R70): channel. -/
  | cmpInterpFire (m : Fin 16)
  /-- CMP_PULSE_END (R70): channel. -/
  | cmpPulseEnd (m : Fin 16)
  /-- FIRE_EDGE (R79): bar. -/
  | fireEdge (b : Fin 16)
  /-- FIRE_PULSE_END (R85): bar; `genStuck` when the strobe generator holds its output active. -/
  | firePulseEnd (b : Fin 16) (genStuck : Bool)
  /-- SLOW_REQ_OFF (R98). -/
  | slowReqOff
  /-- WD_TRIP (R100): bar. -/
  | wdTrip (b : Fin 16)
  /-- WD_CLEAR_WRITE (R102): the word written to FIRE_WD_CLEAR. -/
  | wdClearWrite (v : Word)
  /-- TRIM_BANK_LOAD (R92): head group whose inactive bank is loaded. -/
  | trimBankLoad (g : Fin 64)
  /-- TEST_TICK (R104): the samples of the drop gates from this line's edge on (gate tests). -/
  | testTick (gates : List GateSamples)
  /-- INK_LINE_COMPLETE (R188): nib, what the read-back of the line store finds, and how the signatures compare where an audit ends. -/
  | inkLineComplete (n : Fin 18) (ls : LsErr) (sig : AuditSig)
  /-- NIB_FAULT (R476): nib and the detecting mechanism. -/
  | nibFault (n : Fin 18) (mech : BitVec 8)
  /-- NIB_HEARTBEAT_MISS (R476): `cls` true for the cox pair; unit index. -/
  | nibHeartbeatMiss (cls : Bool) (u : Fin 18)
  /-- SPARE_START_DONE (R480): spare and whether its start steps passed. -/
  | spareStartDone (n : Fin 18) (ok : Bool)
  /-- PROOF_FRAME (R215): the camera, and whether the read of the ring fails. -/
  | proofFrame (f : ProofFrame)
  /-- DWELL_END (R222): camera, and the segment across the web whose dwell ends. -/
  | dwellEnd (n : Fin 4) (j : Fin 2048)
  /-- HEAD_STALE (R233): head. -/
  | headStale (h : Fin 1024)
  /-- BIN_STALE (R234): segment and bin. -/
  | binStale (seg : Fin 32768) (b : Fin 4)
  /-- CSI_FRAME_START (R243): camera port. -/
  | csiFrameStart (p : Fin 4)
  /-- CSI_LONG_PACKET (R244): port, virtual channel, data type, raw pixels of the payload and whether its CRC passes. -/
  | csiLongPacket (p : Fin 4) (vc : Fin 4) (dt : BitVec 6) (px : List (BitVec 14)) (crcOk : Bool)
  /-- CSI_PACKET_DISCARD (R240): port; `ecc` for an uncorrectable header, else a packet outside the supported set. -/
  | csiPacketDiscard (p : Fin 4) (ecc : Bool)
  /-- CSI_FRAME_END (R245): port. -/
  | csiFrameEnd (p : Fin 4)
  /-- CAM_FRAME_TIMEOUT (R245): port. -/
  | camFrameTimeout (p : Fin 4)
  /-- CAM_UNPAIRED (R243): port. -/
  | camUnpaired (p : Fin 4)
  /-- CAM_STAT_RECORD (R261): port. -/
  | camStatRecord (p : Fin 4)
  /-- CAM_TEST_FRAME (R263): port. -/
  | camTestFrame (p : Fin 4)
  /-- EXP_WRITES_DONE (R248): port. -/
  | expWritesDone (p : Fin 4)
  /-- CCI_WRITE_FAIL (R250): port and the sensor write of the select under way that is refused (a NACK, or a stretch beyond 1 ms). -/
  | cciWriteFail (p : Fin 4) (k : Fin 14)
  /-- QL_CODEWORD (R271): lane, whether it comes downstream to the head board, and the symbols received, of the message (514 in a codeword) and of
  its check (14); missing ones read 0. -/
  | qlCodeword (n : Fin 64) (down : Bool) (msg check : List (BitVec 10))
  /-- QL_TAP_REQ_RX (R291): lane and the fields of the REPLY. -/
  | qlTapReqRx (n : Fin 64) (arg : BitVec 48)
  /-- QL_HELLO_RX (R289): lane and the fields of the REPLY. -/
  | qlHelloRx (n : Fin 64) (arg : BitVec 48)
  /-- QL_ACK_RX (R278): lane and the fields of the REPLY. -/
  | qlAckRx (n : Fin 64) (arg : BitVec 48)
  /-- QL_LINK_RX (R292): lane and the fields of the REPLY. -/
  | qlLinkRx (n : Fin 64) (arg : BitVec 48)
  /-- QL_FRAME_CHECK_RX (R295): lane and the fields of the REPLY. -/
  | qlFrameCheckRx (n : Fin 64) (arg : BitVec 48)
  /-- QL_STATUS_RX (R293): lane and the fields of the block. -/
  | qlStatusRx (n : Fin 64) (f : BitVec 56)
  /-- QL_TEMP_RX (R281): lane and the fields of the block. -/
  | qlTempRx (n : Fin 64) (f : BitVec 56)
  /-- QL_RECORD_RX (R315): lane, the fields of the block, its eight data blocks and its CRC. -/
  | qlRecordRx (n : Fin 64) (f : BitVec 56) (data : List Byte) (crc : Word)
  /-- MGMT_RESEND (R278): lane. -/
  | mgmtResend (n : Fin 64)
  /-- QL_CFG_WRITE (R289): lane and the word written. -/
  | qlCfgWrite (n : Fin 64) (v : Word)
  /-- QL_RETRAIN (R290): lane. -/
  | qlRetrain (n : Fin 64)
  /-- QL_TEST_WRITE (R296): lane and the word written. -/
  | qlTestWrite (n : Fin 64) (v : Word)
  /-- QL_STEP_TIMEOUT (R290): lane. -/
  | qlStepTimeout (n : Fin 64)
  /-- QL_LOCK_TIMER (R289): lane. -/
  | qlLockTimer (n : Fin 64)
  /-- QL_DOWN_RETRY (R290): lane. -/
  | qlDownRetry (n : Fin 64)
  /-- QL_UPLOCK_LOSS (R292): lane. -/
  | qlUplockLoss (n : Fin 64)
  /-- BOARD_LINE_START (R283): group, input and the fields of the LS block. -/
  | boardLineStart (g : Fin 64) (mirror : Bool) (f : BitVec 56)
  /-- BOARD_FRAME (R283): group, input, FH, payload, FT's bits [31:0] and [63:32] (R274), and whether a block of it is bad. -/
  | boardFrame (g : Fin 64) (mirror : Bool) (fh : BitVec 64) (words : List (BitVec 64)) (crc high : Word) (bad : Bool)
  /-- BOARD_FIRE (R284): group. -/
  | boardFire (g : Fin 64)
  /-- BOARD_BANK_LOAD (R277): group, the fields of BANK, its data blocks and CRC. -/
  | boardBankLoad (g : Fin 64) (f : BitVec 56) (words : List (BitVec 64)) (crc : Word)
  /-- BOARD_INPUT_LOSS (R288): group and input. -/
  | boardInputLoss (g : Fin 64) (mirror : Bool)
  /-- BOARD_MIRROR_RELOCK (R288): group. -/
  | boardMirrorRelock (g : Fin 64)
  /-- BOARD_TAP_ACK (R291): group and the message. -/
  | boardTapAck (g : Fin 64) (arg : BitVec 48)
  /-- BOARD_HEAD_ID (R279): group and the message. -/
  | boardHeadId (g : Fin 64) (arg : BitVec 48)
  /-- BOARD_WAVE_SEL (R286): group and the message. -/
  | boardWaveSel (g : Fin 64) (arg : BitVec 48)
  /-- BOARD_SELECT (R288): group and the message. -/
  | boardSelect (g : Fin 64) (arg : BitVec 48)
  /-- BOARD_LOOP (R295): group and the message. -/
  | boardLoop (g : Fin 64) (arg : BitVec 48)
  /-- BOARD_REC_WRITE (R287): group, the message, its eight data blocks and its CRC. -/
  | boardRecWrite (g : Fin 64) (arg : BitVec 48) (data : List Byte) (crc : Word)
  /-- BOARD_REC_READ (R282): group and the message. -/
  | boardRecRead (g : Fin 64) (arg : BitVec 48)
  /-- TS_CONVERSION (R302): input and what it measures. -/
  | tsConversion (n : Fin 16) (m : TsSample)
  /-- TEMP_STALE (R300): head. -/
  | tempStale (h : Fin 1024)
  /-- STALE_HEAD_BLANK (R300): head. -/
  | staleHeadBlank (h : Fin 1024)
  /-- TEMP_SUSPECT (R301): head, or 1,024 + n for the input TSn. -/
  | tempSuspect (h : Fin 1040)
  /-- TEMP_SUSPECT_CLEAR (R301): head, or 1,024 + n for the input TSn. -/
  | tempSuspectClear (h : Fin 1040)
  /-- HEAD_WARM_CLEAR (R303): head. -/
  | headWarmClear (h : Fin 1024)
  /-- HEAD_LIMIT_TICK (R304). -/
  | headLimitTick
  /-- HEAD_BLANK_CLEAR (R305): head. -/
  | headBlankClear (h : Fin 1024)
  /-- TEMP_CHECK_TICK (R178). -/
  | tempCheckTick
  /-- REC_WRITE_TIMER (R316). -/
  | recWriteTimer
  /-- DRAM_READ (R330): requester, address, length and what ECC finds. -/
  | dramRead (req : Fin 64) (pa : BitVec 39) (n : Nat) (err : MemErr)
  /-- DRAM_WRITE (R330): requester, address, data and the write-CRC failures before success. -/
  | dramWrite (req : Fin 64) (pa : BitVec 39) (data : List Byte) (crcFails : CrcFails)
  /-- REFRESH_DUE (R326): channel, rank; `blocked` when a real-time burst occupies it. -/
  | refreshDue (c : Fin 4) (r : Fin 4) (blocked : Bool)
  /-- MR4_POLL (R326): MR4 codes of the ranks in order. -/
  | mr4Poll (codes : List (BitVec 3))
  /-- PATROL_SCRUB (R334): rank and what the read finds. -/
  | patrolScrub (c : Fin 4) (r : Fin 4) (err : MemErr)
  /-- MIGRATION_BLOCK (R337): channel of the retired rank, and what the ECC finds on bursts of the block. -/
  | migrationBlock (c : Fin 4) (errs : List (Fin 64 × MemErr))
  /-- DRIFT_CHECK (R342): rank, and the change of its DQS-to-DQ delay since its last full training, s16 in 1/64 UI, as measured. -/
  | driftCheck (c : Fin 4) (r : Fin 4) (delay : BitVec 16)
  /-- RETRAIN_SLICE (R344): rank; the final slice; 0 passed, else the failed step of R341. -/
  | retrainSlice (c : Fin 4) (r : Fin 4) (last : Bool) (step : Fin 8)
  /-- MEM_LOOP_WRITE (R345): the word written, and what the checker has counted. -/
  | memLoopWrite (v : LoopWrite)
  /-- MEM_INIT_DONE (R341): how training ended. -/
  | memInitDone (result : InitResult)
  /-- RANK_RETURN_DONE (R340): rank; 0 passed, 1 training failed, 2 test failed. -/
  | rankReturnDone (c : Fin 4) (r : Fin 4) (res : Fin 3)
  /-- SQ_DOORBELL (R358): queue and the value written. -/
  | sqDoorbell (n : Fin 8) (v : Word)
  /-- CQ_DOORBELL (R358): queue and the value written. -/
  | cqDoorbell (m : Fin 8) (v : Word)
  /-- EV_HEAD_WRITE (R373): the value written. -/
  | evHeadWrite (v : Word)
  /-- SQ_CFG_WRITE (R354): queue and the word written. -/
  | sqCfgWrite (n : Fin 8) (v : Word)
  /-- CQ_CFG_WRITE (R354): queue and the word written. -/
  | cqCfgWrite (m : Fin 8) (v : Word)
  /-- COMMAND_FETCH (R360): how the read of the packet ended. -/
  | commandFetch (err : FetchErr)
  /-- IRQ_TIMER (R374): source: CQ0 to CQ7, or 8 for the event ring. -/
  | irqTimer (src : Fin 9)
  /-- HOST_RESET (R353): 0 FLR, 1 hot reset, 2 link down. -/
  | hostReset (cause : Fin 4)
  /-- PCIE_POISONED_WRITE (R352). -/
  | pciePoisonedWrite
  /-- NOP (R383): command packet. -/
  | nop (p : Packet)
  /-- IDENTIFY (R383): command packet. -/
  | identify (p : Packet)
  /-- RESET (R384): command packet. -/
  | reset (p : Packet)
  /-- WARM_RESET (R532). -/
  | warmReset
  /-- SAFE_LEAVE (R369): command packet. -/
  | safeLeave (p : Packet)
  /-- FW_STAGE (R384): command packet. -/
  | fwStage (p : Packet)
  /-- FW_STAGE_DONE (R384): the signature check and the writing. -/
  | fwStageDone (sigOk : Bool) (hwOk : Bool)
  /-- FW_ACTIVATE (R491): command packet. -/
  | fwActivate (p : Packet)
  /-- FW_NIB_STEP (R491). -/
  | fwNibStep
  /-- COLOUR_LOAD (R157): command packet. -/
  | colourLoad (p : Packet)
  /-- SCREEN_LOAD (R181): command packet. -/
  | screenLoad (p : Packet)
  /-- SHADOW_REVERT (R386): command packet. -/
  | shadowRevert (p : Packet)
  /-- SHADOW_REVERT_DONE (R386). -/
  | shadowRevertDone
  /-- JOB_OPEN (R388): command packet. -/
  | jobOpen (p : Packet)
  /-- JOB_CLOSE (R388): command packet. -/
  | jobClose (p : Packet)
  /-- SURF_REGISTER (R109): command packet. -/
  | surfRegister (p : Packet)
  /-- SURF_RESIDENT (R389): command packet. -/
  | surfResident (p : Packet)
  /-- SURF_RESIDENT_DONE (R389): surface. -/
  | surfResidentDone (id : Fin 1024)
  /-- SURF_RELEASE (R111): command packet. -/
  | surfRelease (p : Packet)
  /-- PANEL_QUEUE (R121): command packet. -/
  | panelQueue (p : Packet)
  /-- COMMIT (R125): command packet. -/
  | commit (p : Packet)
  /-- ARM (R391): command packet. -/
  | arm (p : Packet)
  /-- TOF (R390): command packet. -/
  | tof (p : Packet)
  /-- DISARM (R390): command packet. -/
  | disarm (p : Packet)
  /-- ABORT (R370): command packet. -/
  | abort (p : Packet)
  /-- NOZZLE_MAP_LOAD (R164): command packet. -/
  | nozzleMapLoad (p : Packet)
  /-- SERVICE_ENTER (R369): command packet. -/
  | serviceEnter (p : Packet)
  /-- SERVICE_LEAVE (R105): command packet. -/
  | serviceLeave (p : Packet)
  /-- TEST_FIRE (R104): command packet. -/
  | testFire (p : Packet)
  /-- SPIT (R105): command packet. -/
  | spit (p : Packet)
  /-- TEST_STOP (R392): command packet. -/
  | testStop (p : Packet)
  /-- GATE_APPLY (R312): command packet. -/
  | gateApply (p : Packet)
  /-- HEAD_UNBLANK (R305): command packet. -/
  | headUnblank (p : Packet)
  /-- WD_CLEAR (R102): command packet. -/
  | wdClear (p : Packet)
  /-- REC_REFRESH (R315): command packet. -/
  | recRefresh (p : Packet)
  /-- PF_CLEAR (R394): command packet. -/
  | pfClear (p : Packet)
  /-- PF_CLEAR_DONE (R394). -/
  | pfClearDone
  /-- LOOP_SUSPEND (R394): command packet. -/
  | loopSuspend (p : Packet)
  /-- EXP_LOAD (R247): command packet. -/
  | expLoad (p : Packet)
  /-- EXP_SELECT (R248): command packet. -/
  | expSelect (p : Packet)
  /-- SENSOR_ACCESS (R251): command packet; the byte the sensor returns; a NACK or long stretch. -/
  | sensorAccess (p : Packet) (rd : Byte) (nack : Bool)
  /-- DPC_LOAD (R255): command packet. -/
  | dpcLoad (p : Packet)
  /-- SHADING_LOAD (R255): command packet. -/
  | shadingLoad (p : Packet)
  /-- MEM_INIT (R341): command packet. -/
  | memInit (p : Packet)
  /-- MEM_RETRAIN (R343): command packet. -/
  | memRetrain (p : Packet)
  /-- DMA_START (R429): command packet. -/
  | dmaStart (p : Packet)
  /-- DMA_RESUME (R434): command packet. -/
  | dmaResume (p : Packet)
  /-- DMA_STOP (R434): command packet. -/
  | dmaStop (p : Packet)
  /-- EVZ_RUN (R443): command packet. -/
  | evzRun (p : Packet)
  /-- TIME_STEP (R454): command packet. -/
  | timeStep (p : Packet)
  /-- PTP_MODE (R396): command packet. -/
  | ptpMode (p : Packet)
  /-- LOG_CTRL (R503): command packet. -/
  | logCtrl (p : Packet)
  /-- LOG_EXPORT (R504): command packet. -/
  | logExport (p : Packet)
  /-- LOG_EXPORT_DONE (R504). -/
  | logExportDone
  /-- REPLAY_START (R505): command packet. -/
  | replayStart (p : Packet)
  /-- REPLAY_STOP (R510): command packet. -/
  | replayStop (p : Packet)
  /-- SELF_TEST (R517): command packet. -/
  | selfTest (p : Packet)
  /-- SELF_TEST_DONE (R517): the result. -/
  | selfTestDone (ok : Bool)
  /-- SWITCH_BACK (R399): command packet. -/
  | switchBack (p : Packet)
  /-- SWITCH_BACK_END (R489): returning unit and its test's result. -/
  | switchBackEnd (cox : Bool) (u : Fin 18) (ok : Bool)
  /-- COX_SWITCH (R484): command packet. -/
  | coxSwitch (p : Packet)
  /-- LANE_RETRAIN (R399): command packet. -/
  | laneRetrain (p : Packet)
  /-- CREW_FORM (R459): command packet. -/
  | crewForm (p : Packet)
  /-- CREW_FORMED (R459): whether every member is LOCKED. -/
  | crewFormed (locked : Bool)
  /-- CREW_LEAVE (R460): command packet. -/
  | crewLeave (p : Packet)
  /-- LP_MAP (R400): command packet. -/
  | lpMap (p : Packet)
  /-- LEGACY_START (R422): command packet. -/
  | legacyStart (p : Packet)
  /-- LEGACY_STOP (R400): command packet. -/
  | legacyStop (p : Packet)
  /-- LSP_DISCARD (R402). -/
  | lspDiscard
  /-- LSP_FRAMING_RESET (R402). -/
  | lspFramingReset
  /-- LH_STATUS (R410): LSP packet. -/
  | lhStatus (p : LspPacket)
  /-- LH_RESET (R410): LSP packet. -/
  | lhReset (p : LspPacket)
  /-- LH_SET_ENC_DIV (R419): LSP packet. -/
  | lhSetEncDiv (p : LspPacket)
  /-- LH_SET_PITCH (R419): LSP packet. -/
  | lhSetPitch (p : LspPacket)
  /-- LH_LOAD_BAND (R413): LSP packet. -/
  | lhLoadBand (p : LspPacket)
  /-- LH_START (R416): LSP packet. -/
  | lhStart (p : LspPacket)
  /-- LH_STOP (R417): LSP packet. -/
  | lhStop (p : LspPacket)
  /-- LH_SET_OFFSET (R420): LSP packet. -/
  | lhSetOffset (p : LspPacket)
  /-- LH_SET_WAVE (R421): LSP packet. -/
  | lhSetWave (p : LspPacket)
  /-- LH_READ_TEMP (R410): LSP packet. -/
  | lhReadTemp (p : LspPacket)
  /-- LH_SPIT (R421): LSP packet. -/
  | lhSpit (p : LspPacket)
  /-- LH_MASK_NOZZLE (R421): LSP packet. -/
  | lhMaskNozzle (p : LspPacket)
  /-- LH_READ_COUNT (R410): LSP packet. -/
  | lhReadCount (p : LspPacket)
  /-- LH_SET_MODE (R410): LSP packet. -/
  | lhSetMode (p : LspPacket)
  /-- LH_ECHO (R410): LSP packet. -/
  | lhEcho (p : LspPacket)
  /-- LH_BAD_OPCODE (R408): LSP packet. -/
  | lhBadOpcode (p : LspPacket)
  /-- LDP_WORD (R406): the word strobed. -/
  | ldpWord (w : BitVec 16)
  /-- LG_START_WIN (R416). -/
  | lgStartWin
  /-- BRIDGE_RETRY (R421). -/
  | bridgeRetry
  /-- DMA_DESC_FETCH (R429): channel. -/
  | dmaDescFetch (ch : Fin 16)
  /-- DMA_REQUEST (R430): request line. -/
  | dmaRequest (line : Fin 32)
  /-- DMA_SWREQ_WRITE (R430): the word written. -/
  | dmaSwreqWrite (v : Word)
  /-- DMA_DESC_COMPLETE (R432): channel. -/
  | dmaDescComplete (ch : Fin 16)
  /-- DMA_HALF (R432): channel. -/
  | dmaHalf (ch : Fin 16)
  /-- DMA_BUS_ERROR (R433): the channel whose access failed, its space (DRAM or host), the failing address, and the bytes it had issued beyond those landed. -/
  | dmaBusError (ch : Fin 16) (host : Bool) (addr : BitVec 64) (issued : Nat)
  /-- DMA_APPEND_WRITE (R437): channel, window and the high word written. -/
  | dmaAppendWrite (ch : Fin 16) (w : Win) (hi : Word)
  /-- EVZ_JOB_END (R445): whether an engine fault ends the job. -/
  | evzJobEnd (fault : Bool)
  /-- PTP_MESSAGE (R456): port and message, as the protocol has processed it. -/
  | ptpMessage (p : Fin 2) (msg : PtpMsg)
  /-- PTP_TX_TIMER (R455): port; 0 sync, 1 delay request, 2 announce. -/
  | ptpTxTimer (p : Fin 2) (kind : Fin 3)
  /-- PTP_ANNOUNCE_TIMEOUT (R453): port. -/
  | ptpAnnounceTimeout (p : Fin 2)
  /-- HOLDOVER_END (R453). -/
  | holdoverEnd
  /-- ETH_LINK (R455): port and its link. -/
  | ethLink (p : Fin 2) (up : Bool)
  /-- ETH_FRAME_DROP (R455): port. -/
  | ethFrameDrop (p : Fin 2)
  /-- CREW_POS_RX (R462): the POS message: T32, position in 2^-32 nm, WEB_SPEED, bits LOST, STANDSTILL, DIR (4, 2, 1) and SEQ. -/
  | crewPosRx (t : BitVec 32) (pos : Int) (speed : BitVec 32) (flags : Fin 8) (seq : BitVec 16)
  /-- CREW_POS_APPLY (R462). -/
  | crewPosApply
  /-- POS_REPEAT (R461). -/
  | posRepeat
  /-- CREW_FLYWHEEL (R463). -/
  | crewFlywheel
  /-- CREW_POS_LOSS (R463). -/
  | crewPosLoss
  /-- CREW_TIME_TX (R464). -/
  | crewTimeTx
  /-- CREW_TIME_RX (R464): TIME_NOW of the TIME message. -/
  | crewTimeRx (t : BitVec 64)
  /-- CREW_RESKEW (R466): crew port. -/
  | crewReskew (p : Fin 4)
  /-- CREW_SKEW_RX (R465): crew port and the message. -/
  | crewSkewRx (p : Fin 4) (m : Skew)
  /-- CREW_RESKEW_TIMEOUT (R466): crew port. -/
  | crewReskewTimeout (p : Fin 4)
  /-- CREW_SEAM_RX (R468): side, σ, FIRES and the eight shares. -/
  | crewSeamRx (right : Bool) (sigma : BitVec 48) (fires : BitVec 8) (vals : List (BitVec 16))
  /-- CREW_TOKEN_REQ (R469): requesting member and what it asks. -/
  | crewTokenReq (seat : Fin 4) (req : CrewReq)
  /-- CREW_PREPARE (R469): the PREPARE message: its number, the member that asks, the request and the lead's crew-common fields. -/
  | crewPrepare (id : BitVec 8) (seat : Fin 4) (req : CrewReq) (commons : List Nat)
  /-- CREW_VOTE (R469): member, the number of the PREPARE, and its vote. -/
  | crewVote (seat : Fin 4) (id : BitVec 8) (vote : CrewVote)
  /-- CREW_VOTE_TIMEOUT (R469): member. -/
  | crewVoteTimeout (seat : Fin 4)
  /-- CREW_DECIDE (R469): the number of the PREPARE and the decision. -/
  | crewDecide (id : BitVec 8) (dec : CrewDec)
  /-- CREW_TOKEN_APPLY (R469). -/
  | crewTokenApply
  /-- CREW_UMP_TX (R471). -/
  | crewUmpTx
  /-- CREW_UMP_RX (R471): the UMP message. -/
  | crewUmpRx (seat : Fin 4) (safe : Bool) (faultN : Bool) (degraded : Bool)
  /-- CREW_BULK_RX (R458): crew port, message and whether its CRC passes. -/
  | crewBulkRx (p : Fin 4) (m : Bulk) (crcOk : Bool)
  /-- CREW_LINK_DOWN (R471): crew port. -/
  | crewLinkDown (p : CrewLoss)
  /-- LOCKSTEP_MISMATCH (R483): detecting mechanism. -/
  | lockstepMismatch (mech : BitVec 8)
  /-- COX_DRAINED (R483). -/
  | coxDrained
  /-- COX_RESUME (R366). -/
  | coxResume
  /-- CKPT_WRITE (R482). -/
  | ckptWrite
  /-- STBY_TEST (R482): the standby cox's test result. -/
  | stbyTest (ok : Bool)
  /-- UMPIRE_TMR (R476): disagreeing lane. -/
  | umpireTmr (lane : Fin 3)
  /-- UMPIRE_OSC (R476): the monitor's count. -/
  | umpireOsc (dev : BitVec 16)
  /-- LOG_BLOCK_CLOSE (R497). -/
  | logBlockClose
  /-- LOG_LOST (R502). -/
  | logLost
  /-- REPLAY_RECORD (R506): the next record of the recording is due. -/
  | replayRecord
  /-- PERF_SNAP (R514). -/
  | perfSnap
  /-- TST_CTRL_WRITE (R516): the word written, and what was found from outside since the write before. -/
  | tstCtrlWrite (v : Word) (seen : TstSeen)
  /-- TAP_INSTRUCTION (R519): the instruction shifted in. -/
  | tapInstruction (ir : TapInstr)
  /-- POWER_ON_RESET (R524): boot mode strap. -/
  | powerOnReset (mode : Fin 4)
  /-- RST_N_RESET (R531). -/
  | rstNReset
  /-- BOOT_COMPLETE (R538): whether the signatures of the flash images A and B verify, the recovery image with its VERSION and output version, the nibs and coxes that fail their tests, and whether a shared memory is beyond repair. -/
  | bootComplete (okA : Bool) (okB : Bool) (rec : RecImage) (ver : Word) (out : Word) (badNibs : List (Fin 18)) (badCoxes : List (Fin 2)) (memBad : Bool)
  /-- BOOT_GO_WRITE (R537): the word written, and whether the key and the signature of the image verify. -/
  | bootGoWrite (v : Word) (sigOk : Bool)
  /-- AVS_TICK (R525): the smallest slack in ps and the bus result. -/
  | avsTick (slack : Int) (busOk : Bool)
  /-- AVS_RETRY (R526): the status read's result. -/
  | avsRetry (ok : Bool)
  /-- PLL_LOSS (R529): clock domain and the PLL that lost lock. -/
  | pllLoss (d : Fin 8) (onB : Bool)
  /-- REFCLK_LOSS (R530). -/
  | refclkLoss
  /-- REFCLK_RETURN (R530). -/
  | refclkReturn
  /-- ETH_REFCLK_LOST (R530). -/
  | ethRefclkLost
  /-- DTS_SAMPLE (R541): the eight conversions in 1/64 C. -/
  | dtsSample (vals : List Int)
  /-- DTS_FAIL (R541): sensor. -/
  | dtsFail (j : Fin 8)
  /-- THERM_HOT_TICK (R541). -/
  | thermHotTick
  /-- BOARD_TEMP_REPORT (R281): group and the temperatures of the heads reported, in order of slot. -/
  | boardTempReport (g : Fin 64) (temps : List (BitVec 16))
  /-- BOARD_TAP_REQUEST (R291): group and the request. -/
  | boardTapRequest (g : Fin 64) (arg : BitVec 48)
  /-- BOARD_RESET (R288): group. -/
  | boardReset (g : Fin 64)
  /-- PLANNED_SWITCHOVER (R484). -/
  | plannedSwitchover
  /-- RETRAIN_INTERVAL (R343): rank. -/
  | retrainInterval (c : Fin 4) (r : Fin 4)
  /-- POWER_DOWN (R524). -/
  | powerDown
  /-- TRST_N_RESET (R531). -/
  | trstNReset
  /-- LSP_REPLY_CLOCK (R403): falling edges. -/
  | lspReplyClock (n : Nat)
  /-- LDADR_CHANGE (R406): the address. -/
  | ldadrChange (a : Fin 8)
  deriving DecidableEq, Repr

end Sys2Proof
end

