-- ==== Sys2Proof/Decode.lean ====
section
/-!
DEFINITION. Decoding of table words. No row of spec/opcode_table.json gives bits, so no word spells a command
(log entry 8).
-/

namespace Sys2Proof

/-- The command that a word spells by the table's bits: none, as the table gives no bits. -/
def decodeTableWord (_nbits _w : Nat) : Option Instr := none

end Sys2Proof
end

