-- ==== Sys2Proof/Machine/Bytes.lean ====
section
/-!
DEFINITION. Byte order and check functions: little-endian fields, CRC-32C (spec/04_surfaces_and_layers.md R134) and
SHA-256 with HMAC (spec/11_head_health.md R314, spec/19_observation_and_test.md R500).
-/

namespace Sys2Proof.Machine

/-- The `n` bytes of a number, lowest byte first (the multi-byte fields of spec/00_scope.md R6). -/
def leBytes : Nat → Nat → List Byte
  | 0, _ => []
  | n + 1, v => BitVec.ofNat 8 v :: leBytes n (v / 256)

/-- The number whose bytes, lowest first, are given. -/
def ofLe : List Byte → Nat
  | [] => 0
  | b :: bs => b.toNat + 256 * ofLe bs

/-- Bytes `p` to `p + n - 1` of a list; missing bytes read 0. -/
def slice (l : List Byte) (p n : Nat) : List Byte :=
  (List.range n).map (fun i => l.getD (p + i) 0)

/-- The little-endian field of `n` bytes at `p`. -/
def le (l : List Byte) (p n : Nat) : Nat := ofLe (slice l p n)

/-- A list padded with zero bytes to a multiple of `m` bytes. -/
def padTo (m : Nat) (l : List Byte) : List Byte :=
  l ++ List.replicate (ceilDiv l.length m * m - l.length) 0

/-- The register of a PRBS of polynomial x^a + x^b + 1 after `k` steps from all ones (ITU-T O.150, R295). -/
def prbsReg (a b : Nat) : Nat → Nat
  | 0 => 2 ^ a - 1
  | k + 1 => let r := prbsReg a b k; (2 * r + b2n (bit r (a - 1) != bit r (b - 1))) % 2 ^ a

/-- Bit `k` of the sequence. -/
def prbsBit (a b k : Nat) : Bool := bit (prbsReg a b (k % (2 ^ a - 1))) (a - 1)

/-- One bit of the reflected CRC with polynomial 0x1EDC_6F41. -/
def crcBit (c : Word) : Word :=
  if c.getLsbD 0 then (c >>> 1) ^^^ 0x82F63B78 else c >>> 1

def crcByte (c : Word) (b : Byte) : Word :=
  let x := c ^^^ b.setWidth 32
  crcBit (crcBit (crcBit (crcBit (crcBit (crcBit (crcBit (crcBit x)))))))

/-- The running CRC over bytes, without the final XOR. -/
def crcRun (c : Word) (l : List Byte) : Word := l.foldl crcByte c

/-- CRC-32C of a byte sequence (R134). -/
def crc32c (l : List Byte) : Word := crcRun 0xFFFFFFFF l ^^^ 0xFFFFFFFF

/-! ### SHA-256 -/

/-- The first 32 bits of the fractional part of the `k`-th root of `p`: the largest number whose `k`-th power is at most
`p` times 2^(32 k), found bit by bit from 2^35 down. -/
def rootFrac (k p : Nat) : Nat :=
  (List.range 36).foldr (fun e r => if (r + 2 ^ e) ^ k ≤ p * 2 ^ (32 * k) then r + 2 ^ e else r) 0 % 2 ^ 32

/-- The 64 primes below 312. -/
def shaPrimes : List Nat :=
  (List.range 312).filter fun n => 2 ≤ n && (List.range 18).all fun d => d < 2 || n = d || n % d ≠ 0

/-- The constants of the rounds: the cube roots of the primes. -/
def shaAdd : List Nat := shaPrimes.map (rootFrac 3)

/-- The words before the first block: the square roots of the first eight primes. -/
def shaStart : List Nat := (shaPrimes.take 8).map (rootFrac 2)

/-- A word turned right by each of the amounts, the results combined by XOR. -/
def turns (x : Nat) (l : List Nat) : Nat := l.foldl (fun y n => y ^^^ (x / 2 ^ n + x % 2 ^ n * 2 ^ (32 - n))) 0

/-- The next word of a window of the last 16 words of the schedule, oldest first. -/
def shaNext (win : List Nat) : Nat :=
  let old := win.getD 1 0
  let new := win.getD 14 0
  (win.getD 0 0 + win.getD 9 0 + (turns old [7, 18] ^^^ old / 2 ^ 3) + (turns new [17, 19] ^^^ new / 2 ^ 10)) % 2 ^ 32

/-- A round on the eight words and the window, whose oldest word it takes: the words move down one place, the first and
the fifth take what is added. -/
def shaTurn (v : List Nat × List Nat) (k : Nat) : List Nat × List Nat :=
  let w := fun i => v.1.getD i 0
  let pick := w 6 ^^^ (w 4 &&& (w 5 ^^^ w 6))
  let most := (w 0 &&& (w 1 ||| w 2)) ||| (w 1 &&& w 2)
  let up := w 7 + k + v.2.getD 0 0 + pick + turns (w 4) [6, 11, 25]
  let down := v.1.dropLast.set 3 ((w 3 + up) % 2 ^ 32)
  ((up + most + turns (w 0) [2, 13, 22]) % 2 ^ 32 :: down, v.2.drop 1 ++ [shaNext v.2])

/-- The number that bytes spell, highest first. -/
def ofBe (l : List Byte) : Nat := ofLe l.reverse

/-- A block of 64 bytes: 64 rounds from the words so far, to which the result is added. -/
def shaBlock (h : List Nat) (blk : List Byte) : List Nat :=
  let win := (List.range 16).map fun i => ofBe (slice blk (4 * i) 4)
  let out := (shaAdd.foldl shaTurn (h, win)).1
  (List.range 8).map fun i => (h.getD i 0 + out.getD i 0) % 2 ^ 32

/-- SHA-256 of a byte sequence: the sequence, a one bit, zeros and its length in bits, in blocks of 64 bytes. -/
def sha256 (m : List Byte) : List Byte :=
  let blocks := (m.length + 72) / 64
  let filled := m ++ 0x80 :: List.replicate (64 * blocks - 9 - m.length) 0 ++ (leBytes 8 (8 * m.length)).reverse
  let last := (List.range blocks).foldl (fun h i => shaBlock h (slice filled (64 * i) 64)) shaStart
  last.flatMap fun x => (leBytes 4 x).reverse

/-- HMAC-SHA-256. -/
def hmac (key m : List Byte) : List Byte :=
  let k := let k0 := if key.length > 64 then sha256 key else key
           k0 ++ List.replicate (64 - k0.length) 0
  sha256 (k.map (· ^^^ 0x5c) ++ sha256 (k.map (· ^^^ 0x36) ++ m))

end Sys2Proof.Machine
end

