-- ==== Sys2Proof/Config.lean ====
section
/-!
DEFINITION. What the spec leaves open: free values. A constant here has no body, so no statement can rest on a value
of it (log entry 3).
-/

namespace Sys2Proof

/-- A fresh value wherever the spec states no value: applied to the counter `freeCtr` of the state, which each use
advances (log entry 3). -/
opaque Config.freeWord : Nat → BitVec 64

/-- A byte of a tile whose EVZ block decodes to fewer bytes than the tile holds: the spec states no value
(log entry 3). Applied to the block's address and the byte's index. -/
opaque Config.tileByte : Nat → Nat → BitVec 8

/-- A word of a calibration set that reads as poison: the spec states no value (log entry 3). Applied to its address. -/
opaque Config.calWord : Nat → BitVec 32

/-- The error of the device's logarithm, 0 to 2 for -1 to +1 units (spec/09_inspection_cameras.md R258; log entry 3). -/
opaque Config.odErr : Nat → BitVec 2

/-- The mean of a group of samples that holds none (spec/09_inspection_cameras.md R260; log entry 3). Applied to the
channel. -/
opaque Config.emptyMean : Nat → BitVec 16

/-- The divergence in ppm that the paired ring oscillators show at an instant: a measurement of the silicon
(spec/20_power_clocks_boot.md R527; log entry 3). -/
opaque Config.ringAge : Nat → BitVec 20

/-- Where a test frame's PRBS-15 sequence starts: not stated (spec/09_inspection_cameras.md R263; log entry 3). -/
opaque Config.prbsStart : Nat

/-- By how many bits of the sequence a pixel's raw value lies after the one before it, in raster order: the packing is not stated
(R263; log entry 3). -/
opaque Config.prbsStride : Nat

/-- Where in a pixel's stretch of the sequence bit `b` of its raw value lies: the packing is not stated (R263; log entry 3). -/
opaque Config.prbsPlace : Nat → Nat

/-- Whether a burst of DRAM lies where the delay line keeps the row-1 codes of an ink's line: not stated
(spec/01_print_architecture.md R16; log entries 3 and 47). Applied to the ink, the line and the burst's number. -/
opaque Config.delayPlace : Nat → Nat → Nat → Bool

/-- The bits that a lane's scrambler holds when its stream begins (spec/10_quill_head_link.md R269; log entry 3). Applied to the
lane. -/
opaque Config.scrambler : Nat → BitVec 58

/-- The 256-bit device root key in the fuses, random per device (spec/20_power_clocks_boot.md R540; log entry 3). -/
opaque Config.rootKey : List Byte

/-- The four boot-key hashes in the fuses (R540; log entry 3). -/
opaque Config.keyHash : Nat → List Byte

/-- The fixed label by which the usage key is derived from the root key, which the spec does not state (R540; log entry 3). -/
opaque Config.usageLabel : List Byte

/-- What a training of the PCIe link settles on (spec/13_host_and_command_protocol.md R348, R375): bits 0-1 the rate, 1 to 4, less 1;
bits 2-7 mod 3 the width, x1, x4 or x8 (log entry 63). -/
opaque Config.pcieLink : Nat → BitVec 8

end Sys2Proof
end

