-- ==== Sys2Proof/Machine/EvzCodec.lean ====
section
/-!
DEFINITION. The EVZ block format: its decoder and the engine's encoder (spec/16_dma_and_compression.md R438-R441).
-/

namespace Sys2Proof.Machine

/-- The number of bits of a number. -/
def bitlen (x : Nat) : Nat := if x = 0 then 0 else x.log2 + 1

/-- The width of a code after `n` data codes (R439). -/
def evzWidth (n : Nat) : Nat := bitlen (min (259 + (n - 1)) 65535)

/-- A dictionary (R440): the entries 259, 260, … in order, the data codes read since the last RESET, and the last
string. -/
structure EvzDict where
  entries : List (List Byte) := []
  n : Nat := 0
  prev : List Byte := []
  deriving DecidableEq, Repr

def EvzDict.next (d : EvzDict) : Nat := 259 + d.entries.length

/-- The string a data code stands for; none where the code lies beyond the dictionary. -/
def EvzDict.find (d : EvzDict) (c : Nat) : Option (List Byte) :=
  if c < 256 then some [BitVec.ofNat 8 c]
  else if d.n ≥ 1 ∧ 259 ≤ c ∧ c < d.next then d.entries[c - 259]?
  else if d.n ≥ 1 ∧ c = d.next then some (d.prev ++ d.prev.take 1)
  else none

/-- The dictionary after a data code with string `s`. -/
def EvzDict.learn (d : EvzDict) (s : List Byte) : EvzDict :=
  { entries := if d.n ≥ 1 ∧ d.next ≤ 65535 then d.entries ++ [d.prev ++ s.take 1] else d.entries
    n := d.n + 1
    prev := s }

/-- Where a decoder stands in its stream (R438, R440). -/
inductive EvzPhase where
  | header | raw | coded | pad | done
  deriving DecidableEq, Repr

/-- A stream decoder: the bytes not yet read, the bits of the first of them already used, and the block under way. -/
structure EvzDec where
  buf : List Byte := []
  bit : Nat := 0
  off : Nat := 0
  phase : EvzPhase := .header
  last : Bool := false
  inLen : Nat := 0
  made : Nat := 0
  dict : EvzDict := {}
  blocks : Nat := 0
  rawBlocks : Nat := 0
  err : Nat := 0
  errOff : Nat := 0
  deriving DecidableEq, Repr

/-- Drop `k` whole bytes. -/
def EvzDec.skip (d : EvzDec) (k : Nat) : EvzDec :=
  { d with buf := d.buf.drop k, off := d.off + k, bit := 0 }

/-- Read `w` bits, lowest first; none where the input holds too few. -/
def EvzDec.readBits (d : EvzDec) (w : Nat) : Option (Nat × EvzDec) :=
  if d.buf.length * 8 < d.bit + w then none
  else
    let v := ofLe (d.buf.take 4) / 2 ^ d.bit % 2 ^ w
    let k := (d.bit + w) / 8
    some (v, { d with buf := d.buf.drop k, off := d.off + k, bit := (d.bit + w) % 8 })

def EvzDec.fail (d : EvzDec) (kind : Nat) : EvzDec :=
  { d with err := kind, errOff := d.off, phase := .done }

/-- One action of the decoder: the bytes it outputs, or none where it needs more input or has ended. -/
def EvzDec.step (d : EvzDec) : Option (EvzDec × List Byte) :=
  match d.phase with
  | .done => none
  | .header =>
    if d.buf.length < 8 then none
    else
      let h := d.buf.take 8
      let n := le h 4 4
      if le h 0 2 ≠ 0x5A45 ∨ le h 2 1 ≥ 4 ∨ le h 3 1 ≠ 0 ∨ n = 0 ∨ n > 65536 then some (d.fail 2, [])
      else
        let d := d.skip 8
        some ({ d with
                phase := if Sys2Proof.bit (le h 2 1) 0 then .raw else .coded
                last := Sys2Proof.bit (le h 2 1) 1, inLen := n, made := 0, dict := {}
                blocks := d.blocks + 1
                rawBlocks := d.rawBlocks + b2n (Sys2Proof.bit (le h 2 1) 0) }, [])
  | .raw =>
    if d.made = d.inLen then some ({ d with phase := .pad }, [])
    else match d.buf with
      | [] => none
      | b :: _ => some ({ d.skip 1 with made := d.made + 1 }, [b])
  | .coded =>
    match d.readBits (evzWidth d.dict.n) with
    | none => none
    | some (c, e) =>
      if c = 256 then some ({ e with dict := {} }, [])
      else if c = 257 then
        if d.made = d.inLen then some ({ e with phase := .pad }, []) else some (d.fail 3, [])
      else if c = 258 then
        -- skip to the next 64-byte boundary of the stream offset
        let k := (64 - (e.off + b2n (e.bit ≠ 0)) % 64) % 64 + b2n (e.bit ≠ 0)
        if e.buf.length < k then none else some (e.skip k, [])
      else match d.dict.find c with
        | none => some (d.fail 1, [])
        | some s =>
          if d.made + s.length > d.inLen then some (d.fail 3, [])
          else some ({ e with dict := d.dict.learn s, made := d.made + s.length }, s)
  | .pad =>
    let k := let p := b2n (d.bit ≠ 0)
             p + (8 - (d.off + p) % 8) % 8
    if d.buf.length < k then none
    else some ({ d.skip k with phase := if d.last then .done else .header }, [])

/-- The decoder run until it needs input, fails or ends; the fuel bounds its actions. -/
def EvzDec.run : Nat → EvzDec → List Byte → EvzDec × List Byte
  | 0, d, out => (d, out)
  | n + 1, d, out =>
    match d.step with
    | none => (d, out)
    | some (d', o) => EvzDec.run n d' (out ++ o)

/-- Fuel enough for the input: every action but a bounded few uses input. -/
def EvzDec.fuel (d : EvzDec) : Nat := 8 * d.buf.length + 16

/-- Decode one block or a stream held whole: the output, or the kind of the error (R440). -/
def evzDecode (l : List Byte) : Except Nat (List Byte) :=
  let (d, out) := EvzDec.run (8 * l.length + 16) { buf := l } []
  if d.err ≠ 0 then .error d.err else .ok out

/-! ### The encoder -/

/-- The longest string at the front of the input that has a code (R440: greedy longest match): the code and its
length. -/
def EvzDict.longest (d : EvzDict) (xs : List Byte) : Nat × Nat :=
  let cand : List (Nat × List Byte) :=
    (d.entries.zipIdx.map (fun p => (259 + p.2, p.1))) ++
      (if d.n ≥ 1 ∧ d.next ≤ 65535 then [(d.next, d.prev ++ d.prev.take 1)] else [])
  cand.foldl (fun best p => if p.2.isPrefixOf xs ∧ p.2.length > best.2 then (p.1, p.2.length) else best)
    ((xs.headD 0).toNat, 1)

/-- The `w` bits of a number, lowest first. -/
def natBits (w v : Nat) : List Bool := (List.range w).map (Sys2Proof.bit v)

/-- The codes of a block with their widths, RESET in place of the next data code once `next` has passed 65,535, and END
last; the fuel is two a byte. -/
def evzCodes : Nat → EvzDict → List Byte → List (Nat × Nat)
  | 0, _, _ => []
  | _, d, [] => [(evzWidth d.n, 257)]
  | k + 1, d, x :: xs =>
    let w := evzWidth d.n
    if d.next > 65535 then (w, 256) :: evzCodes k {} (x :: xs)
    else
      let (c, n) := d.longest (x :: xs)
      (w, c) :: evzCodes k (d.learn ((x :: xs).take n)) ((x :: xs).drop n)

/-- The bytes of a bit list, lowest bit first. -/
def packBits : Nat → List Bool → List Byte
  | 0, _ => []
  | n + 1, b =>
    match b with
    | [] => []
    | _ => BitVec.ofNat 8 ((b.take 8).zipIdx.foldl (fun a p => a + b2n p.1 * 2 ^ p.2) 0) :: packBits n (b.drop 8)

/-- The codes of a block's payload; none where the coded block, padded, is no shorter than the raw one and the block is
stored raw (R440). -/
def evzPlan (data : List Byte) : Option (List (Nat × Nat)) :=
  let codes := evzCodes (2 * data.length + 2) {} data
  let bytes := ceilDiv (codes.map (·.1)).sum 8
  if ceilDiv data.length 8 ≤ ceilDiv bytes 8 then none else some codes

/-- A block's header (R438). -/
def evzHeader (last raw : Bool) (n : Nat) : List Byte :=
  [0x45, 0x5A, BitVec.ofNat 8 (b2n raw + 2 * b2n last), 0] ++ leBytes 4 n

/-- One block written into one endless buffer, padded to a multiple of 8. -/
def evzBlock (last : Bool) (data : List Byte) : List Byte :=
  match evzPlan data with
  | none => evzHeader last true data.length ++ padTo 8 data
  | some codes =>
    let b := codes.flatMap fun x => natBits x.1 x.2
    evzHeader last false data.length ++ padTo 8 (packBits b.length b)

end Sys2Proof.Machine
end

