-- ==== Sys2Proof/Machine/Regs.lean ====
section
/-!
DEFINITION. The register map: the name and BAR0 offset of every register (`R`), its fields that do not
fill the word (`F`), and the rows of the spec's register tables (access type and reset value of each field),
spec/21_register_map.md R547 and the chapters' tables R76, R106, R137, R159, R185, R208, R238, R264, R297, R317,
R346, R375, R425, R446, R472, R494, R520, R521, R545, R553. An indexed register is a function of its index.
-/
namespace Sys2Proof.Machine

/-- A field of a register: the register's BAR0 offset, its lowest bit and its width. -/
structure Fld where
  off : Nat
  lo : Nat
  wid : Nat
  deriving DecidableEq, Repr

/-- Access types of the register tables (spec/00_scope.md R4). -/
inductive Acc where
  | rw | ro | rc | w1c | w1s | wo | rwc
  deriving DecidableEq, Repr

/-- One field of a register row: lowest bit, width and access type. -/
structure FldRow where
  lo : Nat
  wid : Nat
  acc : Acc
  deriving DecidableEq, Repr

/-- One row of a register table: `count` registers `stride` apart, each of `count2` registers `stride2` apart. -/
structure RegRow where
  base : Nat
  stride : Nat
  count : Nat
  stride2 : Nat
  count2 : Nat
  rst : Nat
  flds : List FldRow
  deriving DecidableEq, Repr


/-! ### R76 -/

def R.ENC_CFG (n : Nat) : Nat := 0x20000 + 0x100 * n
def F.ENC_CFG_EN (n : Nat) : Fld := ⟨R.ENC_CFG n, 0, 1⟩
def F.ENC_CFG_MODE (n : Nat) : Fld := ⟨R.ENC_CFG n, 1, 2⟩
def F.ENC_CFG_INVERT (n : Nat) : Fld := ⟨R.ENC_CFG n, 3, 1⟩
def F.ENC_CFG_Z_EN (n : Nat) : Fld := ⟨R.ENC_CFG n, 4, 1⟩
def F.ENC_CFG_Z_GATE (n : Nat) : Fld := ⟨R.ENC_CFG n, 5, 2⟩
def F.ENC_CFG_IDX_CORR_EN (n : Nat) : Fld := ⟨R.ENC_CFG n, 7, 1⟩
def F.ENC_CFG_IDX_FAULT (n : Nat) : Fld := ⟨R.ENC_CFG n, 8, 1⟩
def F.ENC_CFG_HYST (n : Nat) : Fld := ⟨R.ENC_CFG n, 9, 6⟩
def F.ENC_CFG_SPEED_EDGES (n : Nat) : Fld := ⟨R.ENC_CFG n, 15, 3⟩
def R.ENC_SCALE_LO (n : Nat) : Nat := 0x20004 + 0x100 * n
def R.ENC_SCALE_HI (n : Nat) : Nat := 0x20008 + 0x100 * n
def R.ENC_COUNT_LO (n : Nat) : Nat := 0x2000C + 0x100 * n
def R.ENC_COUNT_HI (n : Nat) : Nat := 0x20010 + 0x100 * n
def R.ENC_POS_LO (n : Nat) : Nat := 0x20014 + 0x100 * n
def R.ENC_POS_HI (n : Nat) : Nat := 0x20018 + 0x100 * n
def R.ENC_SPEED (n : Nat) : Nat := 0x2001C + 0x100 * n
def R.ENC_STATUS (n : Nat) : Nat := 0x20020 + 0x100 * n
def F.ENC_STATUS_LOS (n : Nat) : Fld := ⟨R.ENC_STATUS n, 0, 1⟩
def F.ENC_STATUS_AMP_FAULT (n : Nat) : Fld := ⟨R.ENC_STATUS n, 1, 1⟩
def F.ENC_STATUS_STANDSTILL (n : Nat) : Fld := ⟨R.ENC_STATUS n, 2, 1⟩
def F.ENC_STATUS_DIR (n : Nat) : Fld := ⟨R.ENC_STATUS n, 3, 1⟩
def F.ENC_STATUS_INDEX_SEEN (n : Nat) : Fld := ⟨R.ENC_STATUS n, 4, 1⟩
def F.ENC_STATUS_INDEX_ERR (n : Nat) : Fld := ⟨R.ENC_STATUS n, 5, 1⟩
def F.ENC_STATUS_INDEX_MISSING (n : Nat) : Fld := ⟨R.ENC_STATUS n, 6, 1⟩
def F.ENC_STATUS_OVERRATE (n : Nat) : Fld := ⟨R.ENC_STATUS n, 7, 1⟩
def F.ENC_STATUS_ILLEGAL (n : Nat) : Fld := ⟨R.ENC_STATUS n, 8, 1⟩
def F.ENC_STATUS_FAULTED (n : Nat) : Fld := ⟨R.ENC_STATUS n, 9, 1⟩
def R.ENC_ILLEGAL_CNT (n : Nat) : Nat := 0x20024 + 0x100 * n
def R.ENC_INDEX_EXP (n : Nat) : Nat := 0x20028 + 0x100 * n
def R.ENC_INDEX_ERR (n : Nat) : Nat := 0x2002C + 0x100 * n
def R.ENC_INDEX_TOL (n : Nat) : Nat := 0x20030 + 0x100 * n
def F.ENC_INDEX_TOL_TOL (n : Nat) : Fld := ⟨R.ENC_INDEX_TOL n, 0, 16⟩
def R.ENC_STANDSTILL (n : Nat) : Nat := 0x20034 + 0x100 * n
def F.ENC_STANDSTILL_TIMEOUT (n : Nat) : Fld := ⟨R.ENC_STANDSTILL n, 0, 24⟩
def R.ENC_AMP (n : Nat) : Nat := 0x20038 + 0x100 * n
def F.ENC_AMP_AMP_LO (n : Nat) : Fld := ⟨R.ENC_AMP n, 0, 10⟩
def F.ENC_AMP_AMP_HI (n : Nat) : Fld := ⟨R.ENC_AMP n, 16, 10⟩
def R.ENC_LAST_EDGE (n : Nat) : Nat := 0x2003C + 0x100 * n
def R.WEB_CTRL : Nat := 0x20800
def F.WEB_CTRL_ENC1_TRACK_EN : Fld := ⟨R.WEB_CTRL, 0, 1⟩
def F.WEB_CTRL_PRINT_DIR : Fld := ⟨R.WEB_CTRL, 1, 1⟩
def R.WEB_SRC : Nat := 0x20804
def F.WEB_SRC_ACTIVE : Fld := ⟨R.WEB_SRC, 0, 1⟩
def F.WEB_SRC_FAILED_OVER : Fld := ⟨R.WEB_SRC, 1, 1⟩
def F.WEB_SRC_LOST : Fld := ⟨R.WEB_SRC, 2, 1⟩
def F.WEB_SRC_CAUSE : Fld := ⟨R.WEB_SRC, 4, 4⟩
def R.WEB_POS_LO : Nat := 0x20808
def R.WEB_POS_HI : Nat := 0x2080C
def R.WEB_SPEED : Nat := 0x20810
def R.WEB_TRACK_DEV : Nat := 0x20814
def R.WEB_TRACK_TOL : Nat := 0x20818
def R.WEB_PITCH_LO : Nat := 0x2081C
def R.WEB_PITCH_HI : Nat := 0x20820
def R.WEB_SPEED_MAX : Nat := 0x20824
def R.WEB_ILL_FAULT : Nat := 0x20828
def F.WEB_ILL_FAULT_N : Fld := ⟨R.WEB_ILL_FAULT, 0, 8⟩
def R.WEB_BACKUP_LIMIT : Nat := 0x2082C
def R.WEB_NEXT_STROKE_LO : Nat := 0x20830
def R.WEB_NEXT_STROKE_HI : Nat := 0x20834
def R.CMP_CFG (n : Nat) : Nat := 0x21000 + 0x40 * n
def F.CMP_CFG_EN (n : Nat) : Fld := ⟨R.CMP_CFG n, 0, 1⟩
def F.CMP_CFG_SRC (n : Nat) : Fld := ⟨R.CMP_CFG n, 1, 2⟩
def F.CMP_CFG_MODE (n : Nat) : Fld := ⟨R.CMP_CFG n, 3, 2⟩
def F.CMP_CFG_DIR (n : Nat) : Fld := ⟨R.CMP_CFG n, 5, 2⟩
def F.CMP_CFG_LATE_FIRE (n : Nat) : Fld := ⟨R.CMP_CFG n, 7, 1⟩
def F.CMP_CFG_INTERP (n : Nat) : Fld := ⟨R.CMP_CFG n, 8, 1⟩
def F.CMP_CFG_POL (n : Nat) : Fld := ⟨R.CMP_CFG n, 9, 1⟩
def F.CMP_CFG_DEFECT_SRC (n : Nat) : Fld := ⟨R.CMP_CFG n, 10, 1⟩
def R.CMP_TARGET_LO (n : Nat) : Nat := 0x21004 + 0x40 * n
def R.CMP_TARGET_HI (n : Nat) : Nat := 0x21008 + 0x40 * n
def R.CMP_INTERVAL (n : Nat) : Nat := 0x2100C + 0x40 * n
def R.CMP_COUNT (n : Nat) : Nat := 0x21010 + 0x40 * n
def F.CMP_COUNT_COUNT (n : Nat) : Fld := ⟨R.CMP_COUNT n, 0, 16⟩
def R.CMP_WIDTH (n : Nat) : Nat := 0x21014 + 0x40 * n
def F.CMP_WIDTH_WIDTH (n : Nat) : Fld := ⟨R.CMP_WIDTH n, 0, 19⟩
def R.CMP_STATUS (n : Nat) : Nat := 0x21018 + 0x40 * n
def F.CMP_STATUS_ARMED (n : Nat) : Fld := ⟨R.CMP_STATUS n, 0, 1⟩
def F.CMP_STATUS_ACTIVE (n : Nat) : Fld := ⟨R.CMP_STATUS n, 1, 1⟩
def F.CMP_STATUS_MISSED (n : Nat) : Fld := ⟨R.CMP_STATUS n, 2, 1⟩
def F.CMP_STATUS_MERGED (n : Nat) : Fld := ⟨R.CMP_STATUS n, 3, 1⟩
def F.CMP_STATUS_FIFO_LEVEL (n : Nat) : Fld := ⟨R.CMP_STATUS n, 4, 5⟩
def F.CMP_STATUS_CFG_ERR (n : Nat) : Fld := ⟨R.CMP_STATUS n, 9, 1⟩
def F.CMP_STATUS_FIFO_OVF (n : Nat) : Fld := ⟨R.CMP_STATUS n, 10, 1⟩
def R.CMP_PULSES (n : Nat) : Nat := 0x2101C + 0x40 * n
def R.CMP_LAST_T32 (n : Nat) : Nat := 0x21020 + 0x40 * n
def R.CMP_MARK_OFS (n : Nat) : Nat := 0x21024 + 0x40 * n

/-! ### R106 -/

def R.FIRE_CFG (n : Nat) : Nat := 0x30000 + 0x40 * n
def F.FIRE_CFG_EN (n : Nat) : Fld := ⟨R.FIRE_CFG n, 0, 1⟩
def F.FIRE_CFG_POL (n : Nat) : Fld := ⟨R.FIRE_CFG n, 1, 1⟩
def R.FIRE_MIN_PERIOD (n : Nat) : Nat := 0x30004 + 0x40 * n
def F.FIRE_MIN_PERIOD_PERIOD (n : Nat) : Fld := ⟨R.FIRE_MIN_PERIOD n, 0, 20⟩
def R.FIRE_WIDTH (n : Nat) : Nat := 0x30008 + 0x40 * n
def F.FIRE_WIDTH_WIDTH (n : Nat) : Fld := ⟨R.FIRE_WIDTH n, 0, 12⟩
def R.FIRE_ALIGN_FWD_LO (n : Nat) : Nat := 0x3000C + 0x40 * n
def R.FIRE_ALIGN_FWD_HI (n : Nat) : Nat := 0x30010 + 0x40 * n
def R.FIRE_ALIGN_REV_LO (n : Nat) : Nat := 0x30014 + 0x40 * n
def R.FIRE_ALIGN_REV_HI (n : Nat) : Nat := 0x30018 + 0x40 * n
def R.FIRE_TRIM (n : Nat) : Nat := 0x3001C + 0x40 * n
def F.FIRE_TRIM_BIAS (n : Nat) : Fld := ⟨R.FIRE_TRIM n, 0, 16⟩
def F.FIRE_TRIM_SPAN (n : Nat) : Fld := ⟨R.FIRE_TRIM n, 16, 16⟩
def R.FIRE_WD (n : Nat) : Nat := 0x30020 + 0x40 * n
def F.FIRE_WD_LIMIT (n : Nat) : Fld := ⟨R.FIRE_WD n, 0, 9⟩
def R.FIRE_STATUS (n : Nat) : Nat := 0x30024 + 0x40 * n
def F.FIRE_STATUS_WD_TRIPPED (n : Nat) : Fld := ⟨R.FIRE_STATUS n, 0, 1⟩
def F.FIRE_STATUS_PENDING (n : Nat) : Fld := ⟨R.FIRE_STATUS n, 1, 1⟩
def F.FIRE_STATUS_TRIM_CLAMP (n : Nat) : Fld := ⟨R.FIRE_STATUS n, 2, 1⟩
def R.FIRE_SKIP_CNT (n : Nat) : Nat := 0x30028 + 0x40 * n
def R.FIRE_BLOCK_CNT (n : Nat) : Nat := 0x3002C + 0x40 * n
def R.FIRE_FIRED_CNT (n : Nat) : Nat := 0x30030 + 0x40 * n
def R.FIRE_LAST_T32 (n : Nat) : Nat := 0x30034 + 0x40 * n
def R.FIRE_OFFSET_INT (n : Nat) : Nat := 0x30038 + 0x40 * n
def R.FIRE_OFFSET_FRAC (n : Nat) : Nat := 0x3003C + 0x40 * n
def R.FIRE_CTRL : Nat := 0x30800
def F.FIRE_CTRL_SLOW_PCT : Fld := ⟨R.FIRE_CTRL, 0, 7⟩
def F.FIRE_CTRL_SLOW_HYST : Fld := ⟨R.FIRE_CTRL, 8, 4⟩
def F.FIRE_CTRL_SLOW_POL : Fld := ⟨R.FIRE_CTRL, 12, 1⟩
def F.FIRE_CTRL_WD_EN : Fld := ⟨R.FIRE_CTRL, 13, 1⟩
def R.FIRE_WD_CLEAR : Nat := 0x30804
def F.FIRE_WD_CLEAR_CLR : Fld := ⟨R.FIRE_WD_CLEAR, 0, 16⟩
def R.FIRE_RATE_LIMIT : Nat := 0x30808
def F.FIRE_RATE_LIMIT_RATE : Fld := ⟨R.FIRE_RATE_LIMIT, 0, 18⟩
def R.FIRE_MARK_SEL : Nat := 0x3080C
def F.FIRE_MARK_SEL_SEL : Fld := ⟨R.FIRE_MARK_SEL, 0, 8⟩
def R.FIRE_SLOW_STAT : Nat := 0x30810
def F.FIRE_SLOW_STAT_SLOW_REQ : Fld := ⟨R.FIRE_SLOW_STAT, 0, 1⟩
def F.FIRE_SLOW_STAT_BAR : Fld := ⟨R.FIRE_SLOW_STAT, 4, 4⟩
def F.FIRE_SLOW_STAT_RATIO : Fld := ⟨R.FIRE_SLOW_STAT, 8, 8⟩
def R.FIRE_TEST_STAT : Nat := 0x30814
def F.FIRE_TEST_STAT_RUNNING : Fld := ⟨R.FIRE_TEST_STAT, 0, 1⟩
def F.FIRE_TEST_STAT_LINES : Fld := ⟨R.FIRE_TEST_STAT, 8, 24⟩

/-! ### R137 -/

def R.JOB_CFG : Nat := 0x40000
def F.JOB_CFG_SPACE : Fld := ⟨R.JOB_CFG, 0, 1⟩
def F.JOB_CFG_INKS : Fld := ⟨R.JOB_CFG, 8, 8⟩
def R.JOB_REPEAT_INT : Nat := 0x40004
def R.JOB_REPEAT_FRAC : Nat := 0x40008
def F.JOB_REPEAT_FRAC_FRAC : Fld := ⟨R.JOB_REPEAT_FRAC, 0, 16⟩
def R.JOB_LAST_LO : Nat := 0x4000C
def R.JOB_LAST_HI : Nat := 0x40010
def F.JOB_LAST_HI_LAST : Fld := ⟨R.JOB_LAST_HI, 0, 16⟩
def R.JOB_BG (n : Nat) : Nat := 0x40014 + 0x4 * n
def F.JOB_BG_BG0 (n : Nat) : Fld := ⟨R.JOB_BG n, 0, 16⟩
def F.JOB_BG_BG1 (n : Nat) : Fld := ⟨R.JOB_BG n, 16, 16⟩
def R.JOB_ADD_MAP : Nat := 0x40024
def F.JOB_ADD_MAP_MAP : Fld := ⟨R.JOB_ADD_MAP, 0, 20⟩
def R.CMT_STATUS : Nat := 0x40028
def F.CMT_STATUS_LIVE : Fld := ⟨R.CMT_STATUS, 0, 4⟩
def F.CMT_STATUS_GEN : Fld := ⟨R.CMT_STATUS, 8, 8⟩
def R.CMT_LAST_LE_LO : Nat := 0x4002C
def R.CMT_LAST_LE_HI : Nat := 0x40030
def F.CMT_LAST_LE_HI_LE : Fld := ⟨R.CMT_LAST_LE_HI, 0, 16⟩
def R.CMT_DEFER_CNT : Nat := 0x40034
def R.PROT_MISMATCH_CNT : Nat := 0x40038
def R.PROT_UNCHECKED_CNT : Nat := 0x4003C
def R.PR_FAIL_LO : Nat := 0x40040
def R.PR_FAIL_HI : Nat := 0x40044
def R.LAY_CFG (n : Nat) : Nat := 0x40100 + 0x40 * n
def F.LAY_CFG_EN (n : Nat) : Fld := ⟨R.LAY_CFG n, 0, 1⟩
def F.LAY_CFG_MODE (n : Nat) : Fld := ⟨R.LAY_CFG n, 1, 3⟩
def F.LAY_CFG_ORDER (n : Nat) : Fld := ⟨R.LAY_CFG n, 4, 3⟩
def F.LAY_CFG_SRC (n : Nat) : Fld := ⟨R.LAY_CFG n, 7, 1⟩
def F.LAY_CFG_TILE_X (n : Nat) : Fld := ⟨R.LAY_CFG n, 8, 1⟩
def F.LAY_CFG_TILE_Y (n : Nat) : Fld := ⟨R.LAY_CFG n, 9, 1⟩
def F.LAY_CFG_HALF_DROP (n : Nat) : Fld := ⟨R.LAY_CFG n, 10, 1⟩
def F.LAY_CFG_POLICY (n : Nat) : Fld := ⟨R.LAY_CFG n, 11, 2⟩
def F.LAY_CFG_CH_MASK (n : Nat) : Fld := ⟨R.LAY_CFG n, 16, 8⟩
def R.LAY_SURF (n : Nat) : Nat := 0x40104 + 0x40 * n
def F.LAY_SURF_ID (n : Nat) : Fld := ⟨R.LAY_SURF n, 0, 10⟩
def R.LAY_X0 (n : Nat) : Nat := 0x40108 + 0x40 * n
def R.LAY_W (n : Nat) : Nat := 0x4010C + 0x40 * n
def R.LAY_Y0_LO (n : Nat) : Nat := 0x40110 + 0x40 * n
def R.LAY_Y0_HI (n : Nat) : Nat := 0x40114 + 0x40 * n
def F.LAY_Y0_HI_Y0 (n : Nat) : Fld := ⟨R.LAY_Y0_HI n, 0, 16⟩
def R.LAY_LEN (n : Nat) : Nat := 0x40118 + 0x40 * n
def R.LAY_TILE_W (n : Nat) : Nat := 0x4011C + 0x40 * n
def R.LAY_TILE_H (n : Nat) : Nat := 0x40120 + 0x40 * n
def R.LAY_FILL (n j : Nat) : Nat := 0x40124 + 0x40 * n + 0x4 * j
def F.LAY_FILL_FILL0 (n j : Nat) : Fld := ⟨R.LAY_FILL n j, 0, 16⟩
def F.LAY_FILL_FILL1 (n j : Nat) : Fld := ⟨R.LAY_FILL n j, 16, 16⟩
def R.LAY_QSTAT (n : Nat) : Nat := 0x40134 + 0x40 * n
def F.LAY_QSTAT_DEPTH (n : Nat) : Fld := ⟨R.LAY_QSTAT n, 0, 7⟩
def F.LAY_QSTAT_QLOW (n : Nat) : Fld := ⟨R.LAY_QSTAT n, 8, 7⟩
def R.LAY_QNEXT (n : Nat) : Nat := 0x40138 + 0x40 * n
def R.LAY_NOTREADY_CNT (n : Nat) : Nat := 0x4013C + 0x40 * n
def R.PR_CFG (n : Nat) : Nat := 0x40400 + 0x20 * n
def F.PR_CFG_EN (n : Nat) : Fld := ⟨R.PR_CFG n, 0, 1⟩
def F.PR_CFG_PANEL (n : Nat) : Fld := ⟨R.PR_CFG n, 1, 1⟩
def F.PR_CFG_LAYER (n : Nat) : Fld := ⟨R.PR_CFG n, 2, 3⟩
def F.PR_CFG_INK_MASK (n : Nat) : Fld := ⟨R.PR_CFG n, 16, 8⟩
def R.PR_C0 (n : Nat) : Nat := 0x40404 + 0x20 * n
def F.PR_C0_C0 (n : Nat) : Fld := ⟨R.PR_C0 n, 0, 17⟩
def R.PR_C1 (n : Nat) : Nat := 0x40408 + 0x20 * n
def F.PR_C1_C1 (n : Nat) : Fld := ⟨R.PR_C1 n, 0, 17⟩
def R.PR_L0_LO (n : Nat) : Nat := 0x4040C + 0x20 * n
def R.PR_L0_HI (n : Nat) : Nat := 0x40410 + 0x20 * n
def F.PR_L0_HI_L0 (n : Nat) : Fld := ⟨R.PR_L0_HI n, 0, 16⟩
def R.PR_LINES (n : Nat) : Nat := 0x40414 + 0x20 * n
def R.PR_EXPECT (n : Nat) : Nat := 0x40418 + 0x20 * n
def R.PR_ACTUAL (n : Nat) : Nat := 0x4041C + 0x20 * n

/-! ### R159 -/

def R.SC_CFG : Nat := 0x50000
def F.SC_CFG_BYPASS_X : Fld := ⟨R.SC_CFG, 0, 1⟩
def F.SC_CFG_BYPASS_Y : Fld := ⟨R.SC_CFG, 1, 1⟩
def F.SC_CFG_DIST_EN : Fld := ⟨R.SC_CFG, 2, 1⟩
def F.SC_CFG_DIST_LOCK : Fld := ⟨R.SC_CFG, 3, 1⟩
def F.SC_CFG_CURVE_EN : Fld := ⟨R.SC_CFG, 4, 1⟩
def F.SC_CFG_TIL_EN : Fld := ⟨R.SC_CFG, 5, 1⟩
def R.SC_STEP_X : Nat := 0x50004
def R.SC_STEP_Y : Nat := 0x50008
def R.SC_U0_LO : Nat := 0x5000C
def R.SC_U0_HI : Nat := 0x50010
def R.SC_V0_LO : Nat := 0x50014
def R.SC_V0_HI : Nat := 0x50018
def R.SC_ZONE_X0 : Nat := 0x5001C
def F.SC_ZONE_X0_X0 : Fld := ⟨R.SC_ZONE_X0, 0, 17⟩
def R.SC_ZONE_W : Nat := 0x50020
def F.SC_ZONE_W_W : Fld := ⟨R.SC_ZONE_W, 0, 12⟩
def R.SC_TIL : Nat := 0x50024
def F.SC_TIL_LIMIT : Fld := ⟨R.SC_TIL, 0, 20⟩
def R.SC_TIL_MASK : Nat := 0x50028
def F.SC_TIL_MASK_MASK : Fld := ⟨R.SC_TIL_MASK, 0, 8⟩
def R.SC_CLIP_CNT : Nat := 0x5002C
def R.SC_CAP_STAT : Nat := 0x50030
def F.SC_CAP_STAT_DEMAND : Fld := ⟨R.SC_CAP_STAT, 0, 20⟩
def F.SC_CAP_STAT_SLICE : Fld := ⟨R.SC_CAP_STAT, 20, 4⟩
def F.SC_CAP_STAT_OVER : Fld := ⟨R.SC_CAP_STAT, 24, 1⟩
def R.SC_ZONE (n : Nat) : Nat := 0x50100 + 0x4 * n
def F.SC_ZONE_SHIFT (n : Nat) : Fld := ⟨R.SC_ZONE n, 0, 16⟩
def F.SC_ZONE_STRETCH (n : Nat) : Fld := ⟨R.SC_ZONE n, 16, 16⟩
def R.SC_COEF_X (n : Nat) : Nat := 0x51000 + 0x4 * n
def F.SC_COEF_X_TAP_J (n : Nat) : Fld := ⟨R.SC_COEF_X n, 0, 16⟩
def F.SC_COEF_X_TAP_J1 (n : Nat) : Fld := ⟨R.SC_COEF_X n, 16, 16⟩
def R.SC_COEF_Y (n : Nat) : Nat := 0x51400 + 0x4 * n
def F.SC_COEF_Y_TAP_J (n : Nat) : Fld := ⟨R.SC_COEF_Y n, 0, 16⟩
def F.SC_COEF_Y_TAP_J1 (n : Nat) : Fld := ⟨R.SC_COEF_Y n, 16, 16⟩

/-! ### R185 -/

def R.NZ_CFG : Nat := 0x60000
def F.NZ_CFG_TSET_EN : Fld := ⟨R.NZ_CFG, 0, 1⟩
def F.NZ_CFG_CC_EN : Fld := ⟨R.NZ_CFG, 1, 1⟩
def F.NZ_CFG_HIDE_WEAK : Fld := ⟨R.NZ_CFG, 2, 1⟩
def F.NZ_CFG_VIEW : Fld := ⟨R.NZ_CFG, 3, 1⟩
def F.NZ_CFG_CC_DEPTH : Fld := ⟨R.NZ_CFG, 4, 4⟩
def R.NZ_CC_EDGE : Nat := 0x60004
def F.NZ_CC_EDGE_E1 : Fld := ⟨R.NZ_CC_EDGE, 0, 8⟩
def F.NZ_CC_EDGE_E2 : Fld := ⟨R.NZ_CC_EDGE, 8, 8⟩
def F.NZ_CC_EDGE_E3 : Fld := ⟨R.NZ_CC_EDGE, 16, 8⟩
def R.NZ_STAT : Nat := 0x60008
def F.NZ_STAT_PENDING : Fld := ⟨R.NZ_STAT, 0, 8⟩
def F.NZ_STAT_FULL_OK : Fld := ⟨R.NZ_STAT, 8, 8⟩
def F.NZ_STAT_MAP_RUNS : Fld := ⟨R.NZ_STAT, 16, 13⟩
def R.NZ_LEAD : Nat := 0x6000C
def F.NZ_LEAD_LEAD : Fld := ⟨R.NZ_LEAD, 0, 8⟩
def R.NZ_TSET_TEMP (n : Nat) : Nat := 0x60010 + 0x4 * n
def F.NZ_TSET_TEMP_TEMP (n : Nat) : Fld := ⟨R.NZ_TSET_TEMP n, 0, 16⟩
def F.NZ_TSET_TEMP_VALID (n : Nat) : Fld := ⟨R.NZ_TSET_TEMP n, 16, 1⟩
def R.NZ_TSET_BASE_LO (n : Nat) : Nat := 0x60020 + 0x8 * n
def R.NZ_TSET_BASE_HI (n : Nat) : Nat := 0x60024 + 0x8 * n
def R.NZ_HIDE_PARTNER_CNT : Nat := 0x60040
def R.NZ_HIDE_REDIST_CNT : Nat := 0x60044
def R.NZ_LOST_CNT : Nat := 0x60048
def R.NZ_TEMP_UPD_CNT : Nat := 0x6004C
def R.NZ_PACK_EN : Nat := 0x60050
def F.NZ_PACK_EN_EN : Fld := ⟨R.NZ_PACK_EN, 0, 16⟩
def R.NZ_INK (n : Nat) : Nat := 0x60100 + 0x20 * n
def F.NZ_INK_CF2 (n : Nat) : Fld := ⟨R.NZ_INK n, 0, 1⟩
def F.NZ_INK_INTERLEAVE (n : Nat) : Fld := ⟨R.NZ_INK n, 1, 1⟩
def F.NZ_INK_STAGGER (n : Nat) : Fld := ⟨R.NZ_INK n, 2, 1⟩
def F.NZ_INK_BAR0 (n : Nat) : Fld := ⟨R.NZ_INK n, 3, 4⟩
def F.NZ_INK_BAR1 (n : Nat) : Fld := ⟨R.NZ_INK n, 7, 4⟩
def F.NZ_INK_RAND (n : Nat) : Fld := ⟨R.NZ_INK n, 11, 1⟩
def R.SCR_SIZE (n : Nat) : Nat := 0x60104 + 0x20 * n
def F.SCR_SIZE_W (n : Nat) : Fld := ⟨R.SCR_SIZE n, 0, 9⟩
def F.SCR_SIZE_H (n : Nat) : Fld := ⟨R.SCR_SIZE n, 16, 9⟩
def R.SCR_SEED (n : Nat) : Nat := 0x60108 + 0x20 * n
def R.SCR_LEVELS (n : Nat) : Nat := 0x6010C + 0x20 * n
def F.SCR_LEVELS_M (n : Nat) : Fld := ⟨R.SCR_LEVELS n, 0, 4⟩
def R.NZ_PACK (n : Nat) : Nat := 0x60300 + 0x4 * n
def R.LADDER (n j : Nat) : Nat := 0x60400 + 0x40 * n + 0x4 * j
def F.LADDER_T (n j : Nat) : Fld := ⟨R.LADDER n j, 0, 16⟩
def F.LADDER_C (n j : Nat) : Fld := ⟨R.LADDER n j, 16, 4⟩

/-! ### R208 -/

def R.NIB_CFG : Nat := 0x70000
def F.NIB_CFG_CATCH : Fld := ⟨R.NIB_CFG, 0, 4⟩
def F.NIB_CFG_W : Fld := ⟨R.NIB_CFG, 8, 5⟩
def R.NIB_UNDERRUN_POL : Nat := 0x70004
def F.NIB_UNDERRUN_POL_BLANK : Fld := ⟨R.NIB_UNDERRUN_POL, 0, 16⟩
def R.NIB_FRZ_CFG : Nat := 0x70008
def F.NIB_FRZ_CFG_N_FREEZE : Fld := ⟨R.NIB_FRZ_CFG, 0, 16⟩
def F.NIB_FRZ_CFG_VARY : Fld := ⟨R.NIB_FRZ_CFG, 16, 16⟩
def R.NIB_STAT : Nat := 0x7000C
def F.NIB_STAT_ACTIVE : Fld := ⟨R.NIB_STAT, 0, 5⟩
def F.NIB_STAT_SPARES : Fld := ⟨R.NIB_STAT, 5, 2⟩
def F.NIB_STAT_DEGRADED : Fld := ⟨R.NIB_STAT, 7, 1⟩
def F.NIB_STAT_DEGRADE_OK : Fld := ⟨R.NIB_STAT, 8, 1⟩
def F.NIB_STAT_INFLIGHT : Fld := ⟨R.NIB_STAT, 16, 8⟩
def R.NIB_FREEZE : Nat := 0x70010
def F.NIB_FREEZE_FROZEN : Fld := ⟨R.NIB_FREEZE, 0, 16⟩
def R.NIB_FORECAST : Nat := 0x70014
def R.NIB_SQ_COMMIT : Nat := 0x70018
def R.NIB_SQ_NOZZLE : Nat := 0x7001C
def R.NIB_SQ_LAYER : Nat := 0x70020
def R.NIB_SQ_SPEED : Nat := 0x70024
def R.NIB_SQ_FAULT : Nat := 0x70028
def R.LS_CE_CNT : Nat := 0x7002C
def R.LS_UE_CNT : Nat := 0x70030
def R.NIB_MISS_CNT : Nat := 0x70034
def R.NIB_P_MIN : Nat := 0x70038
def R.NIB_W_MIN : Nat := 0x7003C
def F.NIB_W_MIN_WMIN : Fld := ⟨R.NIB_W_MIN, 0, 5⟩
def R.SL_BOUND (n : Nat) : Nat := 0x70100 + 0x4 * n
def F.SL_BOUND_COL (n : Nat) : Fld := ⟨R.SL_BOUND n, 0, 18⟩
def R.NIB_UNDERRUN_CNT (n : Nat) : Nat := 0x70200 + 0x10 * n
def R.NIB_SIG (n : Nat) : Nat := 0x70204 + 0x10 * n
def R.NIB_FRZ_RUN (n : Nat) : Nat := 0x70208 + 0x10 * n
def R.NIBN_STAT (n : Nat) : Nat := 0x70400 + 0x20 * n
def F.NIBN_STAT_STATE (n : Nat) : Fld := ⟨R.NIBN_STAT n, 0, 2⟩
def F.NIBN_STAT_SLICE (n : Nat) : Fld := ⟨R.NIBN_STAT n, 8, 5⟩
def F.NIBN_STAT_INFLIGHT (n : Nat) : Fld := ⟨R.NIBN_STAT n, 16, 4⟩
def F.NIBN_STAT_BUSY (n : Nat) : Fld := ⟨R.NIBN_STAT n, 24, 7⟩
def R.NIBN_DONE (n : Nat) : Nat := 0x70404 + 0x20 * n
def R.NIBN_MISS (n : Nat) : Nat := 0x70408 + 0x20 * n
def R.NIBN_SQUASHED (n : Nat) : Nat := 0x7040C + 0x20 * n
def R.NIBN_SOLO (n : Nat) : Nat := 0x70410 + 0x20 * n

/-! ### R238 -/

def R.PF_CFG : Nat := 0x80000
def F.PF_CFG_EN : Fld := ⟨R.PF_CFG, 0, 1⟩
def F.PF_CFG_POLICY : Fld := ⟨R.PF_CFG, 1, 1⟩
def F.PF_CFG_NZ_BIN : Fld := ⟨R.PF_CFG, 2, 2⟩
def F.PF_CFG_DETAIL_EN : Fld := ⟨R.PF_CFG, 4, 1⟩
def F.PF_CFG_DIST_EN : Fld := ⟨R.PF_CFG, 5, 1⟩
def R.PF_INTERVAL : Nat := 0x80004
def R.PF_PREP : Nat := 0x80008
def F.PF_PREP_PREP : Fld := ⟨R.PF_PREP, 0, 8⟩
def R.PF_SLEW_A : Nat := 0x8000C
def F.PF_SLEW_A_GAIN : Fld := ⟨R.PF_SLEW_A, 0, 8⟩
def F.PF_SLEW_A_OFS : Fld := ⟨R.PF_SLEW_A, 8, 4⟩
def F.PF_SLEW_A_TRIM : Fld := ⟨R.PF_SLEW_A, 16, 8⟩
def F.PF_SLEW_A_SHIFT : Fld := ⟨R.PF_SLEW_A, 24, 8⟩
def R.PF_SLEW_B : Nat := 0x80010
def F.PF_SLEW_B_STRETCH : Fld := ⟨R.PF_SLEW_B, 0, 16⟩
def R.PF_TOL_A : Nat := 0x80014
def F.PF_TOL_A_GAIN : Fld := ⟨R.PF_TOL_A, 0, 8⟩
def F.PF_TOL_A_OFS : Fld := ⟨R.PF_TOL_A, 8, 4⟩
def F.PF_TOL_A_TRIM : Fld := ⟨R.PF_TOL_A, 16, 12⟩
def R.PF_TOL_B : Nat := 0x80018
def F.PF_TOL_B_SHIFT : Fld := ⟨R.PF_TOL_B, 0, 8⟩
def F.PF_TOL_B_STRETCH : Fld := ⟨R.PF_TOL_B, 8, 16⟩
def R.PF_MIN : Nat := 0x8001C
def F.PF_MIN_N : Fld := ⟨R.PF_MIN, 0, 16⟩
def F.PF_MIN_VAR : Fld := ⟨R.PF_MIN, 16, 16⟩
def R.PF_MISC : Nat := 0x80020
def F.PF_MISC_MIN_SLOPE : Fld := ⟨R.PF_MISC, 0, 8⟩
def F.PF_MISC_TBAND : Fld := ⟨R.PF_MISC, 8, 8⟩
def F.PF_MISC_HANDOVER : Fld := ⟨R.PF_MISC, 16, 7⟩
def F.PF_MISC_ZFRAMES : Fld := ⟨R.PF_MISC, 24, 8⟩
def R.PF_STALE_LEN : Nat := 0x80024
def F.PF_STALE_LEN_LEN : Fld := ⟨R.PF_STALE_LEN, 0, 16⟩
def R.PF_ACC_BASE_LO : Nat := 0x80028
def R.PF_ACC_BASE_HI : Nat := 0x8002C
def R.PF_TGT_BASE_LO : Nat := 0x80030
def R.PF_TGT_BASE_HI : Nat := 0x80034
def R.PF_RING_BASE_LO : Nat := 0x80038
def R.PF_RING_BASE_HI : Nat := 0x8003C
def R.PF_RING_LINES : Nat := 0x80040
def R.PF_RING_SIZE : Nat := 0x80044
def R.PF_RING_NEED : Nat := 0x80048
def R.PF_RES_BASE_LO : Nat := 0x8004C
def R.PF_RES_BASE_HI : Nat := 0x80050
def R.PF_RES_SIZE : Nat := 0x80054
def R.PF_RES_WR : Nat := 0x80058
def R.PF_RES_RD : Nat := 0x8005C
def R.PF_TOF_POS_LO : Nat := 0x80060
def R.PF_TOF_POS_HI : Nat := 0x80064
def R.PF_STAT : Nat := 0x80068
def F.PF_STAT_HELD : Fld := ⟨R.PF_STAT, 0, 1⟩
def F.PF_STAT_WAIT : Fld := ⟨R.PF_STAT, 1, 1⟩
def F.PF_STAT_LAST_GEN : Fld := ⟨R.PF_STAT, 8, 8⟩
def R.PF_UPDATE_CNT : Nat := 0x8006C
def R.PF_SOLVE_CNT : Nat := 0x80070
def R.PF_DISAGREE_CNT : Nat := 0x80074
def R.PF_ILLCOND_CNT : Nat := 0x80078
def R.PF_TSPREAD_CNT : Nat := 0x8007C
def R.PF_LATE_CNT : Nat := 0x80080
def R.PF_NOLOCK_CNT : Nat := 0x80084
def R.PF_SKIPFR_CNT : Nat := 0x80088
def R.PF_OUTWIN_CNT : Nat := 0x8008C
def R.PF_FLYWHEEL_CNT : Nat := 0x80090
def R.PF_BUSY_CNT : Nat := 0x80094
def R.PF_RES_DROP_CNT : Nat := 0x80098
def R.PF_TSET_ALT_LO (n : Nat) : Nat := 0x800A0 + 0x8 * n
def R.PF_TSET_ALT_HI (n : Nat) : Nat := 0x800A4 + 0x8 * n
def R.PF_INK (n : Nat) : Nat := 0x80100 + 0x20 * n
def F.PF_INK_MODE (n : Nat) : Fld := ⟨R.PF_INK n, 0, 2⟩
def F.PF_INK_ENGINE (n : Nat) : Fld := ⟨R.PF_INK n, 2, 1⟩
def F.PF_INK_TRIM_EN (n : Nat) : Fld := ⟨R.PF_INK n, 3, 1⟩
def F.PF_INK_CC_EN (n : Nat) : Fld := ⟨R.PF_INK n, 4, 1⟩
def R.PF_INK_BSTALE (n : Nat) : Nat := 0x80104 + 0x20 * n
def R.PF_CAM_CFG (n : Nat) : Nat := 0x80200 + 0x40 * n
def F.PF_CAM_CFG_EN (n : Nat) : Fld := ⟨R.PF_CAM_CFG n, 0, 1⟩
def F.PF_CAM_CFG_TYPE (n : Nat) : Fld := ⟨R.PF_CAM_CFG n, 1, 1⟩
def F.PF_CAM_CFG_ENGINE (n : Nat) : Fld := ⟨R.PF_CAM_CFG n, 2, 1⟩
def F.PF_CAM_CFG_AXIS (n : Nat) : Fld := ⟨R.PF_CAM_CFG n, 3, 1⟩
def F.PF_CAM_CFG_FLIP_X (n : Nat) : Fld := ⟨R.PF_CAM_CFG n, 4, 1⟩
def F.PF_CAM_CFG_FLIP_Y (n : Nat) : Fld := ⟨R.PF_CAM_CFG n, 5, 1⟩
def F.PF_CAM_CFG_SEARCH (n : Nat) : Fld := ⟨R.PF_CAM_CFG n, 6, 6⟩
def F.PF_CAM_CFG_MINCORR (n : Nat) : Fld := ⟨R.PF_CAM_CFG n, 12, 8⟩
def R.PF_CAM_DIST_LO (n : Nat) : Nat := 0x80204 + 0x40 * n
def R.PF_CAM_DIST_HI (n : Nat) : Nat := 0x80208 + 0x40 * n
def R.PF_CAM_XOFS_LO (n : Nat) : Nat := 0x8020C + 0x40 * n
def R.PF_CAM_XOFS_HI (n : Nat) : Nat := 0x80210 + 0x40 * n
def R.PF_CAM_PXW (n : Nat) : Nat := 0x80214 + 0x40 * n
def R.PF_CAM_PXH (n : Nat) : Nat := 0x80218 + 0x40 * n
def R.PF_CAM_WIN (n : Nat) : Nat := 0x8021C + 0x40 * n
def F.PF_CAM_WIN_WIN (n : Nat) : Fld := ⟨R.PF_CAM_WIN n, 0, 13⟩
def R.PF_CAM_REG (n : Nat) : Nat := 0x80220 + 0x40 * n
def F.PF_CAM_REG_DY (n : Nat) : Fld := ⟨R.PF_CAM_REG n, 0, 16⟩
def F.PF_CAM_REG_DX (n : Nat) : Fld := ⟨R.PF_CAM_REG n, 16, 16⟩
def R.PF_CAM_FRAMES (n : Nat) : Nat := 0x80224 + 0x40 * n
def R.PF_CAM_LASTFN (n : Nat) : Nat := 0x80228 + 0x40 * n
def R.PF_STALE (n : Nat) : Nat := 0x80400 + 0x4 * n
def R.PF_DENS (n j : Nat) : Nat := 0x81000 + 0x400 * n + 0x4 * j
def F.PF_DENS_D0 (n j : Nat) : Fld := ⟨R.PF_DENS n j, 0, 16⟩
def F.PF_DENS_D1 (n j : Nat) : Fld := ⟨R.PF_DENS n j, 16, 16⟩

/-! ### R264 -/

def R.CAM_CFG (n : Nat) : Nat := 0x90000 + 0x400 * n
def F.CAM_CFG_EN (n : Nat) : Fld := ⟨R.CAM_CFG n, 0, 1⟩
def F.CAM_CFG_LANES (n : Nat) : Fld := ⟨R.CAM_CFG n, 1, 2⟩
def F.CAM_CFG_VC (n : Nat) : Fld := ⟨R.CAM_CFG n, 3, 2⟩
def F.CAM_CFG_DT (n : Nat) : Fld := ⟨R.CAM_CFG n, 5, 2⟩
def F.CAM_CFG_CFA (n : Nat) : Fld := ⟨R.CAM_CFG n, 7, 3⟩
def F.CAM_CFG_TRIGGERED (n : Nat) : Fld := ⟨R.CAM_CFG n, 10, 1⟩
def F.CAM_CFG_TRIG_CMP (n : Nat) : Fld := ⟨R.CAM_CFG n, 11, 4⟩
def F.CAM_CFG_AXIS_SRC (n : Nat) : Fld := ⟨R.CAM_CFG n, 15, 2⟩
def F.CAM_CFG_TEST (n : Nat) : Fld := ⟨R.CAM_CFG n, 17, 3⟩
def F.CAM_CFG_DPC_DYN_EN (n : Nat) : Fld := ⟨R.CAM_CFG n, 20, 1⟩
def F.CAM_CFG_SHADING_EN (n : Nat) : Fld := ⟨R.CAM_CFG n, 21, 1⟩
def R.CAM_SIZE (n : Nat) : Nat := 0x90004 + 0x400 * n
def F.CAM_SIZE_WIDTH (n : Nat) : Fld := ⟨R.CAM_SIZE n, 0, 14⟩
def F.CAM_SIZE_HEIGHT (n : Nat) : Fld := ⟨R.CAM_SIZE n, 16, 16⟩
def R.CAM_PAD (n : Nat) : Nat := 0x90008 + 0x400 * n
def F.CAM_PAD_PAD (n : Nat) : Fld := ⟨R.CAM_PAD n, 0, 16⟩
def R.CAM_FRAME_TO (n : Nat) : Nat := 0x9000C + 0x400 * n
def F.CAM_FRAME_TO_TO (n : Nat) : Fld := ⟨R.CAM_FRAME_TO n, 0, 24⟩
def R.CAM_SENSOR (n : Nat) : Nat := 0x90010 + 0x400 * n
def F.CAM_SENSOR_I2C_ADDR (n : Nat) : Fld := ⟨R.CAM_SENSOR n, 0, 7⟩
def F.CAM_SENSOR_ADDR16 (n : Nat) : Fld := ⟨R.CAM_SENSOR n, 7, 1⟩
def F.CAM_SENSOR_SPEED (n : Nat) : Fld := ⟨R.CAM_SENSOR n, 8, 2⟩
def F.CAM_SENSOR_K (n : Nat) : Fld := ⟨R.CAM_SENSOR n, 12, 3⟩
def R.CAM_TRIG_DLY (n : Nat) : Nat := 0x90014 + 0x400 * n
def R.CAM_SOF_LEAD (n : Nat) : Nat := 0x90018 + 0x400 * n
def R.CAM_TRIG_WIN (n : Nat) : Nat := 0x9001C + 0x400 * n
def F.CAM_TRIG_WIN_WIN (n : Nat) : Fld := ⟨R.CAM_TRIG_WIN n, 0, 24⟩
def R.CAM_BLACK_01 (n : Nat) : Nat := 0x90020 + 0x400 * n
def F.CAM_BLACK_01_BLACK0 (n : Nat) : Fld := ⟨R.CAM_BLACK_01 n, 0, 16⟩
def F.CAM_BLACK_01_BLACK1 (n : Nat) : Fld := ⟨R.CAM_BLACK_01 n, 16, 16⟩
def R.CAM_BLACK_23 (n : Nat) : Nat := 0x90024 + 0x400 * n
def F.CAM_BLACK_23_BLACK0 (n : Nat) : Fld := ⟨R.CAM_BLACK_23 n, 0, 16⟩
def F.CAM_BLACK_23_BLACK1 (n : Nat) : Fld := ⟨R.CAM_BLACK_23 n, 16, 16⟩
def R.CAM_WB_01 (n : Nat) : Nat := 0x90028 + 0x400 * n
def F.CAM_WB_01_WB0 (n : Nat) : Fld := ⟨R.CAM_WB_01 n, 0, 16⟩
def F.CAM_WB_01_WB1 (n : Nat) : Fld := ⟨R.CAM_WB_01 n, 16, 16⟩
def R.CAM_WB_23 (n : Nat) : Nat := 0x9002C + 0x400 * n
def F.CAM_WB_23_WB0 (n : Nat) : Fld := ⟨R.CAM_WB_23 n, 0, 16⟩
def F.CAM_WB_23_WB1 (n : Nat) : Fld := ⟨R.CAM_WB_23 n, 16, 16⟩
def R.CAM_DPC (n : Nat) : Nat := 0x90030 + 0x400 * n
def F.CAM_DPC_THR (n : Nat) : Fld := ⟨R.CAM_DPC n, 0, 16⟩
def R.CAM_DM (n : Nat) : Nat := 0x90034 + 0x400 * n
def F.CAM_DM_THR (n : Nat) : Fld := ⟨R.CAM_DM n, 0, 16⟩
def R.CAM_CCM (n j : Nat) : Nat := 0x90040 + 0x400 * n + 0x4 * j
def F.CAM_CCM_M0 (n j : Nat) : Fld := ⟨R.CAM_CCM n j, 0, 16⟩
def F.CAM_CCM_M1 (n j : Nat) : Fld := ⟨R.CAM_CCM n j, 16, 16⟩
def R.CAM_DMAT (n j : Nat) : Nat := 0x90060 + 0x400 * n + 0x4 * j
def F.CAM_DMAT_DMAT0 (n j : Nat) : Fld := ⟨R.CAM_DMAT n j, 0, 16⟩
def F.CAM_DMAT_DMAT1 (n j : Nat) : Fld := ⟨R.CAM_DMAT n j, 16, 16⟩
def R.CAM_STAT_CFG (n : Nat) : Nat := 0x90090 + 0x400 * n
def F.CAM_STAT_CFG_ZX (n : Nat) : Fld := ⟨R.CAM_STAT_CFG n, 0, 7⟩
def F.CAM_STAT_CFG_ZY (n : Nat) : Fld := ⟨R.CAM_STAT_CFG n, 8, 6⟩
def F.CAM_STAT_CFG_SRC (n : Nat) : Fld := ⟨R.CAM_STAT_CFG n, 14, 2⟩
def F.CAM_STAT_CFG_PROF_BIN (n : Nat) : Fld := ⟨R.CAM_STAT_CFG n, 16, 3⟩
def F.CAM_STAT_CFG_DENS_MASK (n : Nat) : Fld := ⟨R.CAM_STAT_CFG n, 24, 8⟩
def R.CAM_STAT_BASE_LO (n : Nat) : Nat := 0x90094 + 0x400 * n
def R.CAM_STAT_BASE_HI (n : Nat) : Nat := 0x90098 + 0x400 * n
def R.CAM_STAT_SIZE (n : Nat) : Nat := 0x9009C + 0x400 * n
def R.CAM_STAT_WR (n : Nat) : Nat := 0x900A0 + 0x400 * n
def R.CAM_STAT_RD (n : Nat) : Nat := 0x900A4 + 0x400 * n
def R.CAM_STAT_RECSZ (n : Nat) : Nat := 0x900A8 + 0x400 * n
def R.CAM_TAP (n : Nat) : Nat := 0x900AC + 0x400 * n
def F.CAM_TAP_POINT (n : Nat) : Fld := ⟨R.CAM_TAP n, 0, 2⟩
def F.CAM_TAP_MODE (n : Nat) : Fld := ⟨R.CAM_TAP n, 2, 2⟩
def F.CAM_TAP_N (n : Nat) : Fld := ⟨R.CAM_TAP n, 8, 8⟩
def F.CAM_TAP_BUSY (n : Nat) : Fld := ⟨R.CAM_TAP n, 16, 1⟩
def R.CAM_STATUS (n : Nat) : Nat := 0x900B0 + 0x400 * n
def F.CAM_STATUS_LINK_ACTIVE (n : Nat) : Fld := ⟨R.CAM_STATUS n, 0, 1⟩
def F.CAM_STATUS_EXPSET (n : Nat) : Fld := ⟨R.CAM_STATUS n, 1, 3⟩
def F.CAM_STATUS_EXP_PENDING (n : Nat) : Fld := ⟨R.CAM_STATUS n, 4, 1⟩
def F.CAM_STATUS_EXP_UNKNOWN (n : Nat) : Fld := ⟨R.CAM_STATUS n, 5, 1⟩
def F.CAM_STATUS_FRAME_OPEN (n : Nat) : Fld := ⟨R.CAM_STATUS n, 6, 1⟩
def R.CAM_FN (n : Nat) : Nat := 0x900B4 + 0x400 * n
def R.CAM_CRC_CNT (n : Nat) : Nat := 0x900B8 + 0x400 * n
def R.CAM_ECC_CNT (n : Nat) : Nat := 0x900BC + 0x400 * n
def R.CAM_SHORT_CNT (n : Nat) : Nat := 0x900C0 + 0x400 * n
def R.CAM_LONG_CNT (n : Nat) : Nat := 0x900C4 + 0x400 * n
def R.CAM_UNPAIRED_CNT (n : Nat) : Nat := 0x900C8 + 0x400 * n
def R.CAM_STAT_DROP_CNT (n : Nat) : Nat := 0x900CC + 0x400 * n
def R.CAM_TAP_OVF_CNT (n : Nat) : Nat := 0x900D0 + 0x400 * n
def R.CAM_DISCARD_CNT (n : Nat) : Nat := 0x900D4 + 0x400 * n
def R.CAM_LAST_SOF (n : Nat) : Nat := 0x900D8 + 0x400 * n
def R.CAM_TEST_PERIOD (n : Nat) : Nat := 0x900DC + 0x400 * n
def F.CAM_TEST_PERIOD_PERIOD (n : Nat) : Fld := ⟨R.CAM_TEST_PERIOD n, 0, 24⟩

/-! ### R297 -/

def R.QL_MIRROR : Nat := 0xA0000
def R.QL_DOWN_LO : Nat := 0xA0004
def R.QL_DOWN_HI : Nat := 0xA0008
def R.QL_MIRRONLY_LO : Nat := 0xA000C
def R.QL_MIRRONLY_HI : Nat := 0xA0010
def R.QL_UNPROT_LO : Nat := 0xA0014
def R.QL_UNPROT_HI : Nat := 0xA0018
def R.QL_FEC_LIMIT : Nat := 0xA001C
def F.QL_FEC_LIMIT_LIMIT : Fld := ⟨R.QL_FEC_LIMIT, 0, 16⟩
def R.QL_STAT : Nat := 0xA0020
def F.QL_STAT_ACTIVE : Fld := ⟨R.QL_STAT, 0, 7⟩
def F.QL_STAT_DOWN : Fld := ⟨R.QL_STAT, 8, 7⟩
def F.QL_STAT_BLANKED : Fld := ⟨R.QL_STAT, 16, 7⟩
def R.QL_LIMIT : Nat := 0xA0024
def F.QL_LIMIT_RATE : Fld := ⟨R.QL_LIMIT, 0, 18⟩
def R.QL_TEMP_TO : Nat := 0xA0028
def F.QL_TEMP_TO_TO : Fld := ⟨R.QL_TEMP_TO, 0, 16⟩
def R.QLN_CFG (n : Nat) : Nat := 0xA0100 + 0x40 * n
def F.QLN_CFG_EN (n : Nat) : Fld := ⟨R.QLN_CFG n, 0, 1⟩
def F.QLN_CFG_RATE (n : Nat) : Fld := ⟨R.QLN_CFG n, 1, 2⟩
def F.QLN_CFG_NFR_M1 (n : Nat) : Fld := ⟨R.QLN_CFG n, 3, 6⟩
def R.QLN_STATE (n : Nat) : Nat := 0xA0104 + 0x40 * n
def F.QLN_STATE_STATE (n : Nat) : Fld := ⟨R.QLN_STATE n, 0, 3⟩
def F.QLN_STATE_ATTEMPT (n : Nat) : Fld := ⟨R.QLN_STATE n, 3, 2⟩
def F.QLN_STATE_UP_LOCK (n : Nat) : Fld := ⟨R.QLN_STATE n, 5, 1⟩
def F.QLN_STATE_BOARD_LOCK (n : Nat) : Fld := ⟨R.QLN_STATE n, 6, 1⟩
def F.QLN_STATE_MODE (n : Nat) : Fld := ⟨R.QLN_STATE n, 7, 2⟩
def F.QLN_STATE_FOM (n : Nat) : Fld := ⟨R.QLN_STATE n, 16, 8⟩
def R.QLN_TAPS (n : Nat) : Nat := 0xA0108 + 0x40 * n
def F.QLN_TAPS_PRE (n : Nat) : Fld := ⟨R.QLN_TAPS n, 0, 4⟩
def F.QLN_TAPS_POST (n : Nat) : Fld := ⟨R.QLN_TAPS n, 4, 5⟩
def F.QLN_TAPS_MAIN (n : Nat) : Fld := ⟨R.QLN_TAPS n, 9, 6⟩
def R.QLN_PRESET (n : Nat) : Nat := 0xA010C + 0x40 * n
def F.QLN_PRESET_PRE (n : Nat) : Fld := ⟨R.QLN_PRESET n, 0, 4⟩
def F.QLN_PRESET_POST (n : Nat) : Fld := ⟨R.QLN_PRESET n, 4, 5⟩
def R.QLN_FEC_CORR (n : Nat) : Nat := 0xA0110 + 0x40 * n
def R.QLN_FEC_UNCORR (n : Nat) : Nat := 0xA0114 + 0x40 * n
def R.QLN_FALLBACK (n : Nat) : Nat := 0xA0118 + 0x40 * n
def R.QLN_LOST (n : Nat) : Nat := 0xA011C + 0x40 * n
def R.QLN_TEST (n : Nat) : Nat := 0xA0120 + 0x40 * n
def F.QLN_TEST_PRBS (n : Nat) : Fld := ⟨R.QLN_TEST n, 0, 2⟩
def F.QLN_TEST_GEN (n : Nat) : Fld := ⟨R.QLN_TEST n, 2, 1⟩
def F.QLN_TEST_CHK (n : Nat) : Fld := ⟨R.QLN_TEST n, 3, 1⟩
def F.QLN_TEST_LOOP (n : Nat) : Fld := ⟨R.QLN_TEST n, 4, 3⟩
def F.QLN_TEST_INJ (n : Nat) : Fld := ⟨R.QLN_TEST n, 8, 2⟩
def F.QLN_TEST_INJ_SYM (n : Nat) : Fld := ⟨R.QLN_TEST n, 10, 4⟩
def F.QLN_TEST_INJ_RATE (n : Nat) : Fld := ⟨R.QLN_TEST n, 16, 16⟩
def R.QLN_PRBS_ERR (n : Nat) : Nat := 0xA0124 + 0x40 * n
def R.QLN_TRAIN_CNT (n : Nat) : Nat := 0xA0128 + 0x40 * n
def R.QLN_LAST_TAG (n : Nat) : Nat := 0xA012C + 0x40 * n
def F.QLN_LAST_TAG_TAG (n : Nat) : Fld := ⟨R.QLN_LAST_TAG n, 0, 16⟩
def R.QLN_CTRL (n : Nat) : Nat := 0xA0130 + 0x40 * n
def F.QLN_CTRL_RETRAIN (n : Nat) : Fld := ⟨R.QLN_CTRL n, 0, 1⟩
def R.QL_WAVE (n : Nat) : Nat := 0xA1100 + 0x4 * n

/-! ### R317 -/

def R.HH_CFG : Nat := 0xB0000
def F.HH_CFG_NBR_EN : Fld := ⟨R.HH_CFG, 0, 1⟩
def F.HH_CFG_AUTH_POL : Fld := ⟨R.HH_CFG, 1, 1⟩
def F.HH_CFG_ADOPT_EN : Fld := ⟨R.HH_CFG, 2, 1⟩
def R.HH_REC_PERIOD : Nat := 0xB0004
def F.HH_REC_PERIOD_S : Fld := ⟨R.HH_REC_PERIOD, 0, 16⟩
def R.HH_REC_BASE_LO : Nat := 0xB0008
def R.HH_REC_BASE_HI : Nat := 0xB000C
def R.GT_RES_BASE_LO : Nat := 0xB0010
def R.GT_RES_BASE_HI : Nat := 0xB0014
def R.GT_CFG : Nat := 0xB0018
def F.GT_CFG_REPS_M1 : Fld := ⟨R.GT_CFG, 0, 4⟩
def F.GT_CFG_CODE : Fld := ⟨R.GT_CFG, 4, 4⟩
def F.GT_CFG_WEAK_PCT : Fld := ⟨R.GT_CFG, 8, 7⟩
def R.GT_PERIOD : Nat := 0xB001C
def F.GT_PERIOD_NS : Fld := ⟨R.GT_PERIOD, 0, 20⟩
def R.GT_LATE : Nat := 0xB0020
def F.GT_LATE_LATE : Fld := ⟨R.GT_LATE, 0, 16⟩
def R.GT_STAT : Nat := 0xB0024
def F.GT_STAT_RUNNING : Fld := ⟨R.GT_STAT, 0, 1⟩
def F.GT_STAT_GATES : Fld := ⟨R.GT_STAT, 8, 8⟩
def R.GT_MISSING_CNT : Nat := 0xB0028
def R.GT_WEAK_CNT : Nat := 0xB002C
def R.HH_STAT : Nat := 0xB0030
def F.HH_STAT_BLANKED : Fld := ⟨R.HH_STAT, 0, 11⟩
def F.HH_STAT_WARM : Fld := ⟨R.HH_STAT, 16, 11⟩
def R.HH_BAR_TEMP (n : Nat) : Nat := 0xB0100 + 0x10 * n
def F.HH_BAR_TEMP_WARN (n : Nat) : Fld := ⟨R.HH_BAR_TEMP n, 0, 16⟩
def F.HH_BAR_TEMP_LIMIT (n : Nat) : Fld := ⟨R.HH_BAR_TEMP n, 16, 16⟩
def R.HH_BAR_CFG (n : Nat) : Nat := 0xB0104 + 0x10 * n
def F.HH_BAR_CFG_HYST (n : Nat) : Fld := ⟨R.HH_BAR_CFG n, 0, 8⟩
def F.HH_BAR_CFG_WARN_CC (n : Nat) : Fld := ⟨R.HH_BAR_CFG n, 8, 3⟩
def F.HH_BAR_CFG_AUTO_CLR (n : Nat) : Fld := ⟨R.HH_BAR_CFG n, 11, 1⟩
def F.HH_BAR_CFG_NBR_LIM (n : Nat) : Fld := ⟨R.HH_BAR_CFG n, 16, 12⟩
def R.GATE_CFG (n : Nat) : Nat := 0xB0200 + 0x20 * n
def F.GATE_CFG_EN (n : Nat) : Fld := ⟨R.GATE_CFG n, 0, 1⟩
def F.GATE_CFG_NEG (n : Nat) : Fld := ⟨R.GATE_CFG n, 1, 1⟩
def F.GATE_CFG_BAR (n : Nat) : Fld := ⟨R.GATE_CFG n, 2, 4⟩
def F.GATE_CFG_K (n : Nat) : Fld := ⟨R.GATE_CFG n, 8, 8⟩
def R.GATE_WIN (n : Nat) : Nat := 0xB0204 + 0x20 * n
def F.GATE_WIN_START (n : Nat) : Fld := ⟨R.GATE_WIN n, 0, 16⟩
def F.GATE_WIN_WIDTH (n : Nat) : Fld := ⟨R.GATE_WIN n, 16, 16⟩
def R.GATE_BASE (n : Nat) : Nat := 0xB0208 + 0x20 * n
def F.GATE_BASE_MU (n : Nat) : Fld := ⟨R.GATE_BASE n, 0, 12⟩
def F.GATE_BASE_NOISE (n : Nat) : Fld := ⟨R.GATE_BASE n, 16, 16⟩
def R.GATE_LAST (n : Nat) : Nat := 0xB020C + 0x20 * n
def F.GATE_LAST_PEAK (n : Nat) : Fld := ⟨R.GATE_LAST n, 0, 12⟩
def F.GATE_LAST_ARRIVAL (n : Nat) : Fld := ⟨R.GATE_LAST n, 16, 16⟩
def R.TS_CFG (n : Nat) : Nat := 0xB0400 + 0x10 * n
def F.TS_CFG_EN (n : Nat) : Fld := ⟨R.TS_CFG n, 0, 1⟩
def F.TS_CFG_MODE (n : Nat) : Fld := ⟨R.TS_CFG n, 1, 1⟩
def F.TS_CFG_HEAD_EN (n : Nat) : Fld := ⟨R.TS_CFG n, 2, 1⟩
def F.TS_CFG_HEAD (n : Nat) : Fld := ⟨R.TS_CFG n, 3, 10⟩
def F.TS_CFG_NBR_LIM (n : Nat) : Fld := ⟨R.TS_CFG n, 16, 12⟩
def R.TS_PARAM (n : Nat) : Nat := 0xB0404 + 0x10 * n
def F.TS_PARAM_ETA_B (n : Nat) : Fld := ⟨R.TS_PARAM n, 0, 16⟩
def F.TS_PARAM_R26 (n : Nat) : Fld := ⟨R.TS_PARAM n, 16, 16⟩
def R.TS_NBR (n : Nat) : Nat := 0xB0408 + 0x10 * n
def F.TS_NBR_INPUT0 (n : Nat) : Fld := ⟨R.TS_NBR n, 0, 4⟩
def F.TS_NBR_INPUT1 (n : Nat) : Fld := ⟨R.TS_NBR n, 8, 4⟩
def F.TS_NBR_INPUT2 (n : Nat) : Fld := ⟨R.TS_NBR n, 16, 4⟩
def F.TS_NBR_INPUT3 (n : Nat) : Fld := ⟨R.TS_NBR n, 24, 4⟩
def F.TS_NBR_VALID0 (n : Nat) : Fld := ⟨R.TS_NBR n, 4, 1⟩
def F.TS_NBR_VALID1 (n : Nat) : Fld := ⟨R.TS_NBR n, 12, 1⟩
def F.TS_NBR_VALID2 (n : Nat) : Fld := ⟨R.TS_NBR n, 20, 1⟩
def F.TS_NBR_VALID3 (n : Nat) : Fld := ⟨R.TS_NBR n, 28, 1⟩
def R.TS_STAT (n : Nat) : Nat := 0xB040C + 0x10 * n
def F.TS_STAT_TEMP (n : Nat) : Fld := ⟨R.TS_STAT n, 0, 16⟩
def F.TS_STAT_SUSPECT (n : Nat) : Fld := ⟨R.TS_STAT n, 16, 1⟩
def F.TS_STAT_OPEN (n : Nat) : Fld := ⟨R.TS_STAT n, 17, 1⟩
def F.TS_STAT_SHORT (n : Nat) : Fld := ⟨R.TS_STAT n, 18, 1⟩
def R.DTS (n : Nat) : Nat := 0xB0600 + 0x4 * n
def F.DTS_TEMP (n : Nat) : Fld := ⟨R.DTS n, 0, 16⟩
def R.GATE_TPL (n j : Nat) : Nat := 0xB0800 + 0x40 * n + 0x4 * j
def F.GATE_TPL_H0 (n j : Nat) : Fld := ⟨R.GATE_TPL n j, 0, 16⟩
def F.GATE_TPL_H1 (n j : Nat) : Fld := ⟨R.GATE_TPL n j, 16, 16⟩
def R.HH_THETA (n : Nat) : Nat := 0xB1000 + 0x4 * n
def F.HH_THETA_THETA (n : Nat) : Fld := ⟨R.HH_THETA n, 0, 16⟩
def F.HH_THETA_SUSPECT (n : Nat) : Fld := ⟨R.HH_THETA n, 16, 1⟩
def F.HH_THETA_STALE (n : Nat) : Fld := ⟨R.HH_THETA n, 17, 1⟩
def F.HH_THETA_WARM (n : Nat) : Fld := ⟨R.HH_THETA n, 18, 1⟩
def F.HH_THETA_BLANKED (n : Nat) : Fld := ⟨R.HH_THETA n, 19, 1⟩
def F.HH_THETA_SRC_TS (n : Nat) : Fld := ⟨R.HH_THETA n, 20, 1⟩
def F.HH_THETA_REC_VALID (n : Nat) : Fld := ⟨R.HH_THETA n, 21, 1⟩
def F.HH_THETA_REC_AUTH_FAIL (n : Nat) : Fld := ⟨R.HH_THETA n, 22, 1⟩

/-! ### R346 -/

def R.MEM_CFG : Nat := 0xC0000
def F.MEM_CFG_RATE : Fld := ⟨R.MEM_CFG, 0, 2⟩
def F.MEM_CFG_RANKS : Fld := ⟨R.MEM_CFG, 2, 2⟩
def F.MEM_CFG_SPARE : Fld := ⟨R.MEM_CFG, 4, 1⟩
def F.MEM_CFG_DEVICE : Fld := ⟨R.MEM_CFG, 5, 2⟩
def F.MEM_CFG_RDIMM : Fld := ⟨R.MEM_CFG, 7, 1⟩
def F.MEM_CFG_WCRC_EN : Fld := ⟨R.MEM_CFG, 8, 1⟩
def R.MEM_MIR_SIZE : Nat := 0xC0004
def F.MEM_MIR_SIZE_GIB : Fld := ⟨R.MEM_MIR_SIZE, 0, 9⟩
def R.MEM_HOME_0 : Nat := 0xC0008
def F.MEM_HOME_0_SUB : Fld := ⟨R.MEM_HOME_0, 0, 6⟩
def F.MEM_HOME_0_PAIR : Fld := ⟨R.MEM_HOME_0, 8, 6⟩
def F.MEM_HOME_0_SIDE : Fld := ⟨R.MEM_HOME_0, 16, 6⟩
def F.MEM_HOME_0_BG0 : Fld := ⟨R.MEM_HOME_0, 24, 6⟩
def R.MEM_HOME_1 : Nat := 0xC000C
def F.MEM_HOME_1_BG1 : Fld := ⟨R.MEM_HOME_1, 0, 6⟩
def F.MEM_HOME_1_BG2 : Fld := ⟨R.MEM_HOME_1, 8, 6⟩
def F.MEM_HOME_1_BA0 : Fld := ⟨R.MEM_HOME_1, 16, 6⟩
def F.MEM_HOME_1_BA1 : Fld := ⟨R.MEM_HOME_1, 24, 6⟩
def R.MEM_XOR_LO (n : Nat) : Nat := 0xC0010 + 0x8 * n
def R.MEM_XOR_HI (n : Nat) : Nat := 0xC0014 + 0x8 * n
def F.MEM_XOR_HI_MASK (n : Nat) : Fld := ⟨R.MEM_XOR_HI n, 0, 7⟩
def R.MEM_STAT : Nat := 0xC0050
def F.MEM_STAT_INIT : Fld := ⟨R.MEM_STAT, 0, 2⟩
def F.MEM_STAT_ERR : Fld := ⟨R.MEM_STAT, 4, 4⟩
def F.MEM_STAT_RETRAINING : Fld := ⟨R.MEM_STAT, 8, 1⟩
def F.MEM_STAT_MIGRATING : Fld := ⟨R.MEM_STAT, 9, 1⟩
def F.MEM_STAT_SPARES : Fld := ⟨R.MEM_STAT, 16, 4⟩
def R.MEM_SIZE : Nat := 0xC0054
def F.MEM_SIZE_GIB : Fld := ⟨R.MEM_SIZE, 0, 10⟩
def R.MEM_MIG_PCT : Nat := 0xC0058
def F.MEM_MIG_PCT_PCT : Fld := ⟨R.MEM_MIG_PCT, 0, 6⟩
def R.MEM_ACT_THR : Nat := 0xC005C
def F.MEM_ACT_THR_THR : Fld := ⟨R.MEM_ACT_THR, 0, 8⟩
def R.MEM_CE_LIMIT : Nat := 0xC0060
def F.MEM_CE_LIMIT_LIMIT : Fld := ⟨R.MEM_CE_LIMIT, 0, 16⟩
def R.MEM_SCRUB : Nat := 0xC0064
def F.MEM_SCRUB_HOURS : Fld := ⟨R.MEM_SCRUB, 0, 8⟩
def R.MEM_DRIFT : Nat := 0xC0068
def F.MEM_DRIFT_STEP : Fld := ⟨R.MEM_DRIFT, 0, 4⟩
def F.MEM_DRIFT_RETRAIN : Fld := ⟨R.MEM_DRIFT, 8, 8⟩
def F.MEM_DRIFT_INT : Fld := ⟨R.MEM_DRIFT, 16, 16⟩
def R.MEM_CE_CNT : Nat := 0xC0070
def R.MEM_UE_CNT : Nat := 0xC0074
def R.MEM_POISON_CNT : Nat := 0xC0078
def R.MEM_FORCED_REF_CNT : Nat := 0xC007C
def R.MEM_THROTTLE_CNT : Nat := 0xC0080
def R.MEM_RFM_CNT : Nat := 0xC0084
def R.MEM_DECODE_ERR_CNT : Nat := 0xC0088
def R.MEM_WCRC_RETRY_CNT : Nat := 0xC008C
def R.MEM_LOOP : Nat := 0xC0090
def F.MEM_LOOP_DEPTH : Fld := ⟨R.MEM_LOOP, 0, 2⟩
def F.MEM_LOOP_CH : Fld := ⟨R.MEM_LOOP, 2, 2⟩
def F.MEM_LOOP_RANK : Fld := ⟨R.MEM_LOOP, 4, 2⟩
def F.MEM_LOOP_SUB : Fld := ⟨R.MEM_LOOP, 6, 1⟩
def R.MEM_LOOP_ERR : Nat := 0xC0094
def R.MEMR_STAT (n : Nat) : Nat := 0xC0100 + 0x20 * n
def F.MEMR_STAT_STATE (n : Nat) : Fld := ⟨R.MEMR_STAT n, 0, 3⟩
def F.MEMR_STAT_RETRAINING (n : Nat) : Fld := ⟨R.MEMR_STAT n, 3, 1⟩
def F.MEMR_STAT_SERVES (n : Nat) : Fld := ⟨R.MEMR_STAT n, 4, 2⟩
def F.MEMR_STAT_MR4_RATE (n : Nat) : Fld := ⟨R.MEMR_STAT n, 8, 3⟩
def R.MEMR_CE_CNT (n : Nat) : Nat := 0xC0104 + 0x20 * n
def R.MEMR_UE_CNT (n : Nat) : Nat := 0xC0108 + 0x20 * n
def R.MEMR_LAST_ERR_LO (n : Nat) : Nat := 0xC010C + 0x20 * n
def R.MEMR_LAST_ERR_HI (n : Nat) : Nat := 0xC0110 + 0x20 * n
def F.MEMR_LAST_ERR_HI_D (n : Nat) : Fld := ⟨R.MEMR_LAST_ERR_HI n, 0, 7⟩
def R.MEMR_MIG_PTR (n : Nat) : Nat := 0xC0114 + 0x20 * n
def F.MEMR_MIG_PTR_MIB (n : Nat) : Fld := ⟨R.MEMR_MIG_PTR n, 0, 16⟩
def R.MEMR_DRIFT (n : Nat) : Nat := 0xC0118 + 0x20 * n
def F.MEMR_DRIFT_DRIFT (n : Nat) : Fld := ⟨R.MEMR_DRIFT n, 0, 16⟩
def R.MEMR_TRAIN_CNT (n : Nat) : Nat := 0xC011C + 0x20 * n

/-! ### R375 -/

def R.HI_CFG : Nat := 0x10000
def F.HI_CFG_USER_PERF_EN : Fld := ⟨R.HI_CFG, 0, 1⟩
def R.COX_EPOCH : Nat := 0x10004
def F.COX_EPOCH_EPOCH : Fld := ⟨R.COX_EPOCH, 0, 8⟩
def F.COX_EPOCH_ACTIVE : Fld := ⟨R.COX_EPOCH, 8, 1⟩
def F.COX_EPOCH_SWITCHING : Fld := ⟨R.COX_EPOCH, 9, 1⟩
def R.HI_DB_ERR_CNT : Nat := 0x10008
def R.HI_SEQ_GAP_CNT : Nat := 0x1000C
def R.HI_VIOL_ADDR : Nat := 0x10010
def F.HI_VIOL_ADDR_OFFSET : Fld := ⟨R.HI_VIOL_ADDR, 0, 26⟩
def F.HI_VIOL_ADDR_BAR : Fld := ⟨R.HI_VIOL_ADDR, 26, 2⟩
def F.HI_VIOL_ADDR_WRITE : Fld := ⟨R.HI_VIOL_ADDR, 28, 1⟩
def R.HI_APERTURE_LO : Nat := 0x10014
def R.HI_APERTURE_HI : Nat := 0x10018
def R.HI_LS_SEL : Nat := 0x1001C
def F.HI_LS_SEL_FIRST : Fld := ⟨R.HI_LS_SEL, 0, 5⟩
def R.HI_PCIE_STAT : Nat := 0x10020
def F.HI_PCIE_STAT_SPEED : Fld := ⟨R.HI_PCIE_STAT, 0, 3⟩
def F.HI_PCIE_STAT_WIDTH : Fld := ⟨R.HI_PCIE_STAT, 8, 4⟩
def F.HI_PCIE_STAT_LINK_UP : Fld := ⟨R.HI_PCIE_STAT, 12, 1⟩
def R.HI_PCIE_CE_CNT : Nat := 0x10024
def R.HI_PCIE_UE_CNT : Nat := 0x10028
def R.HI_CPL_TO : Nat := 0x1002C
def F.HI_CPL_TO_MS : Fld := ⟨R.HI_CPL_TO, 0, 16⟩
def R.EV_BASE_LO : Nat := 0x10040
def R.EV_BASE_HI : Nat := 0x10044
def R.EV_SIZE : Nat := 0x10048
def F.EV_SIZE_ENTRIES : Fld := ⟨R.EV_SIZE, 0, 17⟩
def R.EV_CFG : Nat := 0x1004C
def F.EV_CFG_EN : Fld := ⟨R.EV_CFG, 0, 1⟩
def F.EV_CFG_IRQ_EN : Fld := ⟨R.EV_CFG, 1, 1⟩
def F.EV_CFG_VEC : Fld := ⟨R.EV_CFG, 2, 6⟩
def F.EV_CFG_RESERVE : Fld := ⟨R.EV_CFG, 8, 8⟩
def F.EV_CFG_COUNT : Fld := ⟨R.EV_CFG, 16, 8⟩
def R.EV_IRQ_TIME : Nat := 0x10050
def F.EV_IRQ_TIME_US : Fld := ⟨R.EV_IRQ_TIME, 0, 10⟩
def R.EV_TAIL : Nat := 0x10054
def F.EV_TAIL_TAIL : Fld := ⟨R.EV_TAIL, 0, 16⟩
def R.EV_TAILWB_LO : Nat := 0x10058
def R.EV_TAILWB_HI : Nat := 0x1005C
def R.EV_DROP_CNT : Nat := 0x10060
def R.EV_DEFECT_DROP_CNT : Nat := 0x10064
def R.SQ_BASE_LO (n : Nat) : Nat := 0x10100 + 0x20 * n
def R.SQ_BASE_HI (n : Nat) : Nat := 0x10104 + 0x20 * n
def R.SQ_CFG (n : Nat) : Nat := 0x10108 + 0x20 * n
def F.SQ_CFG_EN (n : Nat) : Fld := ⟨R.SQ_CFG n, 0, 1⟩
def F.SQ_CFG_SIZE_M1 (n : Nat) : Fld := ⟨R.SQ_CFG n, 1, 12⟩
def F.SQ_CFG_CQ (n : Nat) : Fld := ⟨R.SQ_CFG n, 13, 3⟩
def R.SQ_HEAD (n : Nat) : Nat := 0x1010C + 0x20 * n
def F.SQ_HEAD_HEAD (n : Nat) : Fld := ⟨R.SQ_HEAD n, 0, 12⟩
def R.SQ_MARK (n : Nat) : Nat := 0x10110 + 0x20 * n
def F.SQ_MARK_TAIL (n : Nat) : Fld := ⟨R.SQ_MARK n, 0, 12⟩
def R.SQ_LAST_SEQ (n : Nat) : Nat := 0x10114 + 0x20 * n
def F.SQ_LAST_SEQ_SEQ (n : Nat) : Fld := ⟨R.SQ_LAST_SEQ n, 0, 16⟩
def R.CQ_BASE_LO (n : Nat) : Nat := 0x10200 + 0x20 * n
def R.CQ_BASE_HI (n : Nat) : Nat := 0x10204 + 0x20 * n
def R.CQ_CFG (n : Nat) : Nat := 0x10208 + 0x20 * n
def F.CQ_CFG_EN (n : Nat) : Fld := ⟨R.CQ_CFG n, 0, 1⟩
def F.CQ_CFG_SIZE_M1 (n : Nat) : Fld := ⟨R.CQ_CFG n, 1, 12⟩
def F.CQ_CFG_VEC (n : Nat) : Fld := ⟨R.CQ_CFG n, 13, 6⟩
def F.CQ_CFG_IRQ_EN (n : Nat) : Fld := ⟨R.CQ_CFG n, 19, 1⟩
def F.CQ_CFG_COUNT (n : Nat) : Fld := ⟨R.CQ_CFG n, 20, 8⟩
def R.CQ_IRQ_TIME (n : Nat) : Nat := 0x1020C + 0x20 * n
def F.CQ_IRQ_TIME_US (n : Nat) : Fld := ⟨R.CQ_IRQ_TIME n, 0, 10⟩
def R.CQ_TAIL (n : Nat) : Nat := 0x10210 + 0x20 * n
def F.CQ_TAIL_TAIL (n : Nat) : Fld := ⟨R.CQ_TAIL n, 0, 12⟩
def F.CQ_TAIL_PHASE (n : Nat) : Fld := ⟨R.CQ_TAIL n, 15, 1⟩
def R.SQ_TAIL (n : Nat) : Nat := 0x11000 + 0x8 * n
def F.SQ_TAIL_TAIL (n : Nat) : Fld := ⟨R.SQ_TAIL n, 0, 12⟩
def R.CQ_HEAD (n : Nat) : Nat := 0x11004 + 0x8 * n
def F.CQ_HEAD_HEAD (n : Nat) : Fld := ⟨R.CQ_HEAD n, 0, 12⟩
def R.EV_HEAD : Nat := 0x11080
def F.EV_HEAD_HEAD : Fld := ⟨R.EV_HEAD, 0, 16⟩

/-! ### R425 -/

def R.LG_CFG : Nat := 0x150000
def F.LG_CFG_APPLY_OFS : Fld := ⟨R.LG_CFG, 0, 1⟩
def F.LG_CFG_POOL : Fld := ⟨R.LG_CFG, 8, 7⟩
def R.LG_STAT : Nat := 0x150004
def F.LG_STAT_RUNNING : Fld := ⟨R.LG_STAT, 0, 1⟩
def F.LG_STAT_OWNER : Fld := ⟨R.LG_STAT, 1, 1⟩
def F.LG_STAT_LATTN : Fld := ⟨R.LG_STAT, 2, 1⟩
def R.LG_START_WIN : Nat := 0x150008
def F.LG_START_WIN_US : Fld := ⟨R.LG_START_WIN, 0, 16⟩
def R.LG_BAND_BASE_LO : Nat := 0x15000C
def R.LG_BAND_BASE_HI : Nat := 0x150010
def R.LG_TONE : Nat := 0x150014
def F.LG_TONE_TONE1 : Fld := ⟨R.LG_TONE, 0, 8⟩
def F.LG_TONE_TONE2 : Fld := ⟨R.LG_TONE, 8, 8⟩
def F.LG_TONE_TONE3 : Fld := ⟨R.LG_TONE, 16, 8⟩
def R.LG_FRAME_CNT : Nat := 0x150018
def R.LG_EARLY_CNT : Nat := 0x15001C
def R.LG_LDP_DROP_CNT : Nat := 0x150020
def R.LG_NATIVE_REFUSE_CNT : Nat := 0x150024
def R.LG_LP_MAP (n : Nat) : Nat := 0x150100 + 0x40 * n
def F.LG_LP_MAP_EN (n : Nat) : Fld := ⟨R.LG_LP_MAP n, 0, 1⟩
def F.LG_LP_MAP_INK_MAP (n : Nat) : Fld := ⟨R.LG_LP_MAP n, 16, 16⟩
def R.LG_LP_C0 (n : Nat) : Nat := 0x150104 + 0x40 * n
def F.LG_LP_C0_C0 (n : Nat) : Fld := ⟨R.LG_LP_C0 n, 0, 17⟩
def R.LG_LP_CODE (n : Nat) : Nat := 0x150108 + 0x40 * n
def F.LG_LP_CODE_CODE_MAP (n : Nat) : Fld := ⟨R.LG_LP_CODE n, 0, 16⟩
def R.LG_LP_STAT (n : Nat) : Nat := 0x15010C + 0x40 * n
def F.LG_LP_STAT_STATE (n : Nat) : Fld := ⟨R.LG_LP_STAT n, 0, 2⟩
def F.LG_LP_STAT_QUEUED (n : Nat) : Fld := ⟨R.LG_LP_STAT n, 2, 4⟩
def F.LG_LP_STAT_ATTN (n : Nat) : Fld := ⟨R.LG_LP_STAT n, 6, 1⟩
def F.LG_LP_STAT_CAUSE (n : Nat) : Fld := ⟨R.LG_LP_STAT n, 8, 8⟩
def F.LG_LP_STAT_UNDER_CONT (n : Nat) : Fld := ⟨R.LG_LP_STAT n, 16, 1⟩
def F.LG_LP_STAT_ATTN_EN (n : Nat) : Fld := ⟨R.LG_LP_STAT n, 17, 1⟩
def R.LG_LP_DIV (n : Nat) : Nat := 0x150110 + 0x40 * n
def F.LG_LP_DIV_P (n : Nat) : Fld := ⟨R.LG_LP_DIV n, 0, 8⟩
def R.LG_LP_PITCH (n : Nat) : Nat := 0x150114 + 0x40 * n
def R.LG_LP_BAND (n : Nat) : Nat := 0x150118 + 0x40 * n
def F.LG_LP_BAND_NEXT (n : Nat) : Fld := ⟨R.LG_LP_BAND n, 0, 16⟩
def F.LG_LP_BAND_SET (n : Nat) : Fld := ⟨R.LG_LP_BAND n, 16, 1⟩
def R.LG_LP_LINES (n : Nat) : Nat := 0x15011C + 0x40 * n
def R.LG_LP_BANDS (n : Nat) : Nat := 0x150120 + 0x40 * n
def R.LG_LP_UNDER (n : Nat) : Nat := 0x150124 + 0x40 * n
def R.LG_LP_CSUM (n : Nat) : Nat := 0x150128 + 0x40 * n
def R.LG_LP_OFS (n j : Nat) : Nat := 0x15012C + 0x40 * n + 0x4 * j
def F.LG_LP_OFS_OFS (n j : Nat) : Fld := ⟨R.LG_LP_OFS n j, 0, 24⟩

/-! ### R446 -/

def R.DMA_STAT : Nat := 0xD0000
def F.DMA_STAT_RUNNING : Fld := ⟨R.DMA_STAT, 0, 16⟩
def F.DMA_STAT_STOPPED : Fld := ⟨R.DMA_STAT, 16, 16⟩
def R.DMA_ERR_CH : Nat := 0xD0004
def F.DMA_ERR_CH_CH : Fld := ⟨R.DMA_ERR_CH, 0, 4⟩
def F.DMA_ERR_CH_VALID : Fld := ⟨R.DMA_ERR_CH, 4, 1⟩
def R.DMA_SWREQ : Nat := 0xD0008
def F.DMA_SWREQ_REQ : Fld := ⟨R.DMA_SWREQ, 0, 16⟩
def R.DMA_IRQ_CFG : Nat := 0xD000C
def F.DMA_IRQ_CFG_VEC : Fld := ⟨R.DMA_IRQ_CFG, 0, 6⟩
def F.DMA_IRQ_CFG_EN : Fld := ⟨R.DMA_IRQ_CFG, 6, 1⟩
def R.DMA_IRQ_HF : Nat := 0xD0010
def F.DMA_IRQ_HF_HALF : Fld := ⟨R.DMA_IRQ_HF, 0, 16⟩
def F.DMA_IRQ_HF_FULL : Fld := ⟨R.DMA_IRQ_HF, 16, 16⟩
def R.DMA_IRQ_ERR : Nat := 0xD0014
def F.DMA_IRQ_ERR_ERR : Fld := ⟨R.DMA_IRQ_ERR, 0, 16⟩
def R.DMA_BUS_ERR_CNT : Nat := 0xD0018
def R.DMA_APPEND_IGN_CNT : Nat := 0xD001C
def R.DMAN_STATE (n : Nat) : Nat := 0xD0100 + 0x40 * n
def F.DMAN_STATE_STATE (n : Nat) : Fld := ⟨R.DMAN_STATE n, 0, 3⟩
def F.DMAN_STATE_ERR (n : Nat) : Fld := ⟨R.DMAN_STATE n, 3, 1⟩
def F.DMAN_STATE_DESCENDING (n : Nat) : Fld := ⟨R.DMAN_STATE n, 4, 1⟩
def F.DMAN_STATE_BOUND (n : Nat) : Fld := ⟨R.DMAN_STATE n, 5, 1⟩
def F.DMAN_STATE_APPEND_PEND (n : Nat) : Fld := ⟨R.DMAN_STATE n, 6, 1⟩
def F.DMAN_STATE_CODE (n : Nat) : Fld := ⟨R.DMAN_STATE n, 8, 8⟩
def F.DMAN_STATE_ERR_SPACE (n : Nat) : Fld := ⟨R.DMAN_STATE n, 16, 2⟩
def R.DMAN_DESC_LO (n : Nat) : Nat := 0xD0104 + 0x40 * n
def R.DMAN_DESC_HI (n : Nat) : Nat := 0xD0108 + 0x40 * n
def R.DMAN_REMAIN (n : Nat) : Nat := 0xD010C + 0x40 * n
def R.DMAN_ACKED (n : Nat) : Nat := 0xD0110 + 0x40 * n
def R.DMAN_TAG (n : Nat) : Nat := 0xD0114 + 0x40 * n
def F.DMAN_TAG_TAG (n : Nat) : Fld := ⟨R.DMAN_TAG n, 0, 16⟩
def R.DMAN_APPEND_LO (n : Nat) : Nat := 0xD0118 + 0x40 * n
def R.DMAN_APPEND_HI (n : Nat) : Nat := 0xD011C + 0x40 * n
def R.DMAN_DONE_CNT (n : Nat) : Nat := 0xD0120 + 0x40 * n
def R.DMAN_ERR_ADDR_LO (n : Nat) : Nat := 0xD0124 + 0x40 * n
def R.DMAN_ERR_ADDR_HI (n : Nat) : Nat := 0xD0128 + 0x40 * n
def R.EVZ_STAT : Nat := 0xE0000
def F.EVZ_STAT_STATE : Fld := ⟨R.EVZ_STAT, 0, 2⟩
def F.EVZ_STAT_OP : Fld := ⟨R.EVZ_STAT, 2, 1⟩
def F.EVZ_STAT_IN_CH : Fld := ⟨R.EVZ_STAT, 4, 4⟩
def F.EVZ_STAT_OUT_CH : Fld := ⟨R.EVZ_STAT, 8, 4⟩
def R.EVZ_IN_BYTES_LO : Nat := 0xE0004
def R.EVZ_IN_BYTES_HI : Nat := 0xE0008
def R.EVZ_OUT_BYTES_LO : Nat := 0xE000C
def R.EVZ_OUT_BYTES_HI : Nat := 0xE0010
def R.EVZ_BLOCKS : Nat := 0xE0014
def R.EVZ_RAW_CNT : Nat := 0xE0018
def R.EVZ_ERR_CNT : Nat := 0xE001C

/-! ### R472 -/

def R.TIME_CFG : Nat := 0xF0000
def F.TIME_CFG_SERVO_EN : Fld := ⟨R.TIME_CFG, 0, 1⟩
def F.TIME_CFG_AUTO_STEP : Fld := ⟨R.TIME_CFG, 1, 1⟩
def F.TIME_CFG_SRC : Fld := ⟨R.TIME_CFG, 2, 2⟩
def R.TIME_INC_NS : Nat := 0xF0004
def F.TIME_INC_NS_NS : Fld := ⟨R.TIME_INC_NS, 0, 8⟩
def R.TIME_INC_FRAC : Nat := 0xF0008
def R.TIME_NOW_LO : Nat := 0xF000C
def R.TIME_NOW_HI : Nat := 0xF0010
def R.TIME_SERVO_K : Nat := 0xF0014
def F.TIME_SERVO_K_KP : Fld := ⟨R.TIME_SERVO_K, 0, 16⟩
def F.TIME_SERVO_K_KI : Fld := ⟨R.TIME_SERVO_K, 16, 16⟩
def R.TIME_SERVO_LIM : Nat := 0xF0018
def F.TIME_SERVO_LIM_PPB : Fld := ⟨R.TIME_SERVO_LIM, 0, 20⟩
def R.TIME_LOCK_THR : Nat := 0xF001C
def F.TIME_LOCK_THR_NS : Fld := ⟨R.TIME_LOCK_THR, 0, 16⟩
def R.TIME_STEP_THR : Nat := 0xF0020
def R.TIME_STAT : Nat := 0xF0024
def F.TIME_STAT_STATE : Fld := ⟨R.TIME_STAT, 0, 2⟩
def R.TIME_OFFSET : Nat := 0xF0028
def R.TIME_RATE : Nat := 0xF002C
def R.TIME_HOLD_RATE : Nat := 0xF0030
def R.TIME_STEP_CNT : Nat := 0xF0034
def R.TIME_REACQ : Nat := 0xF0038
def F.TIME_REACQ_MS : Fld := ⟨R.TIME_REACQ, 0, 16⟩
def R.PTP_DS : Nat := 0xF0080
def F.PTP_DS_DOMAIN : Fld := ⟨R.PTP_DS, 0, 8⟩
def F.PTP_DS_PRIORITY1 : Fld := ⟨R.PTP_DS, 8, 8⟩
def F.PTP_DS_PRIORITY2 : Fld := ⟨R.PTP_DS, 16, 8⟩
def F.PTP_DS_CLOCK_CLASS : Fld := ⟨R.PTP_DS, 24, 8⟩
def R.PTP_CFG : Nat := 0xF0084
def F.PTP_CFG_SLAVE_ONLY : Fld := ⟨R.PTP_CFG, 0, 1⟩
def F.PTP_CFG_MODE : Fld := ⟨R.PTP_CFG, 1, 2⟩
def R.ETH_CFG (n : Nat) : Nat := 0xF0100 + 0x80 * n
def F.ETH_CFG_EN (n : Nat) : Fld := ⟨R.ETH_CFG n, 0, 1⟩
def F.ETH_CFG_PHY (n : Nat) : Fld := ⟨R.ETH_CFG n, 1, 1⟩
def F.ETH_CFG_AN_EN (n : Nat) : Fld := ⟨R.ETH_CFG n, 2, 1⟩
def F.ETH_CFG_TRANSPORT (n : Nat) : Fld := ⟨R.ETH_CFG n, 3, 2⟩
def F.ETH_CFG_DELAY (n : Nat) : Fld := ⟨R.ETH_CFG n, 5, 1⟩
def F.ETH_CFG_TWO_STEP (n : Nat) : Fld := ⟨R.ETH_CFG n, 6, 1⟩
def F.ETH_CFG_VLAN_EN (n : Nat) : Fld := ⟨R.ETH_CFG n, 7, 1⟩
def F.ETH_CFG_VID (n : Nat) : Fld := ⟨R.ETH_CFG n, 8, 12⟩
def R.ETH_STAT (n : Nat) : Nat := 0xF0104 + 0x80 * n
def F.ETH_STAT_LINK (n : Nat) : Fld := ⟨R.ETH_STAT n, 0, 1⟩
def F.ETH_STAT_AN_DONE (n : Nat) : Fld := ⟨R.ETH_STAT n, 1, 1⟩
def F.ETH_STAT_PORT_STATE (n : Nat) : Fld := ⟨R.ETH_STAT n, 4, 4⟩
def R.ETH_MAC_LO (n : Nat) : Nat := 0xF0108 + 0x80 * n
def R.ETH_MAC_HI (n : Nat) : Nat := 0xF010C + 0x80 * n
def F.ETH_MAC_HI_MAC (n : Nat) : Fld := ⟨R.ETH_MAC_HI n, 0, 16⟩
def R.ETH_IPV4 (n : Nat) : Nat := 0xF0110 + 0x80 * n
def R.ETH_IPV6 (n j : Nat) : Nat := 0xF0114 + 0x80 * n + 0x4 * j
def R.ETH_ING_CORR (n : Nat) : Nat := 0xF0124 + 0x80 * n
def R.ETH_EGR_CORR (n : Nat) : Nat := 0xF0128 + 0x80 * n
def R.ETH_LOG_INT (n : Nat) : Nat := 0xF012C + 0x80 * n
def F.ETH_LOG_INT_SYNC (n : Nat) : Fld := ⟨R.ETH_LOG_INT n, 0, 8⟩
def F.ETH_LOG_INT_DELAY_REQ (n : Nat) : Fld := ⟨R.ETH_LOG_INT n, 8, 8⟩
def F.ETH_LOG_INT_ANNOUNCE (n : Nat) : Fld := ⟨R.ETH_LOG_INT n, 16, 8⟩
def F.ETH_LOG_INT_TIMEOUT (n : Nat) : Fld := ⟨R.ETH_LOG_INT n, 24, 4⟩
def R.ETH_MPD (n : Nat) : Nat := 0xF0130 + 0x80 * n
def R.ETH_MASTER_LO (n : Nat) : Nat := 0xF0134 + 0x80 * n
def R.ETH_MASTER_HI (n : Nat) : Nat := 0xF0138 + 0x80 * n
def R.ETH_RX_PTP_CNT (n : Nat) : Nat := 0xF013C + 0x80 * n
def R.ETH_TX_PTP_CNT (n : Nat) : Nat := 0xF0140 + 0x80 * n
def R.ETH_DROP_CNT (n : Nat) : Nat := 0xF0144 + 0x80 * n
def R.CREW_CFG : Nat := 0x100000
def F.CREW_CFG_SEAT : Fld := ⟨R.CREW_CFG, 0, 2⟩
def F.CREW_CFG_SIZE : Fld := ⟨R.CREW_CFG, 2, 3⟩
def F.CREW_CFG_SAFE_ALL : Fld := ⟨R.CREW_CFG, 5, 1⟩
def F.CREW_CFG_U0_CHAIN : Fld := ⟨R.CREW_CFG, 6, 1⟩
def F.CREW_CFG_LEFT : Fld := ⟨R.CREW_CFG, 8, 2⟩
def F.CREW_CFG_LEFT_EN : Fld := ⟨R.CREW_CFG, 10, 1⟩
def F.CREW_CFG_RIGHT : Fld := ⟨R.CREW_CFG, 12, 2⟩
def F.CREW_CFG_RIGHT_EN : Fld := ⟨R.CREW_CFG, 14, 1⟩
def R.CREW_STAT : Nat := 0x100004
def F.CREW_STAT_FORMED : Fld := ⟨R.CREW_STAT, 0, 1⟩
def F.CREW_STAT_LEAD : Fld := ⟨R.CREW_STAT, 1, 1⟩
def F.CREW_STAT_TIME_LOCKED : Fld := ⟨R.CREW_STAT, 2, 1⟩
def F.CREW_STAT_FLYWHEEL : Fld := ⟨R.CREW_STAT, 3, 1⟩
def F.CREW_STAT_LINKS_UP : Fld := ⟨R.CREW_STAT, 4, 4⟩
def R.CREW_LAT : Nat := 0x100008
def F.CREW_LAT_NS : Fld := ⟨R.CREW_LAT, 0, 11⟩
def R.CREW_TIME_OFS : Nat := 0x10000C
def R.CREW_POS_LATE_CNT : Nat := 0x100010
def R.CREW_SEAM_LATE_CNT : Nat := 0x100014
def R.CREW_SEAM_SQ_CNT : Nat := 0x100018
def R.CREW_TOKEN_CNT : Nat := 0x10001C
def R.CREW_TOKEN_REFUSE_CNT : Nat := 0x100020
def R.CREW_SKEW_CNT : Nat := 0x100024
def R.CP_STAT (n : Nat) : Nat := 0x100100 + 0x20 * n
def F.CP_STAT_STATE (n : Nat) : Fld := ⟨R.CP_STAT n, 0, 3⟩
def F.CP_STAT_PEER (n : Nat) : Fld := ⟨R.CP_STAT n, 4, 2⟩
def F.CP_STAT_PEER_VALID (n : Nat) : Fld := ⟨R.CP_STAT n, 6, 1⟩
def R.CP_DELAY (n : Nat) : Nat := 0x100104 + 0x20 * n
def F.CP_DELAY_D (n : Nat) : Fld := ⟨R.CP_DELAY n, 0, 16⟩
def R.CP_FEC_UNCORR (n : Nat) : Nat := 0x100108 + 0x20 * n
def R.CP_LAST_SKEW (n : Nat) : Nat := 0x10010C + 0x20 * n

/-! ### R494 -/

def R.UMP_CFG : Nat := 0x110000
def F.UMP_CFG_AUDIT_EN : Fld := ⟨R.UMP_CFG, 0, 1⟩
def F.UMP_CFG_STBY_TEST : Fld := ⟨R.UMP_CFG, 8, 8⟩
def R.UMP_STAT : Nat := 0x110004
def F.UMP_STAT_HEALTH : Fld := ⟨R.UMP_STAT, 0, 2⟩
def F.UMP_STAT_STBY_READY : Fld := ⟨R.UMP_STAT, 2, 1⟩
def F.UMP_STAT_TMR_MASKED : Fld := ⟨R.UMP_STAT, 3, 1⟩
def F.UMP_STAT_OSC_FAULT : Fld := ⟨R.UMP_STAT, 4, 1⟩
def F.UMP_STAT_ACTIVE_COX : Fld := ⟨R.UMP_STAT, 5, 1⟩
def F.UMP_STAT_SAFE_CAUSE : Fld := ⟨R.UMP_STAT, 8, 8⟩
def R.UMP_ISOL_NIB : Nat := 0x110008
def F.UMP_ISOL_NIB_NIB : Fld := ⟨R.UMP_ISOL_NIB, 0, 18⟩
def R.UMP_ISOL_COX : Nat := 0x11000C
def F.UMP_ISOL_COX_COX : Fld := ⟨R.UMP_ISOL_COX, 0, 2⟩
def R.UMP_ISOL_LANE_LO : Nat := 0x110010
def R.UMP_ISOL_LANE_HI : Nat := 0x110014
def R.UMP_ISOL_RANK : Nat := 0x110018
def F.UMP_ISOL_RANK_RANK : Fld := ⟨R.UMP_ISOL_RANK, 0, 16⟩
def R.UMP_AUDIT_CNT : Nat := 0x11001C
def R.UMP_AUDIT_FAIL_CNT : Nat := 0x110020
def R.UMP_AUDIT_ABANDON_CNT : Nat := 0x110024
def R.UMP_DECISION : Nat := 0x110028
def F.UMP_DECISION_MECH : Fld := ⟨R.UMP_DECISION, 0, 8⟩
def F.UMP_DECISION_CLASS : Fld := ⟨R.UMP_DECISION, 8, 8⟩
def F.UMP_DECISION_INDEX : Fld := ⟨R.UMP_DECISION, 16, 8⟩
def R.UMP_DECISION_CNT : Nat := 0x11002C
def R.UMP_CKPT_AGE : Nat := 0x110030
def F.UMP_CKPT_AGE_US : Fld := ⟨R.UMP_CKPT_AGE, 0, 16⟩
def R.UMP_FW_STAT : Nat := 0x110034
def F.UMP_FW_STAT_STATE : Fld := ⟨R.UMP_FW_STAT, 0, 2⟩
def F.UMP_FW_STAT_STEP : Fld := ⟨R.UMP_FW_STAT, 8, 5⟩
def R.UMP_EVS_WR : Nat := 0x110038
def F.UMP_EVS_WR_WR : Fld := ⟨R.UMP_EVS_WR, 0, 11⟩
def R.UMP_EVS_INDEX : Nat := 0x11003C
def F.UMP_EVS_INDEX_INDEX : Fld := ⟨R.UMP_EVS_INDEX, 0, 11⟩
def R.UMP_EVS_BOOT : Nat := 0x110040
def R.UMP_EVS_LOST_CNT : Nat := 0x110044
def R.UMP_EVS_DATA (n : Nat) : Nat := 0x110060 + 0x4 * n
def R.UMP_AUDIT_LAST (n : Nat) : Nat := 0x110080 + 0x4 * n

/-! ### R520 -/

def R.LOG_CFG : Nat := 0x120000
def F.LOG_CFG_RUN : Fld := ⟨R.LOG_CFG, 0, 1⟩
def F.LOG_CFG_DATA_EN : Fld := ⟨R.LOG_CFG, 1, 1⟩
def F.LOG_CFG_CAM_FULL : Fld := ⟨R.LOG_CFG, 2, 1⟩
def F.LOG_CFG_SIG_K : Fld := ⟨R.LOG_CFG, 4, 4⟩
def R.LOG_BASE_LO : Nat := 0x120004
def R.LOG_BASE_HI : Nat := 0x120008
def R.LOG_SIZE : Nat := 0x12000C
def F.LOG_SIZE_MIB : Fld := ⟨R.LOG_SIZE, 0, 13⟩
def R.LOG_WR : Nat := 0x120010
def R.LOG_SEG_SEQ : Nat := 0x120014
def R.LOG_OLDEST : Nat := 0x120018
def R.LOG_REC_CNT : Nat := 0x12001C
def R.LOG_LOST_CNT : Nat := 0x120020
def R.LOG_RATE : Nat := 0x120024
def R.LOG_RATIO : Nat := 0x120028
def F.LOG_RATIO_R : Fld := ⟨R.LOG_RATIO, 0, 16⟩
def R.LOG_RPL_CFG : Nat := 0x120040
def F.LOG_RPL_CFG_OUTPUTS : Fld := ⟨R.LOG_RPL_CFG, 0, 1⟩
def F.LOG_RPL_CFG_STOP_ON_MISMATCH : Fld := ⟨R.LOG_RPL_CFG, 1, 1⟩
def R.LOG_RPL_STAT : Nat := 0x120044
def F.LOG_RPL_STAT_STATE : Fld := ⟨R.LOG_RPL_STAT, 0, 2⟩
def F.LOG_RPL_STAT_STATUS : Fld := ⟨R.LOG_RPL_STAT, 8, 8⟩
def F.LOG_RPL_STAT_REASON : Fld := ⟨R.LOG_RPL_STAT, 16, 8⟩
def R.LOG_RPL_STROKES_LO : Nat := 0x120048
def R.LOG_RPL_STROKES_HI : Nat := 0x12004C
def R.LOG_RPL_SIG_CNT : Nat := 0x120050
def R.LOG_RPL_MISMATCH_CNT : Nat := 0x120054
def R.LOG_RPL_FIRST_LO : Nat := 0x120058
def R.LOG_RPL_FIRST_HI : Nat := 0x12005C
def F.LOG_RPL_FIRST_HI_S : Fld := ⟨R.LOG_RPL_FIRST_HI, 0, 16⟩
def R.LOG_RPL_FIRST_BARS : Nat := 0x120060
def F.LOG_RPL_FIRST_BARS_BARS : Fld := ⟨R.LOG_RPL_FIRST_BARS, 0, 16⟩
def R.LOG_RPL_DIVERGE_CNT : Nat := 0x120064
def R.TST_CTRL : Nat := 0x120800
def F.TST_CTRL_IF : Fld := ⟨R.TST_CTRL, 0, 4⟩
def F.TST_CTRL_INDEX : Fld := ⟨R.TST_CTRL, 4, 4⟩
def F.TST_CTRL_DEPTH : Fld := ⟨R.TST_CTRL, 8, 2⟩
def F.TST_CTRL_GEN : Fld := ⟨R.TST_CTRL, 10, 1⟩
def F.TST_CTRL_CHK : Fld := ⟨R.TST_CTRL, 11, 1⟩
def F.TST_CTRL_PRBS : Fld := ⟨R.TST_CTRL, 12, 2⟩
def R.TST_COUNT : Nat := 0x120804
def F.TST_COUNT_CNT : Fld := ⟨R.TST_COUNT, 0, 24⟩
def R.TST_ERR : Nat := 0x120808
def R.TST_STAT : Nat := 0x12080C
def F.TST_STAT_ACTIVE : Fld := ⟨R.TST_STAT, 0, 1⟩
def F.TST_STAT_SYNC : Fld := ⟨R.TST_STAT, 1, 1⟩

/-! ### R521 -/

def R.PERF_CHAIN (n : Nat) : Nat := 0x130000 + 0x4 * n
def R.PERF_SNAP : Nat := 0x130020
def F.PERF_SNAP_TAKE : Fld := ⟨R.PERF_SNAP, 0, 1⟩
def R.PERF_SNAP_T32 : Nat := 0x130024
def R.PERF_SNAPV (n : Nat) : Nat := 0x130400 + 0x4 * n
def R.PERF_CNT (n : Nat) : Nat := 0x131000 + 0x4 * n

/-! ### R545 -/

def R.PWR_RST_CAUSE : Nat := 0x140000
def F.PWR_RST_CAUSE_CAUSE : Fld := ⟨R.PWR_RST_CAUSE, 0, 4⟩
def F.PWR_RST_CAUSE_AFTER_TRIP : Fld := ⟨R.PWR_RST_CAUSE, 8, 1⟩
def F.PWR_RST_CAUSE_WARM : Fld := ⟨R.PWR_RST_CAUSE, 9, 1⟩
def R.PWR_BOOT_STAT : Nat := 0x140004
def F.PWR_BOOT_STAT_MODE : Fld := ⟨R.PWR_BOOT_STAT, 0, 2⟩
def F.PWR_BOOT_STAT_IMAGE : Fld := ⟨R.PWR_BOOT_STAT, 2, 2⟩
def F.PWR_BOOT_STAT_FAIL : Fld := ⟨R.PWR_BOOT_STAT, 4, 3⟩
def F.PWR_BOOT_STAT_STAGE : Fld := ⟨R.PWR_BOOT_STAT, 8, 8⟩
def R.PWR_BOOT_VER : Nat := 0x140008
def R.PWR_BOOT_ADDR_LO : Nat := 0x14000C
def R.PWR_BOOT_ADDR_HI : Nat := 0x140010
def R.PWR_BOOT_LEN : Nat := 0x140014
def F.PWR_BOOT_LEN_LEN : Fld := ⟨R.PWR_BOOT_LEN, 0, 25⟩
def R.PWR_BOOT_GO : Nat := 0x140018
def F.PWR_BOOT_GO_GO : Fld := ⟨R.PWR_BOOT_GO, 0, 1⟩
def R.AVS_CFG : Nat := 0x140020
def F.AVS_CFG_EN : Fld := ⟨R.AVS_CFG, 0, 1⟩
def F.AVS_CFG_SLACK_LO : Fld := ⟨R.AVS_CFG, 1, 7⟩
def F.AVS_CFG_SLACK_HI : Fld := ⟨R.AVS_CFG, 8, 7⟩
def F.AVS_CFG_VMIN : Fld := ⟨R.AVS_CFG, 16, 8⟩
def F.AVS_CFG_VMAX : Fld := ⟨R.AVS_CFG, 24, 8⟩
def R.AVS_STAT : Nat := 0x140024
def F.AVS_STAT_VOUT : Fld := ⟨R.AVS_STAT, 0, 10⟩
def F.AVS_STAT_AT_MAX : Fld := ⟨R.AVS_STAT, 10, 1⟩
def F.AVS_STAT_AT_MIN : Fld := ⟨R.AVS_STAT, 11, 1⟩
def F.AVS_STAT_BUS_FAIL : Fld := ⟨R.AVS_STAT, 12, 1⟩
def R.AVS_SLACK : Nat := 0x140028
def F.AVS_SLACK_PS : Fld := ⟨R.AVS_SLACK, 0, 16⟩
def R.PWR_AGE : Nat := 0x14002C
def F.PWR_AGE_PPM : Fld := ⟨R.PWR_AGE, 0, 20⟩
def F.PWR_AGE_AGE_K : Fld := ⟨R.PWR_AGE, 20, 8⟩
def R.AVS_ERR_CNT : Nat := 0x140030
def R.THERM_WARN : Nat := 0x140040
def F.THERM_WARN_WARN : Fld := ⟨R.THERM_WARN, 0, 16⟩
def F.THERM_WARN_HYST : Fld := ⟨R.THERM_WARN, 16, 8⟩
def R.THERM_STAT : Nat := 0x140044
def F.THERM_STAT_MAX : Fld := ⟨R.THERM_STAT, 0, 16⟩
def F.THERM_STAT_FAILED : Fld := ⟨R.THERM_STAT, 16, 8⟩
def F.THERM_STAT_WARNING : Fld := ⟨R.THERM_STAT, 24, 1⟩
def R.THERM_HOT_S : Nat := 0x140048
def R.CLK_STAT : Nat := 0x140050
def F.CLK_STAT_ON_B : Fld := ⟨R.CLK_STAT, 0, 8⟩
def F.CLK_STAT_FAILED : Fld := ⟨R.CLK_STAT, 8, 8⟩
def F.CLK_STAT_REFCLK_OK : Fld := ⟨R.CLK_STAT, 16, 1⟩
def F.CLK_STAT_PCIE_REFCLK_OK : Fld := ⟨R.CLK_STAT, 17, 1⟩
def F.CLK_STAT_ETH_REFCLK_OK : Fld := ⟨R.CLK_STAT, 18, 1⟩
def R.FUSE_STAT : Nat := 0x140054
def F.FUSE_STAT_REVOKED : Fld := ⟨R.FUSE_STAT, 0, 4⟩
def F.FUSE_STAT_MIN_VER : Fld := ⟨R.FUSE_STAT, 16, 16⟩

/-! ### R553 -/

def R.DEV_IDENT : Nat := 0x0
def F.DEV_IDENT_PART : Fld := ⟨R.DEV_IDENT, 0, 16⟩
def F.DEV_IDENT_STEPPING : Fld := ⟨R.DEV_IDENT, 16, 8⟩
def R.DEV_UID_LO : Nat := 0x4
def R.DEV_UID_HI : Nat := 0x8
def R.DEV_COX_VER : Nat := 0xC
def R.DEV_NIB_VER : Nat := 0x10
def R.DEV_NIB_OUT : Nat := 0x14
def R.DEV_STATE : Nat := 0x18
def F.DEV_STATE_STATE : Fld := ⟨R.DEV_STATE, 0, 4⟩
def F.DEV_STATE_PREV : Fld := ⟨R.DEV_STATE, 4, 4⟩
def R.DEV_CAP0 : Nat := 0x1C
def F.DEV_CAP0_NIBS : Fld := ⟨R.DEV_CAP0, 0, 5⟩
def F.DEV_CAP0_LANES : Fld := ⟨R.DEV_CAP0, 8, 7⟩
def F.DEV_CAP0_CAMS : Fld := ⟨R.DEV_CAP0, 16, 3⟩
def F.DEV_CAP0_ENCS : Fld := ⟨R.DEV_CAP0, 20, 3⟩
def F.DEV_CAP0_CREW_PORTS : Fld := ⟨R.DEV_CAP0, 24, 3⟩
def F.DEV_CAP0_ETH : Fld := ⟨R.DEV_CAP0, 28, 2⟩
def R.DEV_CAP1 : Nat := 0x20
def F.DEV_CAP1_MAX_RATE : Fld := ⟨R.DEV_CAP1, 0, 18⟩
def F.DEV_CAP1_LEGACY : Fld := ⟨R.DEV_CAP1, 18, 1⟩
def F.DEV_CAP1_CREW : Fld := ⟨R.DEV_CAP1, 19, 1⟩
def F.DEV_CAP1_PTP : Fld := ⟨R.DEV_CAP1, 20, 1⟩
def F.DEV_CAP1_MEM_CH : Fld := ⟨R.DEV_CAP1, 24, 4⟩
def R.DEV_VIOL_CNT : Nat := 0x24
def R.DEV_SCRATCH : Nat := 0x28
def R.DEV_STROKE_LO : Nat := 0x2C
def R.DEV_STROKE_HI : Nat := 0x30
def F.DEV_STROKE_HI_S : Fld := ⟨R.DEV_STROKE_HI, 0, 16⟩
def R.DEV_TOF_LO : Nat := 0x34
def R.DEV_TOF_HI : Nat := 0x38
def F.DEV_TOF_HI_S_TOF : Fld := ⟨R.DEV_TOF_HI, 0, 16⟩
def R.DEV_GPO : Nat := 0x3C
def F.DEV_GPO_OUT : Fld := ⟨R.DEV_GPO, 0, 8⟩
def F.DEV_GPO_OE : Fld := ⟨R.DEV_GPO, 8, 8⟩
def R.DEV_GPI : Nat := 0x40
def F.DEV_GPI_IN : Fld := ⟨R.DEV_GPI, 0, 8⟩
def R.DEV_UPTIME : Nat := 0x44
def R.MSIX_ADDR_LO (n : Nat) : Nat := 0x12000 + 0x10 * n
def R.MSIX_ADDR_HI (n : Nat) : Nat := 0x12004 + 0x10 * n
def R.MSIX_DATA (n : Nat) : Nat := 0x12008 + 0x10 * n
def R.MSIX_CTRL (n : Nat) : Nat := 0x1200C + 0x10 * n
def R.MSIX_PBA (n : Nat) : Nat := 0x13000 + 0x4 * n

def rowsDev0 : List RegRow := [
  ⟨0x0, 4, 1, 4, 1, 0x102208, [⟨0, 16, .ro⟩, ⟨16, 8, .ro⟩]⟩,
  ⟨0x4, 4, 1, 4, 1, 0x0, [⟨0, 32, .ro⟩]⟩,
  ⟨0x8, 4, 1, 4, 1, 0x0, [⟨0, 32, .ro⟩]⟩,
  ⟨0xC, 4, 1, 4, 1, 0x0, [⟨0, 32, .ro⟩]⟩,
  ⟨0x10, 4, 1, 4, 1, 0x0, [⟨0, 32, .ro⟩]⟩,
  ⟨0x14, 4, 1, 4, 1, 0x0, [⟨0, 32, .ro⟩]⟩,
  ⟨0x18, 4, 1, 4, 1, 0x0, [⟨0, 4, .ro⟩, ⟨4, 4, .ro⟩]⟩,
  ⟨0x1C, 4, 1, 4, 1, 0x24444012, [⟨0, 5, .ro⟩, ⟨8, 7, .ro⟩, ⟨16, 3, .ro⟩, ⟨20, 3, .ro⟩, ⟨24, 3, .ro⟩, ⟨28, 2, .ro⟩]⟩,
  ⟨0x20, 4, 1, 4, 1, 0x41E7100, [⟨0, 18, .ro⟩, ⟨18, 1, .ro⟩, ⟨19, 1, .ro⟩, ⟨20, 1, .ro⟩, ⟨24, 4, .ro⟩]⟩,
  ⟨0x24, 4, 1, 4, 1, 0x0, [⟨0, 32, .ro⟩]⟩,
  ⟨0x28, 4, 1, 4, 1, 0x0, [⟨0, 32, .rw⟩]⟩,
  ⟨0x2C, 4, 1, 4, 1, 0x0, [⟨0, 32, .ro⟩]⟩,
  ⟨0x30, 4, 1, 4, 1, 0x0, [⟨0, 16, .ro⟩]⟩,
  ⟨0x34, 4, 1, 4, 1, 0x0, [⟨0, 32, .ro⟩]⟩,
  ⟨0x38, 4, 1, 4, 1, 0x0, [⟨0, 16, .ro⟩]⟩,
  ⟨0x3C, 4, 1, 4, 1, 0x0, [⟨0, 8, .rw⟩, ⟨8, 8, .rw⟩]⟩]

def rowsDev1 : List RegRow := [
  ⟨0x40, 4, 1, 4, 1, 0x0, [⟨0, 8, .ro⟩]⟩,
  ⟨0x44, 4, 1, 4, 1, 0x0, [⟨0, 32, .ro⟩]⟩]

/-- The register table of the DEV block. -/
def rowsDev : List RegRow := rowsDev0 ++ rowsDev1

def rowsCmdq0 : List RegRow := [
  ⟨0x10000, 4, 1, 4, 1, 0x0, [⟨0, 1, .rw⟩]⟩,
  ⟨0x10004, 4, 1, 4, 1, 0x0, [⟨0, 8, .ro⟩, ⟨8, 1, .ro⟩, ⟨9, 1, .ro⟩]⟩,
  ⟨0x10008, 4, 1, 4, 1, 0x0, [⟨0, 32, .ro⟩]⟩,
  ⟨0x1000C, 4, 1, 4, 1, 0x0, [⟨0, 32, .ro⟩]⟩,
  ⟨0x10010, 4, 1, 4, 1, 0x0, [⟨0, 26, .ro⟩, ⟨26, 2, .ro⟩, ⟨28, 1, .ro⟩]⟩,
  ⟨0x10014, 4, 1, 4, 1, 0x0, [⟨0, 32, .rw⟩]⟩,
  ⟨0x10018, 4, 1, 4, 1, 0x0, [⟨0, 32, .rw⟩]⟩,
  ⟨0x1001C, 4, 1, 4, 1, 0x0, [⟨0, 5, .rw⟩]⟩,
  ⟨0x10020, 4, 1, 4, 1, 0x0, [⟨0, 3, .ro⟩, ⟨8, 4, .ro⟩, ⟨12, 1, .ro⟩]⟩,
  ⟨0x10024, 4, 1, 4, 1, 0x0, [⟨0, 32, .rc⟩]⟩,
  ⟨0x10028, 4, 1, 4, 1, 0x0, [⟨0, 32, .rc⟩]⟩,
  ⟨0x1002C, 4, 1, 4, 1, 0xA, [⟨0, 16, .rw⟩]⟩,
  ⟨0x10040, 4, 1, 4, 1, 0x0, [⟨0, 32, .rw⟩]⟩,
  ⟨0x10044, 4, 1, 4, 1, 0x0, [⟨0, 32, .rw⟩]⟩,
  ⟨0x10048, 4, 1, 4, 1, 0x40, [⟨0, 17, .rw⟩]⟩,
  ⟨0x1004C, 4, 1, 4, 1, 0x11000, [⟨0, 1, .rw⟩, ⟨1, 1, .rw⟩, ⟨2, 6, .rw⟩, ⟨8, 8, .rw⟩, ⟨16, 8, .rw⟩]⟩]

def rowsCmdq1 : List RegRow := [
  ⟨0x10050, 4, 1, 4, 1, 0x0, [⟨0, 10, .rw⟩]⟩,
  ⟨0x10054, 4, 1, 4, 1, 0x0, [⟨0, 16, .ro⟩]⟩,
  ⟨0x10058, 4, 1, 4, 1, 0x0, [⟨0, 32, .rw⟩]⟩,
  ⟨0x1005C, 4, 1, 4, 1, 0x0, [⟨0, 32, .rw⟩]⟩,
  ⟨0x10060, 4, 1, 4, 1, 0x0, [⟨0, 32, .ro⟩]⟩,
  ⟨0x10064, 4, 1, 4, 1, 0x0, [⟨0, 32, .ro⟩]⟩,
  ⟨0x10100, 32, 8, 4, 1, 0x0, [⟨0, 32, .rw⟩]⟩,
  ⟨0x10104, 32, 8, 4, 1, 0x0, [⟨0, 32, .rw⟩]⟩,
  ⟨0x10108, 32, 8, 4, 1, 0x2, [⟨0, 1, .rw⟩, ⟨1, 12, .rw⟩, ⟨13, 3, .rw⟩]⟩,
  ⟨0x1010C, 32, 8, 4, 1, 0x0, [⟨0, 12, .ro⟩]⟩,
  ⟨0x10110, 32, 8, 4, 1, 0x0, [⟨0, 12, .ro⟩]⟩,
  ⟨0x10114, 32, 8, 4, 1, 0x0, [⟨0, 16, .ro⟩]⟩,
  ⟨0x10200, 32, 8, 4, 1, 0x0, [⟨0, 32, .rw⟩]⟩,
  ⟨0x10204, 32, 8, 4, 1, 0x0, [⟨0, 32, .rw⟩]⟩,
  ⟨0x10208, 32, 8, 4, 1, 0x100002, [⟨0, 1, .rw⟩, ⟨1, 12, .rw⟩, ⟨13, 6, .rw⟩, ⟨19, 1, .rw⟩, ⟨20, 8, .rw⟩]⟩,
  ⟨0x1020C, 32, 8, 4, 1, 0x0, [⟨0, 10, .rw⟩]⟩]

def rowsCmdq2 : List RegRow := [
  ⟨0x10210, 32, 8, 4, 1, 0x8000, [⟨0, 12, .ro⟩, ⟨15, 1, .ro⟩]⟩,
  ⟨0x11000, 8, 8, 4, 1, 0x0, [⟨0, 12, .wo⟩]⟩,
  ⟨0x11004, 8, 8, 4, 1, 0x0, [⟨0, 12, .wo⟩]⟩,
  ⟨0x11080, 4, 1, 4, 1, 0x0, [⟨0, 16, .wo⟩]⟩,
  ⟨0x12000, 16, 64, 4, 1, 0x0, [⟨0, 32, .rw⟩]⟩,
  ⟨0x12004, 16, 64, 4, 1, 0x0, [⟨0, 32, .rw⟩]⟩,
  ⟨0x12008, 16, 64, 4, 1, 0x0, [⟨0, 32, .rw⟩]⟩,
  ⟨0x1200C, 16, 64, 4, 1, 0x1, [⟨0, 1, .rw⟩]⟩,
  ⟨0x13000, 4, 2, 4, 1, 0x0, [⟨0, 32, .ro⟩]⟩]

/-- The register table of the CMDQ block. -/
def rowsCmdq : List RegRow := rowsCmdq0 ++ rowsCmdq1 ++ rowsCmdq2

def rowsWeb0 : List RegRow := [
  ⟨0x20000, 256, 4, 4, 1, 0x1A860, [⟨0, 1, .rw⟩, ⟨1, 2, .rw⟩, ⟨3, 1, .rw⟩, ⟨4, 1, .rw⟩, ⟨5, 2, .rw⟩, ⟨7, 1, .rw⟩, ⟨8, 1, .rw⟩, ⟨9, 6, .rw⟩, ⟨15, 3, .rw⟩]⟩,
  ⟨0x20004, 256, 4, 4, 1, 0x0, [⟨0, 32, .rwc⟩]⟩,
  ⟨0x20008, 256, 4, 4, 1, 0x0, [⟨0, 32, .rwc⟩]⟩,
  ⟨0x2000C, 256, 4, 4, 1, 0x0, [⟨0, 32, .ro⟩]⟩,
  ⟨0x20010, 256, 4, 4, 1, 0x0, [⟨0, 32, .ro⟩]⟩,
  ⟨0x20014, 256, 4, 4, 1, 0x0, [⟨0, 32, .ro⟩]⟩,
  ⟨0x20018, 256, 4, 4, 1, 0x0, [⟨0, 32, .ro⟩]⟩,
  ⟨0x2001C, 256, 4, 4, 1, 0x0, [⟨0, 32, .ro⟩]⟩,
  ⟨0x20020, 256, 4, 4, 1, 0x4, [⟨0, 1, .ro⟩, ⟨1, 1, .ro⟩, ⟨2, 1, .ro⟩, ⟨3, 1, .ro⟩, ⟨4, 1, .w1c⟩, ⟨5, 1, .w1c⟩, ⟨6, 1, .w1c⟩, ⟨7, 1, .w1c⟩, ⟨8, 1, .w1c⟩, ⟨9, 1, .ro⟩]⟩,
  ⟨0x20024, 256, 4, 4, 1, 0x0, [⟨0, 32, .rc⟩]⟩,
  ⟨0x20028, 256, 4, 4, 1, 0x0, [⟨0, 32, .rw⟩]⟩,
  ⟨0x2002C, 256, 4, 4, 1, 0x0, [⟨0, 32, .ro⟩]⟩,
  ⟨0x20030, 256, 4, 4, 1, 0x4, [⟨0, 16, .rw⟩]⟩,
  ⟨0x20034, 256, 4, 4, 1, 0x2710, [⟨0, 24, .rw⟩]⟩,
  ⟨0x20038, 256, 4, 4, 1, 0x28A015E, [⟨0, 10, .rw⟩, ⟨16, 10, .rw⟩]⟩,
  ⟨0x2003C, 256, 4, 4, 1, 0x0, [⟨0, 32, .ro⟩]⟩]

def rowsWeb1 : List RegRow := [
  ⟨0x20800, 4, 1, 4, 1, 0x0, [⟨0, 1, .rw⟩, ⟨1, 1, .rwc⟩]⟩,
  ⟨0x20804, 4, 1, 4, 1, 0x0, [⟨0, 1, .ro⟩, ⟨1, 1, .ro⟩, ⟨2, 1, .ro⟩, ⟨4, 4, .ro⟩]⟩,
  ⟨0x20808, 4, 1, 4, 1, 0x0, [⟨0, 32, .ro⟩]⟩,
  ⟨0x2080C, 4, 1, 4, 1, 0x0, [⟨0, 32, .ro⟩]⟩,
  ⟨0x20810, 4, 1, 4, 1, 0x0, [⟨0, 32, .ro⟩]⟩,
  ⟨0x20814, 4, 1, 4, 1, 0x0, [⟨0, 32, .ro⟩]⟩,
  ⟨0x20818, 4, 1, 4, 1, 0x186A0, [⟨0, 32, .rw⟩]⟩,
  ⟨0x2081C, 4, 1, 4, 1, 0x0, [⟨0, 32, .rwc⟩]⟩,
  ⟨0x20820, 4, 1, 4, 1, 0x0, [⟨0, 32, .rwc⟩]⟩,
  ⟨0x20824, 4, 1, 4, 1, 0x36222, [⟨0, 32, .rw⟩]⟩,
  ⟨0x20828, 4, 1, 4, 1, 0x4, [⟨0, 8, .rw⟩]⟩,
  ⟨0x2082C, 4, 1, 4, 1, 0xF4240, [⟨0, 32, .rw⟩]⟩,
  ⟨0x20830, 4, 1, 4, 1, 0x0, [⟨0, 32, .ro⟩]⟩,
  ⟨0x20834, 4, 1, 4, 1, 0x0, [⟨0, 32, .ro⟩]⟩,
  ⟨0x21000, 64, 16, 4, 1, 0x0, [⟨0, 1, .rw⟩, ⟨1, 2, .rw⟩, ⟨3, 2, .rw⟩, ⟨5, 2, .rw⟩, ⟨7, 1, .rw⟩, ⟨8, 1, .rw⟩, ⟨9, 1, .rw⟩, ⟨10, 1, .rw⟩]⟩,
  ⟨0x21004, 64, 16, 4, 1, 0x0, [⟨0, 32, .rw⟩]⟩]

def rowsWeb2 : List RegRow := [
  ⟨0x21008, 64, 16, 4, 1, 0x0, [⟨0, 32, .rw⟩]⟩,
  ⟨0x2100C, 64, 16, 4, 1, 0x0, [⟨0, 32, .rw⟩]⟩,
  ⟨0x21010, 64, 16, 4, 1, 0x0, [⟨0, 16, .rw⟩]⟩,
  ⟨0x21014, 64, 16, 4, 1, 0x4, [⟨0, 19, .rw⟩]⟩,
  ⟨0x21018, 64, 16, 4, 1, 0x0, [⟨0, 1, .ro⟩, ⟨1, 1, .ro⟩, ⟨2, 1, .w1c⟩, ⟨3, 1, .w1c⟩, ⟨4, 5, .ro⟩, ⟨9, 1, .ro⟩, ⟨10, 1, .w1c⟩]⟩,
  ⟨0x2101C, 64, 16, 4, 1, 0x0, [⟨0, 32, .ro⟩]⟩,
  ⟨0x21020, 64, 16, 4, 1, 0x0, [⟨0, 32, .ro⟩]⟩,
  ⟨0x21024, 64, 16, 4, 1, 0x0, [⟨0, 32, .rw⟩]⟩]

/-- The register table of the WEB block. -/
def rowsWeb : List RegRow := rowsWeb0 ++ rowsWeb1 ++ rowsWeb2

def rowsFire0 : List RegRow := [
  ⟨0x30000, 64, 16, 4, 1, 0x0, [⟨0, 1, .rwc⟩, ⟨1, 1, .rwc⟩]⟩,
  ⟨0x30004, 64, 16, 4, 1, 0x0, [⟨0, 20, .rwc⟩]⟩,
  ⟨0x30008, 64, 16, 4, 1, 0xA0, [⟨0, 12, .rwc⟩]⟩,
  ⟨0x3000C, 64, 16, 4, 1, 0x0, [⟨0, 32, .rw⟩]⟩,
  ⟨0x30010, 64, 16, 4, 1, 0x0, [⟨0, 32, .rw⟩]⟩,
  ⟨0x30014, 64, 16, 4, 1, 0x0, [⟨0, 32, .rw⟩]⟩,
  ⟨0x30018, 64, 16, 4, 1, 0x0, [⟨0, 32, .rw⟩]⟩,
  ⟨0x3001C, 64, 16, 4, 1, 0x0, [⟨0, 16, .rwc⟩, ⟨16, 16, .rwc⟩]⟩,
  ⟨0x30020, 64, 16, 4, 1, 0xC8, [⟨0, 9, .rw⟩]⟩,
  ⟨0x30024, 64, 16, 4, 1, 0x0, [⟨0, 1, .ro⟩, ⟨1, 1, .ro⟩, ⟨2, 1, .w1c⟩]⟩,
  ⟨0x30028, 64, 16, 4, 1, 0x0, [⟨0, 32, .ro⟩]⟩,
  ⟨0x3002C, 64, 16, 4, 1, 0x0, [⟨0, 32, .ro⟩]⟩,
  ⟨0x30030, 64, 16, 4, 1, 0x0, [⟨0, 32, .ro⟩]⟩,
  ⟨0x30034, 64, 16, 4, 1, 0x0, [⟨0, 32, .ro⟩]⟩,
  ⟨0x30038, 64, 16, 4, 1, 0x0, [⟨0, 32, .ro⟩]⟩,
  ⟨0x3003C, 64, 16, 4, 1, 0x0, [⟨0, 32, .ro⟩]⟩]

def rowsFire1 : List RegRow := [
  ⟨0x30800, 4, 1, 4, 1, 0x225A, [⟨0, 7, .rw⟩, ⟨8, 4, .rw⟩, ⟨12, 1, .rw⟩, ⟨13, 1, .rw⟩]⟩,
  ⟨0x30804, 4, 1, 4, 1, 0x0, [⟨0, 16, .wo⟩]⟩,
  ⟨0x30808, 4, 1, 4, 1, 0x27100, [⟨0, 18, .ro⟩]⟩,
  ⟨0x3080C, 4, 1, 4, 1, 0xFF, [⟨0, 8, .rw⟩]⟩,
  ⟨0x30810, 4, 1, 4, 1, 0x0, [⟨0, 1, .ro⟩, ⟨4, 4, .ro⟩, ⟨8, 8, .ro⟩]⟩,
  ⟨0x30814, 4, 1, 4, 1, 0x0, [⟨0, 1, .ro⟩, ⟨8, 24, .ro⟩]⟩]

/-- The register table of the FIRE block. -/
def rowsFire : List RegRow := rowsFire0 ++ rowsFire1

def rowsLayer0 : List RegRow := [
  ⟨0x40000, 4, 1, 4, 1, 0x0, [⟨0, 1, .rwc⟩, ⟨8, 8, .rwc⟩]⟩,
  ⟨0x40004, 4, 1, 4, 1, 0x0, [⟨0, 32, .rwc⟩]⟩,
  ⟨0x40008, 4, 1, 4, 1, 0x0, [⟨0, 16, .rwc⟩]⟩,
  ⟨0x4000C, 4, 1, 4, 1, 0xFFFFFFFF, [⟨0, 32, .rwc⟩]⟩,
  ⟨0x40010, 4, 1, 4, 1, 0xFFFF, [⟨0, 16, .rwc⟩]⟩,
  ⟨0x40014, 4, 4, 4, 1, 0x0, [⟨0, 16, .rwc⟩, ⟨16, 16, .rwc⟩]⟩,
  ⟨0x40024, 4, 1, 4, 1, 0x0, [⟨0, 20, .rwc⟩]⟩,
  ⟨0x40028, 4, 1, 4, 1, 0x0, [⟨0, 4, .ro⟩, ⟨8, 8, .ro⟩]⟩,
  ⟨0x4002C, 4, 1, 4, 1, 0x0, [⟨0, 32, .ro⟩]⟩,
  ⟨0x40030, 4, 1, 4, 1, 0x0, [⟨0, 16, .ro⟩]⟩,
  ⟨0x40034, 4, 1, 4, 1, 0x0, [⟨0, 32, .ro⟩]⟩,
  ⟨0x40038, 4, 1, 4, 1, 0x0, [⟨0, 32, .ro⟩]⟩,
  ⟨0x4003C, 4, 1, 4, 1, 0x0, [⟨0, 32, .ro⟩]⟩,
  ⟨0x40040, 4, 1, 4, 1, 0x0, [⟨0, 32, .w1c⟩]⟩,
  ⟨0x40044, 4, 1, 4, 1, 0x0, [⟨0, 32, .w1c⟩]⟩,
  ⟨0x40100, 64, 8, 4, 1, 0x0, [⟨0, 1, .rwc⟩, ⟨1, 3, .rwc⟩, ⟨4, 3, .rwc⟩, ⟨7, 1, .rwc⟩, ⟨8, 1, .rwc⟩, ⟨9, 1, .rwc⟩, ⟨10, 1, .rwc⟩, ⟨11, 2, .rwc⟩, ⟨16, 8, .rwc⟩]⟩]

def rowsLayer1 : List RegRow := [
  ⟨0x40104, 64, 8, 4, 1, 0x0, [⟨0, 10, .rwc⟩]⟩,
  ⟨0x40108, 64, 8, 4, 1, 0x0, [⟨0, 32, .rwc⟩]⟩,
  ⟨0x4010C, 64, 8, 4, 1, 0x0, [⟨0, 32, .rwc⟩]⟩,
  ⟨0x40110, 64, 8, 4, 1, 0x0, [⟨0, 32, .rwc⟩]⟩,
  ⟨0x40114, 64, 8, 4, 1, 0x0, [⟨0, 16, .rwc⟩]⟩,
  ⟨0x40118, 64, 8, 4, 1, 0x0, [⟨0, 32, .rwc⟩]⟩,
  ⟨0x4011C, 64, 8, 4, 1, 0x0, [⟨0, 32, .rwc⟩]⟩,
  ⟨0x40120, 64, 8, 4, 1, 0x0, [⟨0, 32, .rwc⟩]⟩,
  ⟨0x40124, 64, 8, 4, 4, 0x0, [⟨0, 16, .rwc⟩, ⟨16, 16, .rwc⟩]⟩,
  ⟨0x40134, 64, 8, 4, 1, 0x0, [⟨0, 7, .ro⟩, ⟨8, 7, .rw⟩]⟩,
  ⟨0x40138, 64, 8, 4, 1, 0x0, [⟨0, 32, .ro⟩]⟩,
  ⟨0x4013C, 64, 8, 4, 1, 0x0, [⟨0, 32, .ro⟩]⟩,
  ⟨0x40400, 32, 64, 4, 1, 0x0, [⟨0, 1, .rwc⟩, ⟨1, 1, .rwc⟩, ⟨2, 3, .rwc⟩, ⟨16, 8, .rwc⟩]⟩,
  ⟨0x40404, 32, 64, 4, 1, 0x0, [⟨0, 17, .rwc⟩]⟩,
  ⟨0x40408, 32, 64, 4, 1, 0x0, [⟨0, 17, .rwc⟩]⟩,
  ⟨0x4040C, 32, 64, 4, 1, 0x0, [⟨0, 32, .rwc⟩]⟩]

def rowsLayer2 : List RegRow := [
  ⟨0x40410, 32, 64, 4, 1, 0x0, [⟨0, 16, .rwc⟩]⟩,
  ⟨0x40414, 32, 64, 4, 1, 0x0, [⟨0, 32, .rwc⟩]⟩,
  ⟨0x40418, 32, 64, 4, 1, 0x0, [⟨0, 32, .rwc⟩]⟩,
  ⟨0x4041C, 32, 64, 4, 1, 0x0, [⟨0, 32, .ro⟩]⟩]

/-- The register table of the LAYER block. -/
def rowsLayer : List RegRow := rowsLayer0 ++ rowsLayer1 ++ rowsLayer2

def rowsScale0 : List RegRow := [
  ⟨0x50000, 4, 1, 4, 1, 0x0, [⟨0, 1, .rwc⟩, ⟨1, 1, .rwc⟩, ⟨2, 1, .rwc⟩, ⟨3, 1, .rw⟩, ⟨4, 1, .rwc⟩, ⟨5, 1, .rwc⟩]⟩,
  ⟨0x50004, 4, 1, 4, 1, 0x10000000, [⟨0, 32, .rwc⟩]⟩,
  ⟨0x50008, 4, 1, 4, 1, 0x10000000, [⟨0, 32, .rwc⟩]⟩,
  ⟨0x5000C, 4, 1, 4, 1, 0x0, [⟨0, 32, .rwc⟩]⟩,
  ⟨0x50010, 4, 1, 4, 1, 0x0, [⟨0, 32, .rwc⟩]⟩,
  ⟨0x50014, 4, 1, 4, 1, 0x0, [⟨0, 32, .rwc⟩]⟩,
  ⟨0x50018, 4, 1, 4, 1, 0x0, [⟨0, 32, .rwc⟩]⟩,
  ⟨0x5001C, 4, 1, 4, 1, 0x0, [⟨0, 17, .rwc⟩]⟩,
  ⟨0x50020, 4, 1, 4, 1, 0x800, [⟨0, 12, .rwc⟩]⟩,
  ⟨0x50024, 4, 1, 4, 1, 0x7FFF8, [⟨0, 20, .rwc⟩]⟩,
  ⟨0x50028, 4, 1, 4, 1, 0xFF, [⟨0, 8, .rwc⟩]⟩,
  ⟨0x5002C, 4, 1, 4, 1, 0x0, [⟨0, 32, .rc⟩]⟩,
  ⟨0x50030, 4, 1, 4, 1, 0x0, [⟨0, 20, .ro⟩, ⟨20, 4, .ro⟩, ⟨24, 1, .ro⟩]⟩,
  ⟨0x50100, 4, 64, 4, 1, 0x0, [⟨0, 16, .rwc⟩, ⟨16, 16, .rwc⟩]⟩,
  ⟨0x51000, 4, 256, 4, 1, 0x0, [⟨0, 16, .rwc⟩, ⟨16, 16, .rwc⟩]⟩,
  ⟨0x51400, 4, 192, 4, 1, 0x0, [⟨0, 16, .rwc⟩, ⟨16, 16, .rwc⟩]⟩]

/-- The register table of the SCALE block. -/
def rowsScale : List RegRow := rowsScale0

def rowsScreen0 : List RegRow := [
  ⟨0x60000, 4, 1, 4, 1, 0x40, [⟨0, 1, .rwc⟩, ⟨1, 1, .rwc⟩, ⟨2, 1, .rwc⟩, ⟨3, 1, .rw⟩, ⟨4, 4, .rwc⟩]⟩,
  ⟨0x60004, 4, 1, 4, 1, 0xA06020, [⟨0, 8, .rwc⟩, ⟨8, 8, .rwc⟩, ⟨16, 8, .rwc⟩]⟩,
  ⟨0x60008, 4, 1, 4, 1, 0x0, [⟨0, 8, .ro⟩, ⟨8, 8, .ro⟩, ⟨16, 13, .ro⟩]⟩,
  ⟨0x6000C, 4, 1, 4, 1, 0x0, [⟨0, 8, .ro⟩]⟩,
  ⟨0x60010, 4, 4, 4, 1, 0x0, [⟨0, 16, .rwc⟩, ⟨16, 1, .rwc⟩]⟩,
  ⟨0x60020, 8, 4, 4, 1, 0x0, [⟨0, 32, .rwc⟩]⟩,
  ⟨0x60024, 8, 4, 4, 1, 0x0, [⟨0, 32, .rwc⟩]⟩,
  ⟨0x60040, 4, 1, 4, 1, 0x0, [⟨0, 32, .ro⟩]⟩,
  ⟨0x60044, 4, 1, 4, 1, 0x0, [⟨0, 32, .ro⟩]⟩,
  ⟨0x60048, 4, 1, 4, 1, 0x0, [⟨0, 32, .ro⟩]⟩,
  ⟨0x6004C, 4, 1, 4, 1, 0x0, [⟨0, 32, .ro⟩]⟩,
  ⟨0x60050, 4, 1, 4, 1, 0x0, [⟨0, 16, .rwc⟩]⟩,
  ⟨0x60100, 32, 8, 4, 1, 0x800, [⟨0, 1, .rwc⟩, ⟨1, 1, .rwc⟩, ⟨2, 1, .rwc⟩, ⟨3, 4, .rwc⟩, ⟨7, 4, .rwc⟩, ⟨11, 1, .rwc⟩]⟩,
  ⟨0x60104, 32, 8, 4, 1, 0x0, [⟨0, 9, .ro⟩, ⟨16, 9, .ro⟩]⟩,
  ⟨0x60108, 32, 8, 4, 1, 0x0, [⟨0, 32, .rwc⟩]⟩,
  ⟨0x6010C, 32, 8, 4, 1, 0x1, [⟨0, 4, .rwc⟩]⟩]

def rowsScreen1 : List RegRow := [
  ⟨0x60300, 4, 16, 4, 1, 0xFFFFFFE4, [⟨0, 32, .rwc⟩]⟩,
  ⟨0x60400, 64, 8, 4, 15, 0x1FFFF, [⟨0, 16, .rwc⟩, ⟨16, 4, .rwc⟩]⟩]

/-- The register table of the SCREEN block. -/
def rowsScreen : List RegRow := rowsScreen0 ++ rowsScreen1

def rowsNib0 : List RegRow := [
  ⟨0x70000, 4, 1, 4, 1, 0xD02, [⟨0, 4, .rwc⟩, ⟨8, 5, .rwc⟩]⟩,
  ⟨0x70004, 4, 1, 4, 1, 0x0, [⟨0, 16, .rwc⟩]⟩,
  ⟨0x70008, 4, 1, 4, 1, 0x400, [⟨0, 16, .rwc⟩, ⟨16, 16, .rwc⟩]⟩,
  ⟨0x7000C, 4, 1, 4, 1, 0x10, [⟨0, 5, .ro⟩, ⟨5, 2, .ro⟩, ⟨7, 1, .ro⟩, ⟨8, 1, .ro⟩, ⟨16, 8, .ro⟩]⟩,
  ⟨0x70010, 4, 1, 4, 1, 0x0, [⟨0, 16, .ro⟩]⟩,
  ⟨0x70014, 4, 1, 4, 1, 0x0, [⟨0, 32, .ro⟩]⟩,
  ⟨0x70018, 4, 1, 4, 1, 0x0, [⟨0, 32, .ro⟩]⟩,
  ⟨0x7001C, 4, 1, 4, 1, 0x0, [⟨0, 32, .ro⟩]⟩,
  ⟨0x70020, 4, 1, 4, 1, 0x0, [⟨0, 32, .ro⟩]⟩,
  ⟨0x70024, 4, 1, 4, 1, 0x0, [⟨0, 32, .ro⟩]⟩,
  ⟨0x70028, 4, 1, 4, 1, 0x0, [⟨0, 32, .ro⟩]⟩,
  ⟨0x7002C, 4, 1, 4, 1, 0x0, [⟨0, 32, .rc⟩]⟩,
  ⟨0x70030, 4, 1, 4, 1, 0x0, [⟨0, 32, .ro⟩]⟩,
  ⟨0x70034, 4, 1, 4, 1, 0x0, [⟨0, 32, .ro⟩]⟩,
  ⟨0x70038, 4, 1, 4, 1, 0x186A, [⟨0, 32, .ro⟩]⟩,
  ⟨0x7003C, 4, 1, 4, 1, 0xD, [⟨0, 5, .ro⟩]⟩]

def rowsNib1 : List RegRow := [
  ⟨0x70100, 4, 17, 4, 1, 0x0, [⟨0, 18, .rwc⟩]⟩,
  ⟨0x70200, 16, 16, 4, 1, 0x0, [⟨0, 32, .ro⟩]⟩,
  ⟨0x70204, 16, 16, 4, 1, 0x0, [⟨0, 32, .ro⟩]⟩,
  ⟨0x70208, 16, 16, 4, 1, 0x0, [⟨0, 32, .ro⟩]⟩,
  ⟨0x70400, 32, 18, 4, 1, 0x0, [⟨0, 2, .ro⟩, ⟨8, 5, .ro⟩, ⟨16, 4, .ro⟩, ⟨24, 7, .ro⟩]⟩,
  ⟨0x70404, 32, 18, 4, 1, 0x0, [⟨0, 32, .ro⟩]⟩,
  ⟨0x70408, 32, 18, 4, 1, 0x0, [⟨0, 32, .ro⟩]⟩,
  ⟨0x7040C, 32, 18, 4, 1, 0x0, [⟨0, 32, .ro⟩]⟩,
  ⟨0x70410, 32, 18, 4, 1, 0x0, [⟨0, 32, .ro⟩]⟩]

/-- The register table of the NIB block. -/
def rowsNib : List RegRow := rowsNib0 ++ rowsNib1

def rowsProof0 : List RegRow := [
  ⟨0x80000, 4, 1, 4, 1, 0x4, [⟨0, 1, .rw⟩, ⟨1, 1, .rw⟩, ⟨2, 2, .rw⟩, ⟨4, 1, .rw⟩, ⟨5, 1, .rw⟩]⟩,
  ⟨0x80004, 4, 1, 4, 1, 0x0, [⟨0, 32, .rw⟩]⟩,
  ⟨0x80008, 4, 1, 4, 1, 0x8, [⟨0, 8, .rw⟩]⟩,
  ⟨0x8000C, 4, 1, 4, 1, 0x8190108, [⟨0, 8, .rw⟩, ⟨8, 4, .rw⟩, ⟨16, 8, .rw⟩, ⟨24, 8, .rw⟩]⟩,
  ⟨0x80010, 4, 1, 4, 1, 0x40, [⟨0, 16, .rw⟩]⟩,
  ⟨0x80014, 4, 1, 4, 1, 0x7D020F, [⟨0, 8, .rw⟩, ⟨8, 4, .rw⟩, ⟨16, 12, .rw⟩]⟩,
  ⟨0x80018, 4, 1, 4, 1, 0x2010, [⟨0, 8, .rw⟩, ⟨8, 16, .rw⟩]⟩,
  ⟨0x8001C, 4, 1, 4, 1, 0x1900200, [⟨0, 16, .rw⟩, ⟨16, 16, .rw⟩]⟩,
  ⟨0x80020, 4, 1, 4, 1, 0x105A4010, [⟨0, 8, .rw⟩, ⟨8, 8, .rw⟩, ⟨16, 7, .rw⟩, ⟨24, 8, .rw⟩]⟩,
  ⟨0x80024, 4, 1, 4, 1, 0xC8, [⟨0, 16, .rw⟩]⟩,
  ⟨0x80028, 4, 1, 4, 1, 0x0, [⟨0, 32, .rwc⟩]⟩,
  ⟨0x8002C, 4, 1, 4, 1, 0x0, [⟨0, 32, .rwc⟩]⟩,
  ⟨0x80030, 4, 1, 4, 1, 0x0, [⟨0, 32, .rwc⟩]⟩,
  ⟨0x80034, 4, 1, 4, 1, 0x0, [⟨0, 32, .rwc⟩]⟩,
  ⟨0x80038, 4, 1, 4, 1, 0x0, [⟨0, 32, .rwc⟩]⟩,
  ⟨0x8003C, 4, 1, 4, 1, 0x0, [⟨0, 32, .rwc⟩]⟩]

def rowsProof1 : List RegRow := [
  ⟨0x80040, 4, 1, 4, 1, 0x0, [⟨0, 32, .rwc⟩]⟩,
  ⟨0x80044, 4, 1, 4, 1, 0x0, [⟨0, 32, .rwc⟩]⟩,
  ⟨0x80048, 4, 1, 4, 1, 0x0, [⟨0, 32, .ro⟩]⟩,
  ⟨0x8004C, 4, 1, 4, 1, 0x0, [⟨0, 32, .rwc⟩]⟩,
  ⟨0x80050, 4, 1, 4, 1, 0x0, [⟨0, 32, .rwc⟩]⟩,
  ⟨0x80054, 4, 1, 4, 1, 0x0, [⟨0, 32, .rwc⟩]⟩,
  ⟨0x80058, 4, 1, 4, 1, 0x0, [⟨0, 32, .ro⟩]⟩,
  ⟨0x8005C, 4, 1, 4, 1, 0x0, [⟨0, 32, .rw⟩]⟩,
  ⟨0x80060, 4, 1, 4, 1, 0x0, [⟨0, 32, .ro⟩]⟩,
  ⟨0x80064, 4, 1, 4, 1, 0x0, [⟨0, 32, .ro⟩]⟩,
  ⟨0x80068, 4, 1, 4, 1, 0x0, [⟨0, 1, .ro⟩, ⟨1, 1, .ro⟩, ⟨8, 8, .ro⟩]⟩,
  ⟨0x8006C, 4, 1, 4, 1, 0x0, [⟨0, 32, .ro⟩]⟩,
  ⟨0x80070, 4, 1, 4, 1, 0x0, [⟨0, 32, .ro⟩]⟩,
  ⟨0x80074, 4, 1, 4, 1, 0x0, [⟨0, 32, .ro⟩]⟩,
  ⟨0x80078, 4, 1, 4, 1, 0x0, [⟨0, 32, .ro⟩]⟩,
  ⟨0x8007C, 4, 1, 4, 1, 0x0, [⟨0, 32, .ro⟩]⟩]

def rowsProof2 : List RegRow := [
  ⟨0x80080, 4, 1, 4, 1, 0x0, [⟨0, 32, .ro⟩]⟩,
  ⟨0x80084, 4, 1, 4, 1, 0x0, [⟨0, 32, .ro⟩]⟩,
  ⟨0x80088, 4, 1, 4, 1, 0x0, [⟨0, 32, .ro⟩]⟩,
  ⟨0x8008C, 4, 1, 4, 1, 0x0, [⟨0, 32, .ro⟩]⟩,
  ⟨0x80090, 4, 1, 4, 1, 0x0, [⟨0, 32, .ro⟩]⟩,
  ⟨0x80094, 4, 1, 4, 1, 0x0, [⟨0, 32, .ro⟩]⟩,
  ⟨0x80098, 4, 1, 4, 1, 0x0, [⟨0, 32, .ro⟩]⟩,
  ⟨0x800A0, 8, 4, 4, 1, 0x0, [⟨0, 32, .rw⟩]⟩,
  ⟨0x800A4, 8, 4, 4, 1, 0x0, [⟨0, 32, .rw⟩]⟩,
  ⟨0x80100, 32, 8, 4, 1, 0x0, [⟨0, 2, .rw⟩, ⟨2, 1, .rw⟩, ⟨3, 1, .rw⟩, ⟨4, 1, .rw⟩]⟩,
  ⟨0x80104, 32, 8, 4, 1, 0x0, [⟨0, 32, .ro⟩]⟩,
  ⟨0x80200, 64, 4, 4, 1, 0x9A200, [⟨0, 1, .rw⟩, ⟨1, 1, .rw⟩, ⟨2, 1, .rw⟩, ⟨3, 1, .rw⟩, ⟨4, 1, .rw⟩, ⟨5, 1, .rw⟩, ⟨6, 6, .rw⟩, ⟨12, 8, .rw⟩]⟩,
  ⟨0x80204, 64, 4, 4, 1, 0x0, [⟨0, 32, .rw⟩]⟩,
  ⟨0x80208, 64, 4, 4, 1, 0x0, [⟨0, 32, .rw⟩]⟩,
  ⟨0x8020C, 64, 4, 4, 1, 0x0, [⟨0, 32, .rw⟩]⟩,
  ⟨0x80210, 64, 4, 4, 1, 0x0, [⟨0, 32, .rw⟩]⟩]

def rowsProof3 : List RegRow := [
  ⟨0x80214, 64, 4, 4, 1, 0x0, [⟨0, 32, .rw⟩]⟩,
  ⟨0x80218, 64, 4, 4, 1, 0x0, [⟨0, 32, .rw⟩]⟩,
  ⟨0x8021C, 64, 4, 4, 1, 0x800, [⟨0, 13, .rwc⟩]⟩,
  ⟨0x80220, 64, 4, 4, 1, 0x0, [⟨0, 16, .ro⟩, ⟨16, 16, .ro⟩]⟩,
  ⟨0x80224, 64, 4, 4, 1, 0x0, [⟨0, 32, .ro⟩]⟩,
  ⟨0x80228, 64, 4, 4, 1, 0x0, [⟨0, 32, .ro⟩]⟩,
  ⟨0x80400, 4, 32, 4, 1, 0x0, [⟨0, 32, .ro⟩]⟩,
  ⟨0x81000, 1024, 8, 4, 128, 0x0, [⟨0, 16, .rw⟩, ⟨16, 16, .rw⟩]⟩,
  ⟨0x81200, 1024, 8, 4, 1, 0x0, [⟨0, 16, .rw⟩]⟩]

/-- The register table of the PROOF block. -/
def rowsProof : List RegRow := rowsProof0 ++ rowsProof1 ++ rowsProof2 ++ rowsProof3

def rowsCam0 : List RegRow := [
  ⟨0x90000, 1024, 4, 4, 1, 0x24, [⟨0, 1, .rw⟩, ⟨1, 2, .rw⟩, ⟨3, 2, .rw⟩, ⟨5, 2, .rw⟩, ⟨7, 3, .rw⟩, ⟨10, 1, .rw⟩, ⟨11, 4, .rw⟩, ⟨15, 2, .rw⟩, ⟨17, 3, .rw⟩, ⟨20, 1, .rw⟩, ⟨21, 1, .rw⟩]⟩,
  ⟨0x90004, 1024, 4, 4, 1, 0x4002000, [⟨0, 14, .rw⟩, ⟨16, 16, .rw⟩]⟩,
  ⟨0x90008, 1024, 4, 4, 1, 0x0, [⟨0, 16, .rw⟩]⟩,
  ⟨0x9000C, 1024, 4, 4, 1, 0x186A0, [⟨0, 24, .rw⟩]⟩,
  ⟨0x90010, 1024, 4, 4, 1, 0x2190, [⟨0, 7, .rw⟩, ⟨7, 1, .rw⟩, ⟨8, 2, .rw⟩, ⟨12, 3, .rw⟩]⟩,
  ⟨0x90014, 1024, 4, 4, 1, 0x0, [⟨0, 32, .rw⟩]⟩,
  ⟨0x90018, 1024, 4, 4, 1, 0x0, [⟨0, 32, .rw⟩]⟩,
  ⟨0x9001C, 1024, 4, 4, 1, 0xC350, [⟨0, 24, .rw⟩]⟩,
  ⟨0x90020, 1024, 4, 4, 1, 0x0, [⟨0, 16, .rw⟩, ⟨16, 16, .rw⟩]⟩,
  ⟨0x90024, 1024, 4, 4, 1, 0x0, [⟨0, 16, .rw⟩, ⟨16, 16, .rw⟩]⟩,
  ⟨0x90028, 1024, 4, 4, 1, 0x10001000, [⟨0, 16, .rw⟩, ⟨16, 16, .rw⟩]⟩,
  ⟨0x9002C, 1024, 4, 4, 1, 0x10001000, [⟨0, 16, .rw⟩, ⟨16, 16, .rw⟩]⟩,
  ⟨0x90030, 1024, 4, 4, 1, 0x1000, [⟨0, 16, .rw⟩]⟩,
  ⟨0x90034, 1024, 4, 4, 1, 0x400, [⟨0, 16, .rw⟩]⟩,
  ⟨0x90040, 1024, 4, 4, 4, 0x0, [⟨0, 16, .rw⟩, ⟨16, 16, .rw⟩]⟩,
  ⟨0x90050, 1024, 4, 4, 1, 0x0, [⟨0, 16, .rw⟩]⟩,
  ⟨0x90060, 1024, 4, 4, 12, 0x0, [⟨0, 16, .rw⟩, ⟨16, 16, .rw⟩]⟩]

def rowsCam1 : List RegRow := [
  ⟨0x90090, 1024, 4, 4, 1, 0xFF03B040, [⟨0, 7, .rw⟩, ⟨8, 6, .rw⟩, ⟨14, 2, .rw⟩, ⟨16, 3, .rw⟩, ⟨24, 8, .rw⟩]⟩,
  ⟨0x90094, 1024, 4, 4, 1, 0x0, [⟨0, 32, .rw⟩]⟩,
  ⟨0x90098, 1024, 4, 4, 1, 0x0, [⟨0, 32, .rw⟩]⟩,
  ⟨0x9009C, 1024, 4, 4, 1, 0x0, [⟨0, 32, .rw⟩]⟩,
  ⟨0x900A0, 1024, 4, 4, 1, 0x0, [⟨0, 32, .ro⟩]⟩,
  ⟨0x900A4, 1024, 4, 4, 1, 0x0, [⟨0, 32, .rw⟩]⟩,
  ⟨0x900A8, 1024, 4, 4, 1, 0x0, [⟨0, 32, .ro⟩]⟩,
  ⟨0x900AC, 1024, 4, 4, 1, 0x100, [⟨0, 2, .rw⟩, ⟨2, 2, .rw⟩, ⟨8, 8, .rw⟩, ⟨16, 1, .ro⟩]⟩,
  ⟨0x900B0, 1024, 4, 4, 1, 0x0, [⟨0, 1, .ro⟩, ⟨1, 3, .ro⟩, ⟨4, 1, .ro⟩, ⟨5, 1, .ro⟩, ⟨6, 1, .ro⟩]⟩,
  ⟨0x900B4, 1024, 4, 4, 1, 0x0, [⟨0, 32, .ro⟩]⟩,
  ⟨0x900B8, 1024, 4, 4, 1, 0x0, [⟨0, 32, .rc⟩]⟩,
  ⟨0x900BC, 1024, 4, 4, 1, 0x0, [⟨0, 32, .rc⟩]⟩,
  ⟨0x900C0, 1024, 4, 4, 1, 0x0, [⟨0, 32, .ro⟩]⟩,
  ⟨0x900C4, 1024, 4, 4, 1, 0x0, [⟨0, 32, .ro⟩]⟩,
  ⟨0x900C8, 1024, 4, 4, 1, 0x0, [⟨0, 32, .ro⟩]⟩,
  ⟨0x900CC, 1024, 4, 4, 1, 0x0, [⟨0, 32, .ro⟩]⟩]

def rowsCam2 : List RegRow := [
  ⟨0x900D0, 1024, 4, 4, 1, 0x0, [⟨0, 32, .ro⟩]⟩,
  ⟨0x900D4, 1024, 4, 4, 1, 0x0, [⟨0, 32, .rc⟩]⟩,
  ⟨0x900D8, 1024, 4, 4, 1, 0x0, [⟨0, 32, .ro⟩]⟩,
  ⟨0x900DC, 1024, 4, 4, 1, 0x186A0, [⟨0, 24, .rw⟩]⟩]

/-- The register table of the CAM block. -/
def rowsCam : List RegRow := rowsCam0 ++ rowsCam1 ++ rowsCam2

def rowsQuill0 : List RegRow := [
  ⟨0xA0000, 4, 1, 4, 1, 0x0, [⟨0, 32, .rwc⟩]⟩,
  ⟨0xA0004, 4, 1, 4, 1, 0x0, [⟨0, 32, .ro⟩]⟩,
  ⟨0xA0008, 4, 1, 4, 1, 0x0, [⟨0, 32, .ro⟩]⟩,
  ⟨0xA000C, 4, 1, 4, 1, 0x0, [⟨0, 32, .ro⟩]⟩,
  ⟨0xA0010, 4, 1, 4, 1, 0x0, [⟨0, 32, .ro⟩]⟩,
  ⟨0xA0014, 4, 1, 4, 1, 0x0, [⟨0, 32, .ro⟩]⟩,
  ⟨0xA0018, 4, 1, 4, 1, 0x0, [⟨0, 32, .ro⟩]⟩,
  ⟨0xA001C, 4, 1, 4, 1, 0x10, [⟨0, 16, .rw⟩]⟩,
  ⟨0xA0020, 4, 1, 4, 1, 0x0, [⟨0, 7, .ro⟩, ⟨8, 7, .ro⟩, ⟨16, 7, .ro⟩]⟩,
  ⟨0xA0024, 4, 1, 4, 1, 0x27100, [⟨0, 18, .ro⟩]⟩,
  ⟨0xA0028, 4, 1, 4, 1, 0x64, [⟨0, 16, .rw⟩]⟩,
  ⟨0xA0100, 64, 64, 4, 1, 0x1F8, [⟨0, 1, .rw⟩, ⟨1, 2, .rw⟩, ⟨3, 6, .rwc⟩]⟩,
  ⟨0xA0104, 64, 64, 4, 1, 0x0, [⟨0, 3, .ro⟩, ⟨3, 2, .ro⟩, ⟨5, 1, .ro⟩, ⟨6, 1, .ro⟩, ⟨7, 2, .ro⟩, ⟨16, 8, .ro⟩]⟩,
  ⟨0xA0108, 64, 64, 4, 1, 0x6E62, [⟨0, 4, .ro⟩, ⟨4, 5, .ro⟩, ⟨9, 6, .ro⟩]⟩,
  ⟨0xA010C, 64, 64, 4, 1, 0x62, [⟨0, 4, .rw⟩, ⟨4, 5, .rw⟩]⟩,
  ⟨0xA0110, 64, 64, 4, 1, 0x0, [⟨0, 32, .rc⟩]⟩]

def rowsQuill1 : List RegRow := [
  ⟨0xA0114, 64, 64, 4, 1, 0x0, [⟨0, 32, .rc⟩]⟩,
  ⟨0xA0118, 64, 64, 4, 1, 0x0, [⟨0, 32, .ro⟩]⟩,
  ⟨0xA011C, 64, 64, 4, 1, 0x0, [⟨0, 32, .ro⟩]⟩,
  ⟨0xA0120, 64, 64, 4, 1, 0x3E80403, [⟨0, 2, .rw⟩, ⟨2, 1, .rw⟩, ⟨3, 1, .rw⟩, ⟨4, 3, .rw⟩, ⟨8, 2, .rw⟩, ⟨10, 4, .rw⟩, ⟨16, 16, .rw⟩]⟩,
  ⟨0xA0124, 64, 64, 4, 1, 0x0, [⟨0, 32, .rc⟩]⟩,
  ⟨0xA0128, 64, 64, 4, 1, 0x0, [⟨0, 32, .ro⟩]⟩,
  ⟨0xA012C, 64, 64, 4, 1, 0x0, [⟨0, 16, .ro⟩]⟩,
  ⟨0xA0130, 64, 64, 4, 1, 0x0, [⟨0, 1, .wo⟩]⟩,
  ⟨0xA1100, 4, 128, 4, 1, 0x0, [⟨0, 32, .rwc⟩]⟩]

/-- The register table of the QUILL block. -/
def rowsQuill : List RegRow := rowsQuill0 ++ rowsQuill1

def rowsHeads0 : List RegRow := [
  ⟨0xB0000, 4, 1, 4, 1, 0x1, [⟨0, 1, .rw⟩, ⟨1, 1, .rw⟩, ⟨2, 1, .rw⟩]⟩,
  ⟨0xB0004, 4, 1, 4, 1, 0x3C, [⟨0, 16, .rw⟩]⟩,
  ⟨0xB0008, 4, 1, 4, 1, 0x0, [⟨0, 32, .rw⟩]⟩,
  ⟨0xB000C, 4, 1, 4, 1, 0x0, [⟨0, 32, .rw⟩]⟩,
  ⟨0xB0010, 4, 1, 4, 1, 0x0, [⟨0, 32, .rw⟩]⟩,
  ⟨0xB0014, 4, 1, 4, 1, 0x0, [⟨0, 32, .rw⟩]⟩,
  ⟨0xB0018, 4, 1, 4, 1, 0x3C11, [⟨0, 4, .rw⟩, ⟨4, 4, .rw⟩, ⟨8, 7, .rw⟩]⟩,
  ⟨0xB001C, 4, 1, 4, 1, 0x9C40, [⟨0, 20, .rw⟩]⟩,
  ⟨0xB0020, 4, 1, 4, 1, 0x32, [⟨0, 16, .rw⟩]⟩,
  ⟨0xB0024, 4, 1, 4, 1, 0x0, [⟨0, 1, .ro⟩, ⟨8, 8, .ro⟩]⟩,
  ⟨0xB0028, 4, 1, 4, 1, 0x0, [⟨0, 32, .ro⟩]⟩,
  ⟨0xB002C, 4, 1, 4, 1, 0x0, [⟨0, 32, .ro⟩]⟩,
  ⟨0xB0030, 4, 1, 4, 1, 0x0, [⟨0, 11, .ro⟩, ⟨16, 11, .ro⟩]⟩,
  ⟨0xB0100, 16, 16, 4, 1, 0xDC00B40, [⟨0, 16, .rw⟩, ⟨16, 16, .rw⟩]⟩,
  ⟨0xB0104, 16, 16, 4, 1, 0x1400E80, [⟨0, 8, .rw⟩, ⟨8, 3, .rw⟩, ⟨11, 1, .rw⟩, ⟨16, 12, .rw⟩]⟩,
  ⟨0xB0200, 32, 8, 4, 1, 0x6000, [⟨0, 1, .rw⟩, ⟨1, 1, .rw⟩, ⟨2, 4, .rw⟩, ⟨8, 8, .rw⟩]⟩]

def rowsHeads1 : List RegRow := [
  ⟨0xB0204, 32, 8, 4, 1, 0x4B00708, [⟨0, 16, .rw⟩, ⟨16, 16, .rw⟩]⟩,
  ⟨0xB0208, 32, 8, 4, 1, 0x0, [⟨0, 12, .ro⟩, ⟨16, 16, .ro⟩]⟩,
  ⟨0xB020C, 32, 8, 4, 1, 0x0, [⟨0, 12, .ro⟩, ⟨16, 16, .ro⟩]⟩,
  ⟨0xB0400, 16, 16, 4, 1, 0x1400000, [⟨0, 1, .rw⟩, ⟨1, 1, .rw⟩, ⟨2, 1, .rw⟩, ⟨3, 10, .rw⟩, ⟨16, 12, .rw⟩]⟩,
  ⟨0xB0404, 16, 16, 4, 1, 0x3E88000, [⟨0, 16, .rw⟩, ⟨16, 16, .rw⟩]⟩,
  ⟨0xB0408, 16, 16, 4, 1, 0x0, [⟨0, 4, .rw⟩, ⟨8, 4, .rw⟩, ⟨16, 4, .rw⟩, ⟨24, 4, .rw⟩, ⟨4, 1, .rw⟩, ⟨12, 1, .rw⟩, ⟨20, 1, .rw⟩, ⟨28, 1, .rw⟩]⟩,
  ⟨0xB040C, 16, 16, 4, 1, 0x0, [⟨0, 16, .ro⟩, ⟨16, 1, .ro⟩, ⟨17, 1, .ro⟩, ⟨18, 1, .ro⟩]⟩,
  ⟨0xB0600, 4, 8, 4, 1, 0x0, [⟨0, 16, .ro⟩]⟩,
  ⟨0xB0800, 64, 8, 4, 16, 0x0, [⟨0, 16, .rw⟩, ⟨16, 16, .rw⟩]⟩,
  ⟨0xB1000, 4, 1024, 4, 1, 0x20000, [⟨0, 16, .ro⟩, ⟨16, 1, .ro⟩, ⟨17, 1, .ro⟩, ⟨18, 1, .ro⟩, ⟨19, 1, .ro⟩, ⟨20, 1, .ro⟩, ⟨21, 1, .ro⟩, ⟨22, 1, .ro⟩]⟩]

/-- The register table of the HEADS block. -/
def rowsHeads : List RegRow := rowsHeads0 ++ rowsHeads1

def rowsMem0 : List RegRow := [
  ⟨0xC0000, 4, 1, 4, 1, 0x180, [⟨0, 2, .rw⟩, ⟨2, 2, .rw⟩, ⟨4, 1, .rw⟩, ⟨5, 2, .rw⟩, ⟨7, 1, .rw⟩, ⟨8, 1, .rw⟩]⟩,
  ⟨0xC0004, 4, 1, 4, 1, 0x0, [⟨0, 9, .rw⟩]⟩,
  ⟨0xC0008, 4, 1, 4, 1, 0x9080706, [⟨0, 6, .rw⟩, ⟨8, 6, .rw⟩, ⟨16, 6, .rw⟩, ⟨24, 6, .rw⟩]⟩,
  ⟨0xC000C, 4, 1, 4, 1, 0xD0C0B0A, [⟨0, 6, .rw⟩, ⟨8, 6, .rw⟩, ⟨16, 6, .rw⟩, ⟨24, 6, .rw⟩]⟩,
  ⟨0xC0010, 8, 8, 4, 1, 0x0, [⟨0, 32, .rw⟩]⟩,
  ⟨0xC0014, 8, 8, 4, 1, 0x0, [⟨0, 7, .rw⟩]⟩,
  ⟨0xC0050, 4, 1, 4, 1, 0x0, [⟨0, 2, .ro⟩, ⟨4, 4, .ro⟩, ⟨8, 1, .ro⟩, ⟨9, 1, .ro⟩, ⟨16, 4, .ro⟩]⟩,
  ⟨0xC0054, 4, 1, 4, 1, 0x0, [⟨0, 10, .ro⟩]⟩,
  ⟨0xC0058, 4, 1, 4, 1, 0xA, [⟨0, 6, .rw⟩]⟩,
  ⟨0xC005C, 4, 1, 4, 1, 0x10, [⟨0, 8, .rw⟩]⟩,
  ⟨0xC0060, 4, 1, 4, 1, 0x3E8, [⟨0, 16, .rw⟩]⟩,
  ⟨0xC0064, 4, 1, 4, 1, 0x18, [⟨0, 8, .rw⟩]⟩,
  ⟨0xC0068, 4, 1, 4, 1, 0x1002, [⟨0, 4, .rw⟩, ⟨8, 8, .rw⟩, ⟨16, 16, .rw⟩]⟩,
  ⟨0xC0070, 4, 1, 4, 1, 0x0, [⟨0, 32, .rc⟩]⟩,
  ⟨0xC0074, 4, 1, 4, 1, 0x0, [⟨0, 32, .ro⟩]⟩,
  ⟨0xC0078, 4, 1, 4, 1, 0x0, [⟨0, 32, .ro⟩]⟩]

def rowsMem1 : List RegRow := [
  ⟨0xC007C, 4, 1, 4, 1, 0x0, [⟨0, 32, .ro⟩]⟩,
  ⟨0xC0080, 4, 1, 4, 1, 0x0, [⟨0, 32, .ro⟩]⟩,
  ⟨0xC0084, 4, 1, 4, 1, 0x0, [⟨0, 32, .ro⟩]⟩,
  ⟨0xC0088, 4, 1, 4, 1, 0x0, [⟨0, 32, .ro⟩]⟩,
  ⟨0xC008C, 4, 1, 4, 1, 0x0, [⟨0, 32, .ro⟩]⟩,
  ⟨0xC0090, 4, 1, 4, 1, 0x0, [⟨0, 2, .rw⟩, ⟨2, 2, .rw⟩, ⟨4, 2, .rw⟩, ⟨6, 1, .rw⟩]⟩,
  ⟨0xC0094, 4, 1, 4, 1, 0x0, [⟨0, 32, .rc⟩]⟩,
  ⟨0xC0100, 32, 16, 4, 1, 0x0, [⟨0, 3, .ro⟩, ⟨3, 1, .ro⟩, ⟨4, 2, .ro⟩, ⟨8, 3, .ro⟩]⟩,
  ⟨0xC0104, 32, 16, 4, 1, 0x0, [⟨0, 32, .rc⟩]⟩,
  ⟨0xC0108, 32, 16, 4, 1, 0x0, [⟨0, 32, .ro⟩]⟩,
  ⟨0xC010C, 32, 16, 4, 1, 0x0, [⟨0, 32, .ro⟩]⟩,
  ⟨0xC0110, 32, 16, 4, 1, 0x0, [⟨0, 7, .ro⟩]⟩,
  ⟨0xC0114, 32, 16, 4, 1, 0x0, [⟨0, 16, .ro⟩]⟩,
  ⟨0xC0118, 32, 16, 4, 1, 0x0, [⟨0, 16, .ro⟩]⟩,
  ⟨0xC011C, 32, 16, 4, 1, 0x0, [⟨0, 32, .ro⟩]⟩]

/-- The register table of the MEM block. -/
def rowsMem : List RegRow := rowsMem0 ++ rowsMem1

def rowsDma0 : List RegRow := [
  ⟨0xD0000, 4, 1, 4, 1, 0x0, [⟨0, 16, .ro⟩, ⟨16, 16, .ro⟩]⟩,
  ⟨0xD0004, 4, 1, 4, 1, 0x0, [⟨0, 4, .ro⟩, ⟨4, 1, .ro⟩]⟩,
  ⟨0xD0008, 4, 1, 4, 1, 0x0, [⟨0, 16, .w1s⟩]⟩,
  ⟨0xD000C, 4, 1, 4, 1, 0x0, [⟨0, 6, .rw⟩, ⟨6, 1, .rw⟩]⟩,
  ⟨0xD0010, 4, 1, 4, 1, 0x0, [⟨0, 16, .w1c⟩, ⟨16, 16, .w1c⟩]⟩,
  ⟨0xD0014, 4, 1, 4, 1, 0x0, [⟨0, 16, .w1c⟩]⟩,
  ⟨0xD0018, 4, 1, 4, 1, 0x0, [⟨0, 32, .ro⟩]⟩,
  ⟨0xD001C, 4, 1, 4, 1, 0x0, [⟨0, 32, .rc⟩]⟩,
  ⟨0xD0100, 64, 16, 4, 1, 0x0, [⟨0, 3, .ro⟩, ⟨3, 1, .ro⟩, ⟨4, 1, .ro⟩, ⟨5, 1, .ro⟩, ⟨6, 1, .ro⟩, ⟨8, 8, .ro⟩, ⟨16, 2, .ro⟩]⟩,
  ⟨0xD0104, 64, 16, 4, 1, 0x0, [⟨0, 32, .ro⟩]⟩,
  ⟨0xD0108, 64, 16, 4, 1, 0x0, [⟨0, 32, .ro⟩]⟩,
  ⟨0xD010C, 64, 16, 4, 1, 0x0, [⟨0, 32, .ro⟩]⟩,
  ⟨0xD0110, 64, 16, 4, 1, 0x0, [⟨0, 32, .ro⟩]⟩,
  ⟨0xD0114, 64, 16, 4, 1, 0x0, [⟨0, 16, .ro⟩]⟩,
  ⟨0xD0118, 64, 16, 4, 1, 0x0, [⟨0, 32, .wo⟩]⟩,
  ⟨0xD011C, 64, 16, 4, 1, 0x0, [⟨0, 32, .wo⟩]⟩]

def rowsDma1 : List RegRow := [
  ⟨0xD0120, 64, 16, 4, 1, 0x0, [⟨0, 32, .ro⟩]⟩,
  ⟨0xD0124, 64, 16, 4, 1, 0x0, [⟨0, 32, .ro⟩]⟩,
  ⟨0xD0128, 64, 16, 4, 1, 0x0, [⟨0, 32, .ro⟩]⟩]

/-- The register table of the DMA block. -/
def rowsDma : List RegRow := rowsDma0 ++ rowsDma1

def rowsEvz0 : List RegRow := [
  ⟨0xE0000, 4, 1, 4, 1, 0x0, [⟨0, 2, .ro⟩, ⟨2, 1, .ro⟩, ⟨4, 4, .ro⟩, ⟨8, 4, .ro⟩]⟩,
  ⟨0xE0004, 4, 1, 4, 1, 0x0, [⟨0, 32, .ro⟩]⟩,
  ⟨0xE0008, 4, 1, 4, 1, 0x0, [⟨0, 32, .ro⟩]⟩,
  ⟨0xE000C, 4, 1, 4, 1, 0x0, [⟨0, 32, .ro⟩]⟩,
  ⟨0xE0010, 4, 1, 4, 1, 0x0, [⟨0, 32, .ro⟩]⟩,
  ⟨0xE0014, 4, 1, 4, 1, 0x0, [⟨0, 32, .ro⟩]⟩,
  ⟨0xE0018, 4, 1, 4, 1, 0x0, [⟨0, 32, .ro⟩]⟩,
  ⟨0xE001C, 4, 1, 4, 1, 0x0, [⟨0, 32, .ro⟩]⟩]

/-- The register table of the EVZ block. -/
def rowsEvz : List RegRow := rowsEvz0

def rowsTime0 : List RegRow := [
  ⟨0xF0000, 4, 1, 4, 1, 0x2, [⟨0, 1, .rw⟩, ⟨1, 1, .rw⟩, ⟨2, 2, .ro⟩]⟩,
  ⟨0xF0004, 4, 1, 4, 1, 0xA, [⟨0, 8, .ro⟩]⟩,
  ⟨0xF0008, 4, 1, 4, 1, 0x0, [⟨0, 32, .ro⟩]⟩,
  ⟨0xF000C, 4, 1, 4, 1, 0x0, [⟨0, 32, .ro⟩]⟩,
  ⟨0xF0010, 4, 1, 4, 1, 0x0, [⟨0, 32, .ro⟩]⟩,
  ⟨0xF0014, 4, 1, 4, 1, 0x4D00B3, [⟨0, 16, .rw⟩, ⟨16, 16, .rw⟩]⟩,
  ⟨0xF0018, 4, 1, 4, 1, 0x7A120, [⟨0, 20, .rw⟩]⟩,
  ⟨0xF001C, 4, 1, 4, 1, 0x64, [⟨0, 16, .rw⟩]⟩,
  ⟨0xF0020, 4, 1, 4, 1, 0x186A0, [⟨0, 32, .rw⟩]⟩,
  ⟨0xF0024, 4, 1, 4, 1, 0x0, [⟨0, 2, .ro⟩]⟩,
  ⟨0xF0028, 4, 1, 4, 1, 0x0, [⟨0, 32, .ro⟩]⟩,
  ⟨0xF002C, 4, 1, 4, 1, 0x0, [⟨0, 32, .ro⟩]⟩,
  ⟨0xF0030, 4, 1, 4, 1, 0x0, [⟨0, 32, .ro⟩]⟩,
  ⟨0xF0034, 4, 1, 4, 1, 0x0, [⟨0, 32, .ro⟩]⟩,
  ⟨0xF0038, 4, 1, 4, 1, 0x7D0, [⟨0, 16, .rw⟩]⟩,
  ⟨0xF0080, 4, 1, 4, 1, 0xF8808000, [⟨0, 8, .rw⟩, ⟨8, 8, .rw⟩, ⟨16, 8, .rw⟩, ⟨24, 8, .rw⟩]⟩]

def rowsTime1 : List RegRow := [
  ⟨0xF0084, 4, 1, 4, 1, 0x1, [⟨0, 1, .rw⟩, ⟨1, 2, .ro⟩]⟩,
  ⟨0xF0100, 128, 2, 4, 1, 0x44, [⟨0, 1, .rw⟩, ⟨1, 1, .rw⟩, ⟨2, 1, .rw⟩, ⟨3, 2, .rw⟩, ⟨5, 1, .rw⟩, ⟨6, 1, .rw⟩, ⟨7, 1, .rw⟩, ⟨8, 12, .rw⟩]⟩,
  ⟨0xF0104, 128, 2, 4, 1, 0x10, [⟨0, 1, .ro⟩, ⟨1, 1, .ro⟩, ⟨4, 4, .ro⟩]⟩,
  ⟨0xF0108, 128, 2, 4, 1, 0x0, [⟨0, 32, .rw⟩]⟩,
  ⟨0xF010C, 128, 2, 4, 1, 0x0, [⟨0, 16, .rw⟩]⟩,
  ⟨0xF0110, 128, 2, 4, 1, 0x0, [⟨0, 32, .rw⟩]⟩,
  ⟨0xF0114, 128, 2, 4, 4, 0x0, [⟨0, 32, .rw⟩]⟩,
  ⟨0xF0124, 128, 2, 4, 1, 0x0, [⟨0, 32, .rw⟩]⟩,
  ⟨0xF0128, 128, 2, 4, 1, 0x0, [⟨0, 32, .rw⟩]⟩,
  ⟨0xF012C, 128, 2, 4, 1, 0x30100FD, [⟨0, 8, .rw⟩, ⟨8, 8, .rw⟩, ⟨16, 8, .rw⟩, ⟨24, 4, .rw⟩]⟩,
  ⟨0xF0130, 128, 2, 4, 1, 0x0, [⟨0, 32, .ro⟩]⟩,
  ⟨0xF0134, 128, 2, 4, 1, 0x0, [⟨0, 32, .ro⟩]⟩,
  ⟨0xF0138, 128, 2, 4, 1, 0x0, [⟨0, 32, .ro⟩]⟩,
  ⟨0xF013C, 128, 2, 4, 1, 0x0, [⟨0, 32, .ro⟩]⟩,
  ⟨0xF0140, 128, 2, 4, 1, 0x0, [⟨0, 32, .ro⟩]⟩,
  ⟨0xF0144, 128, 2, 4, 1, 0x0, [⟨0, 32, .rc⟩]⟩]

/-- The register table of the TIME block. -/
def rowsTime : List RegRow := rowsTime0 ++ rowsTime1

def rowsCrew0 : List RegRow := [
  ⟨0x100000, 4, 1, 4, 1, 0x20, [⟨0, 2, .ro⟩, ⟨2, 3, .ro⟩, ⟨5, 1, .rw⟩, ⟨6, 1, .rwc⟩, ⟨8, 2, .rwc⟩, ⟨10, 1, .rwc⟩, ⟨12, 2, .rwc⟩, ⟨14, 1, .rwc⟩]⟩,
  ⟨0x100004, 4, 1, 4, 1, 0x0, [⟨0, 1, .ro⟩, ⟨1, 1, .ro⟩, ⟨2, 1, .ro⟩, ⟨3, 1, .ro⟩, ⟨4, 4, .ro⟩]⟩,
  ⟨0x100008, 4, 1, 4, 1, 0x190, [⟨0, 11, .rw⟩]⟩,
  ⟨0x10000C, 4, 1, 4, 1, 0x0, [⟨0, 32, .ro⟩]⟩,
  ⟨0x100010, 4, 1, 4, 1, 0x0, [⟨0, 32, .ro⟩]⟩,
  ⟨0x100014, 4, 1, 4, 1, 0x0, [⟨0, 32, .ro⟩]⟩,
  ⟨0x100018, 4, 1, 4, 1, 0x0, [⟨0, 32, .ro⟩]⟩,
  ⟨0x10001C, 4, 1, 4, 1, 0x0, [⟨0, 32, .ro⟩]⟩,
  ⟨0x100020, 4, 1, 4, 1, 0x0, [⟨0, 32, .ro⟩]⟩,
  ⟨0x100024, 4, 1, 4, 1, 0x0, [⟨0, 32, .ro⟩]⟩,
  ⟨0x100100, 32, 4, 4, 1, 0x0, [⟨0, 3, .ro⟩, ⟨4, 2, .ro⟩, ⟨6, 1, .ro⟩]⟩,
  ⟨0x100104, 32, 4, 4, 1, 0x0, [⟨0, 16, .ro⟩]⟩,
  ⟨0x100108, 32, 4, 4, 1, 0x0, [⟨0, 32, .rc⟩]⟩,
  ⟨0x10010C, 32, 4, 4, 1, 0x0, [⟨0, 32, .ro⟩]⟩]

/-- The register table of the CREW block. -/
def rowsCrew : List RegRow := rowsCrew0

def rowsUmpire0 : List RegRow := [
  ⟨0x110000, 4, 1, 4, 1, 0x3C01, [⟨0, 1, .rw⟩, ⟨8, 8, .rw⟩]⟩,
  ⟨0x110004, 4, 1, 4, 1, 0x0, [⟨0, 2, .ro⟩, ⟨2, 1, .ro⟩, ⟨3, 1, .ro⟩, ⟨4, 1, .ro⟩, ⟨5, 1, .ro⟩, ⟨8, 8, .ro⟩]⟩,
  ⟨0x110008, 4, 1, 4, 1, 0x0, [⟨0, 18, .ro⟩]⟩,
  ⟨0x11000C, 4, 1, 4, 1, 0x0, [⟨0, 2, .ro⟩]⟩,
  ⟨0x110010, 4, 1, 4, 1, 0x0, [⟨0, 32, .ro⟩]⟩,
  ⟨0x110014, 4, 1, 4, 1, 0x0, [⟨0, 32, .ro⟩]⟩,
  ⟨0x110018, 4, 1, 4, 1, 0x0, [⟨0, 16, .ro⟩]⟩,
  ⟨0x11001C, 4, 1, 4, 1, 0x0, [⟨0, 32, .ro⟩]⟩,
  ⟨0x110020, 4, 1, 4, 1, 0x0, [⟨0, 32, .ro⟩]⟩,
  ⟨0x110024, 4, 1, 4, 1, 0x0, [⟨0, 32, .ro⟩]⟩,
  ⟨0x110028, 4, 1, 4, 1, 0x0, [⟨0, 8, .ro⟩, ⟨8, 8, .ro⟩, ⟨16, 8, .ro⟩]⟩,
  ⟨0x11002C, 4, 1, 4, 1, 0x0, [⟨0, 32, .ro⟩]⟩,
  ⟨0x110030, 4, 1, 4, 1, 0x0, [⟨0, 16, .ro⟩]⟩,
  ⟨0x110034, 4, 1, 4, 1, 0x0, [⟨0, 2, .ro⟩, ⟨8, 5, .ro⟩]⟩,
  ⟨0x110038, 4, 1, 4, 1, 0x0, [⟨0, 11, .ro⟩]⟩,
  ⟨0x11003C, 4, 1, 4, 1, 0x0, [⟨0, 11, .rw⟩]⟩]

def rowsUmpire1 : List RegRow := [
  ⟨0x110040, 4, 1, 4, 1, 0x0, [⟨0, 32, .ro⟩]⟩,
  ⟨0x110044, 4, 1, 4, 1, 0x0, [⟨0, 32, .ro⟩]⟩,
  ⟨0x110060, 4, 8, 4, 1, 0x0, [⟨0, 32, .ro⟩]⟩,
  ⟨0x110080, 4, 18, 4, 1, 0x0, [⟨0, 32, .ro⟩]⟩]

/-- The register table of the UMPIRE block. -/
def rowsUmpire : List RegRow := rowsUmpire0 ++ rowsUmpire1

def rowsLog0 : List RegRow := [
  ⟨0x120000, 4, 1, 4, 1, 0xA0, [⟨0, 1, .ro⟩, ⟨1, 1, .ro⟩, ⟨2, 1, .rw⟩, ⟨4, 4, .rw⟩]⟩,
  ⟨0x120004, 4, 1, 4, 1, 0x0, [⟨0, 32, .rw⟩]⟩,
  ⟨0x120008, 4, 1, 4, 1, 0x0, [⟨0, 32, .rw⟩]⟩,
  ⟨0x12000C, 4, 1, 4, 1, 0x10, [⟨0, 13, .rw⟩]⟩,
  ⟨0x120010, 4, 1, 4, 1, 0x0, [⟨0, 32, .ro⟩]⟩,
  ⟨0x120014, 4, 1, 4, 1, 0x0, [⟨0, 32, .ro⟩]⟩,
  ⟨0x120018, 4, 1, 4, 1, 0x0, [⟨0, 32, .ro⟩]⟩,
  ⟨0x12001C, 4, 1, 4, 1, 0x0, [⟨0, 32, .ro⟩]⟩,
  ⟨0x120020, 4, 1, 4, 1, 0x0, [⟨0, 32, .ro⟩]⟩,
  ⟨0x120024, 4, 1, 4, 1, 0x0, [⟨0, 32, .ro⟩]⟩,
  ⟨0x120028, 4, 1, 4, 1, 0x0, [⟨0, 16, .ro⟩]⟩,
  ⟨0x120040, 4, 1, 4, 1, 0x0, [⟨0, 1, .rw⟩, ⟨1, 1, .rw⟩]⟩,
  ⟨0x120044, 4, 1, 4, 1, 0x0, [⟨0, 2, .ro⟩, ⟨8, 8, .ro⟩, ⟨16, 8, .ro⟩]⟩,
  ⟨0x120048, 4, 1, 4, 1, 0x0, [⟨0, 32, .ro⟩]⟩,
  ⟨0x12004C, 4, 1, 4, 1, 0x0, [⟨0, 32, .ro⟩]⟩,
  ⟨0x120050, 4, 1, 4, 1, 0x0, [⟨0, 32, .ro⟩]⟩]

def rowsLog1 : List RegRow := [
  ⟨0x120054, 4, 1, 4, 1, 0x0, [⟨0, 32, .ro⟩]⟩,
  ⟨0x120058, 4, 1, 4, 1, 0x0, [⟨0, 32, .ro⟩]⟩,
  ⟨0x12005C, 4, 1, 4, 1, 0x0, [⟨0, 16, .ro⟩]⟩,
  ⟨0x120060, 4, 1, 4, 1, 0x0, [⟨0, 16, .ro⟩]⟩,
  ⟨0x120064, 4, 1, 4, 1, 0x0, [⟨0, 32, .ro⟩]⟩,
  ⟨0x120800, 4, 1, 4, 1, 0x3000, [⟨0, 4, .rw⟩, ⟨4, 4, .rw⟩, ⟨8, 2, .rw⟩, ⟨10, 1, .rw⟩, ⟨11, 1, .rw⟩, ⟨12, 2, .rw⟩]⟩,
  ⟨0x120804, 4, 1, 4, 1, 0x10000, [⟨0, 24, .rw⟩]⟩,
  ⟨0x120808, 4, 1, 4, 1, 0x0, [⟨0, 32, .rc⟩]⟩,
  ⟨0x12080C, 4, 1, 4, 1, 0x0, [⟨0, 1, .ro⟩, ⟨1, 1, .ro⟩]⟩]

/-- The register table of the LOG block. -/
def rowsLog : List RegRow := rowsLog0 ++ rowsLog1

def rowsPerf0 : List RegRow := [
  ⟨0x130000, 4, 8, 4, 1, 0x0, [⟨0, 32, .rw⟩]⟩,
  ⟨0x130020, 4, 1, 4, 1, 0x0, [⟨0, 1, .wo⟩]⟩,
  ⟨0x130024, 4, 1, 4, 1, 0x0, [⟨0, 32, .ro⟩]⟩,
  ⟨0x130400, 4, 256, 4, 1, 0x0, [⟨0, 32, .ro⟩]⟩,
  ⟨0x131000, 4, 256, 4, 1, 0x0, [⟨0, 32, .ro⟩]⟩]

/-- The register table of the PERF block. -/
def rowsPerf : List RegRow := rowsPerf0

def rowsPwr0 : List RegRow := [
  ⟨0x140000, 4, 1, 4, 1, 0x1, [⟨0, 4, .ro⟩, ⟨8, 1, .ro⟩, ⟨9, 1, .ro⟩]⟩,
  ⟨0x140004, 4, 1, 4, 1, 0x0, [⟨0, 2, .ro⟩, ⟨2, 2, .ro⟩, ⟨4, 3, .ro⟩, ⟨8, 8, .ro⟩]⟩,
  ⟨0x140008, 4, 1, 4, 1, 0x0, [⟨0, 32, .ro⟩]⟩,
  ⟨0x14000C, 4, 1, 4, 1, 0x0, [⟨0, 32, .rw⟩]⟩,
  ⟨0x140010, 4, 1, 4, 1, 0x0, [⟨0, 32, .rw⟩]⟩,
  ⟨0x140014, 4, 1, 4, 1, 0x0, [⟨0, 25, .rw⟩]⟩,
  ⟨0x140018, 4, 1, 4, 1, 0x0, [⟨0, 1, .wo⟩]⟩,
  ⟨0x140020, 4, 1, 4, 1, 0xAA824650, [⟨0, 1, .rw⟩, ⟨1, 7, .rw⟩, ⟨8, 7, .rw⟩, ⟨16, 8, .rw⟩, ⟨24, 8, .rw⟩]⟩,
  ⟨0x140024, 4, 1, 4, 1, 0x2EE, [⟨0, 10, .ro⟩, ⟨10, 1, .ro⟩, ⟨11, 1, .ro⟩, ⟨12, 1, .ro⟩]⟩,
  ⟨0x140028, 4, 1, 4, 1, 0x0, [⟨0, 16, .ro⟩]⟩,
  ⟨0x14002C, 4, 1, 4, 1, 0x1400000, [⟨0, 20, .ro⟩, ⟨20, 8, .rw⟩]⟩,
  ⟨0x140030, 4, 1, 4, 1, 0x0, [⟨0, 32, .ro⟩]⟩,
  ⟨0x140040, 4, 1, 4, 1, 0xC01900, [⟨0, 16, .rw⟩, ⟨16, 8, .rw⟩]⟩,
  ⟨0x140044, 4, 1, 4, 1, 0x0, [⟨0, 16, .ro⟩, ⟨16, 8, .ro⟩, ⟨24, 1, .ro⟩]⟩,
  ⟨0x140048, 4, 1, 4, 1, 0x0, [⟨0, 32, .ro⟩]⟩,
  ⟨0x140050, 4, 1, 4, 1, 0x70000, [⟨0, 8, .ro⟩, ⟨8, 8, .ro⟩, ⟨16, 1, .ro⟩, ⟨17, 1, .ro⟩, ⟨18, 1, .ro⟩]⟩]

def rowsPwr1 : List RegRow := [
  ⟨0x140054, 4, 1, 4, 1, 0x0, [⟨0, 4, .ro⟩, ⟨16, 16, .ro⟩]⟩]

/-- The register table of the PWR block. -/
def rowsPwr : List RegRow := rowsPwr0 ++ rowsPwr1

def rowsLegacy0 : List RegRow := [
  ⟨0x150000, 4, 1, 4, 1, 0x1000, [⟨0, 1, .rw⟩, ⟨8, 7, .rw⟩]⟩,
  ⟨0x150004, 4, 1, 4, 1, 0x0, [⟨0, 1, .ro⟩, ⟨1, 1, .ro⟩, ⟨2, 1, .ro⟩]⟩,
  ⟨0x150008, 4, 1, 4, 1, 0x3E8, [⟨0, 16, .rw⟩]⟩,
  ⟨0x15000C, 4, 1, 4, 1, 0x0, [⟨0, 32, .rw⟩]⟩,
  ⟨0x150010, 4, 1, 4, 1, 0x0, [⟨0, 32, .rw⟩]⟩,
  ⟨0x150014, 4, 1, 4, 1, 0xFFAA55, [⟨0, 8, .rw⟩, ⟨8, 8, .rw⟩, ⟨16, 8, .rw⟩]⟩,
  ⟨0x150018, 4, 1, 4, 1, 0x0, [⟨0, 32, .rc⟩]⟩,
  ⟨0x15001C, 4, 1, 4, 1, 0x0, [⟨0, 32, .rc⟩]⟩,
  ⟨0x150020, 4, 1, 4, 1, 0x0, [⟨0, 32, .rc⟩]⟩,
  ⟨0x150024, 4, 1, 4, 1, 0x0, [⟨0, 32, .ro⟩]⟩,
  ⟨0x150100, 64, 8, 4, 1, 0xFFFF0000, [⟨0, 1, .ro⟩, ⟨16, 16, .ro⟩]⟩,
  ⟨0x150104, 64, 8, 4, 1, 0x0, [⟨0, 17, .ro⟩]⟩,
  ⟨0x150108, 64, 8, 4, 1, 0x0, [⟨0, 16, .ro⟩]⟩,
  ⟨0x15010C, 64, 8, 4, 1, 0x20000, [⟨0, 2, .ro⟩, ⟨2, 4, .ro⟩, ⟨6, 1, .ro⟩, ⟨8, 8, .ro⟩, ⟨16, 1, .ro⟩, ⟨17, 1, .ro⟩]⟩,
  ⟨0x150110, 64, 8, 4, 1, 0x4, [⟨0, 8, .ro⟩]⟩,
  ⟨0x150114, 64, 8, 4, 1, 0x10000, [⟨0, 32, .ro⟩]⟩]

def rowsLegacy1 : List RegRow := [
  ⟨0x150118, 64, 8, 4, 1, 0x0, [⟨0, 16, .ro⟩, ⟨16, 1, .ro⟩]⟩,
  ⟨0x15011C, 64, 8, 4, 1, 0x0, [⟨0, 32, .ro⟩]⟩,
  ⟨0x150120, 64, 8, 4, 1, 0x0, [⟨0, 32, .ro⟩]⟩,
  ⟨0x150124, 64, 8, 4, 1, 0x0, [⟨0, 32, .ro⟩]⟩,
  ⟨0x150128, 64, 8, 4, 1, 0x0, [⟨0, 32, .ro⟩]⟩,
  ⟨0x15012C, 64, 8, 4, 4, 0x0, [⟨0, 24, .ro⟩]⟩]

/-- The register table of the LEGACY block. -/
def rowsLegacy : List RegRow := rowsLegacy0 ++ rowsLegacy1

/-- The register rows of a 64 KiB block of BAR0 (spec/21_register_map.md R547). -/
def blockRows : Nat → List RegRow
  | 0 => rowsDev
  | 1 => rowsCmdq
  | 2 => rowsWeb
  | 3 => rowsFire
  | 4 => rowsLayer
  | 5 => rowsScale
  | 6 => rowsScreen
  | 7 => rowsNib
  | 8 => rowsProof
  | 9 => rowsCam
  | 10 => rowsQuill
  | 11 => rowsHeads
  | 12 => rowsMem
  | 13 => rowsDma
  | 14 => rowsEvz
  | 15 => rowsTime
  | 16 => rowsCrew
  | 17 => rowsUmpire
  | 18 => rowsLog
  | 19 => rowsPerf
  | 20 => rowsPwr
  | 21 => rowsLegacy
  | _ => []

def rowsWide0 : List RegRow := [
  ⟨0x20004, 256, 4, 4, 1, 0, []⟩,
  ⟨0x2000C, 256, 4, 4, 1, 0, []⟩,
  ⟨0x20014, 256, 4, 4, 1, 0, []⟩,
  ⟨0x20808, 4, 1, 4, 1, 0, []⟩,
  ⟨0x2081C, 4, 1, 4, 1, 0, []⟩,
  ⟨0x20830, 4, 1, 4, 1, 0, []⟩,
  ⟨0x21004, 64, 16, 4, 1, 0, []⟩,
  ⟨0x3000C, 64, 16, 4, 1, 0, []⟩,
  ⟨0x30014, 64, 16, 4, 1, 0, []⟩,
  ⟨0x4000C, 4, 1, 4, 1, 0, []⟩,
  ⟨0x4002C, 4, 1, 4, 1, 0, []⟩,
  ⟨0x40040, 4, 1, 4, 1, 0, []⟩,
  ⟨0x40110, 64, 8, 4, 1, 0, []⟩,
  ⟨0x4040C, 32, 64, 4, 1, 0, []⟩,
  ⟨0x5000C, 4, 1, 4, 1, 0, []⟩,
  ⟨0x50014, 4, 1, 4, 1, 0, []⟩]

def rowsWide1 : List RegRow := [
  ⟨0x60020, 8, 4, 4, 1, 0, []⟩,
  ⟨0x80028, 4, 1, 4, 1, 0, []⟩,
  ⟨0x80030, 4, 1, 4, 1, 0, []⟩,
  ⟨0x80038, 4, 1, 4, 1, 0, []⟩,
  ⟨0x8004C, 4, 1, 4, 1, 0, []⟩,
  ⟨0x80060, 4, 1, 4, 1, 0, []⟩,
  ⟨0x800A0, 8, 4, 4, 1, 0, []⟩,
  ⟨0x80204, 64, 4, 4, 1, 0, []⟩,
  ⟨0x8020C, 64, 4, 4, 1, 0, []⟩,
  ⟨0x90094, 1024, 4, 4, 1, 0, []⟩,
  ⟨0xA0004, 4, 1, 4, 1, 0, []⟩,
  ⟨0xA000C, 4, 1, 4, 1, 0, []⟩,
  ⟨0xA0014, 4, 1, 4, 1, 0, []⟩,
  ⟨0xB0008, 4, 1, 4, 1, 0, []⟩,
  ⟨0xB0010, 4, 1, 4, 1, 0, []⟩,
  ⟨0xC0010, 8, 8, 4, 1, 0, []⟩]

def rowsWide2 : List RegRow := [
  ⟨0xC010C, 32, 16, 4, 1, 0, []⟩,
  ⟨0x10014, 4, 1, 4, 1, 0, []⟩,
  ⟨0x10040, 4, 1, 4, 1, 0, []⟩,
  ⟨0x10058, 4, 1, 4, 1, 0, []⟩,
  ⟨0x10100, 32, 8, 4, 1, 0, []⟩,
  ⟨0x10200, 32, 8, 4, 1, 0, []⟩,
  ⟨0x15000C, 4, 1, 4, 1, 0, []⟩,
  ⟨0xD0104, 64, 16, 4, 1, 0, []⟩,
  ⟨0xD0118, 64, 16, 4, 1, 0, []⟩,
  ⟨0xD0124, 64, 16, 4, 1, 0, []⟩,
  ⟨0xE0004, 4, 1, 4, 1, 0, []⟩,
  ⟨0xE000C, 4, 1, 4, 1, 0, []⟩,
  ⟨0xF000C, 4, 1, 4, 1, 0, []⟩,
  ⟨0xF0108, 128, 2, 4, 1, 0, []⟩,
  ⟨0xF0134, 128, 2, 4, 1, 0, []⟩,
  ⟨0x110010, 4, 1, 4, 1, 0, []⟩]

def rowsWide3 : List RegRow := [
  ⟨0x120004, 4, 1, 4, 1, 0, []⟩,
  ⟨0x120048, 4, 1, 4, 1, 0, []⟩,
  ⟨0x120058, 4, 1, 4, 1, 0, []⟩,
  ⟨0x14000C, 4, 1, 4, 1, 0, []⟩,
  ⟨0x4, 4, 1, 4, 1, 0, []⟩,
  ⟨0x2C, 4, 1, 4, 1, 0, []⟩,
  ⟨0x34, 4, 1, 4, 1, 0, []⟩]

/-- The _LO words of the 64-bit registers; each has its _HI word 4 bytes above. -/
def rowsWide : List RegRow := rowsWide0 ++ rowsWide1 ++ rowsWide2 ++ rowsWide3

/-- The row holds the register at the offset. -/
def RegRow.covers (r : RegRow) (off : Nat) : Bool :=
  r.base ≤ off &&
    (let d := off - r.base
     d / r.stride < r.count && (d % r.stride) % r.stride2 == 0 && (d % r.stride) / r.stride2 < r.count2)

/-- The first row of the list that holds the register at the offset. -/
def findRow (off : Nat) : List RegRow → Option RegRow
  | [] => none
  | r :: rs => if r.covers off then some r else findRow off rs

/-- The table row of a BAR0 offset; none where the offset is reserved (R547). -/
def regRow (off : Nat) : Option RegRow := findRow off (blockRows (off / 0x10000))

/-- The offset is that of a _LO word (spec/21_register_map.md R550). -/
def isLo (off : Nat) : Bool := (findRow off rowsWide).isSome

/-- Reset values that depend on the register's index: the coefficients (spec/05_scaling_and_colour.md R145), the
slice bounds and nib states (spec/07_run_ahead_pipeline.md R208), the identity colour matrix
(spec/09_inspection_cameras.md R264) and the home bits (spec/12_memory.md R346). -/
def indexedReset (off : Nat) : Option Nat :=
  if 0x51000 ≤ off && off < 0x51400 then some (if off % 16 == 4 then 0x40000000 else 0)
  else if 0x51400 ≤ off && off < 0x51700 then some (if (off - 0x51400) % 12 == 4 then 0x4000 else 0)
  else if 0x70100 ≤ off && off ≤ 0x70140 then some ((off - 0x70100) / 4 * 8192)
  else if 0x70400 ≤ off && off < 0x70640 && (off - 0x70400) % 0x20 == 0 then
    some (let n := (off - 0x70400) / 0x20
          if n < 16 then 2 + n * 256 else 31 * 256)
  else if 0x90000 ≤ off && off < 0x91000 && 0x40 ≤ off % 0x400 && off % 0x400 ≤ 0x50 then
    some (if off % 8 == 0 then 0x1000 else 0)
  else if 0xC0010 ≤ off && off < 0xC0050 then
    some (if off % 8 == 0 then 2 ^ (6 + (off - 0xC0010) / 8) else 0)
  else none

/-- The reset value of the register at a BAR0 offset: the register tables' Reset column; 0 where the column gives
"—", "Fuses" or "Image" (DESIGN CHOICE, log entry 4). -/
def regReset (off : Nat) : Word :=
  match indexedReset off with
  | some v => BitVec.ofNat 32 v
  | none =>
    match regRow off with
    | some r => BitVec.ofNat 32 r.rst
    | none => 0

end Sys2Proof.Machine
end

