-- ==== Sys2Proof/Machine/Flags.lean ====
section
/-!
DEFINITION. What a written word does to the fields of a register, by their access types: values and shadows are replaced,
flags are cleared (W1C) or set (W1S) by ones, and read-only and reserved bits stay (spec/00_scope.md R4, R5).
-/

namespace Sys2Proof.Machine

/-- What a field becomes when a word is written over it (R4). -/
def FldRow.write (f : FldRow) (old v : Nat) : Nat :=
  let x := bits v f.lo f.wid
  match f.acc with
  | .rw | .rwc => setBits old f.lo f.wid x
  | .w1c => setBits old f.lo f.wid (bits old f.lo f.wid &&& (2 ^ f.wid - 1 - x))
  | .w1s => setBits old f.lo f.wid (bits old f.lo f.wid ||| x)
  | .ro | .rc | .wo => old

/-- The word of a register after a write, field by field; reserved bits stay (R5). -/
def RegRow.write (r : RegRow) (old v : Nat) : Nat := r.flds.foldl (fun o f => f.write o v) old

/-- The bits of a row's word that no field names: reserved (R5). -/
def RegRow.resv (r : RegRow) : Nat := 2 ^ 32 - 1 - r.flds.foldl (fun m f => m + (2 ^ f.wid - 1) * 2 ^ f.lo) 0

/-- The row holds a field that can be written. -/
def RegRow.writes (r : RegRow) : Bool := r.flds.any fun f => f.acc != .ro && f.acc != .rc

end Sys2Proof.Machine
end

