-- ==== Sys2Proof/Machine/Tab.lean ====
section
/-!
DEFINITION. Sparse tables: a list of (key, value) pairs in one canonical form, keys strictly rising and no entry
equal to what an unlisted key reads as. Registers, memories and indexed units are held so. What an unlisted key reads
as is the default function `d`, given at each access. And a list put in order.
-/

namespace Sys2Proof.Machine

/-- A sparse table from natural numbers to values. -/
abbrev Tab (α : Type) := List (Nat × α)

variable {α : Type}

/-- The value at a key: the listed one, else the default. -/
def Tab.get (d : Nat → α) (t : Tab α) (k : Nat) : α :=
  match t with
  | [] => d k
  | (j, v) :: t => if j = k then v else Tab.get d t k

/-- The table with the entries of a key removed. -/
def Tab.erase (t : Tab α) (k : Nat) : Tab α :=
  match t with
  | [] => []
  | (j, v) :: t => if j = k then Tab.erase t k else (j, v) :: Tab.erase t k

/-- The table with an entry put before the first larger key. -/
def Tab.put (t : Tab α) (k : Nat) (v : α) : Tab α :=
  match t with
  | [] => [(k, v)]
  | (j, w) :: t => if k < j then (k, v) :: (j, w) :: t else (j, w) :: Tab.put t k v

/-- The table with the value of a key set; the entry is left out when it equals the default. -/
def Tab.set [DecidableEq α] (d : Nat → α) (t : Tab α) (k : Nat) (v : α) : Tab α :=
  if v = d k then Tab.erase t k else Tab.put (Tab.erase t k) k v

/-- Consecutive keys set to the values of a list. -/
def Tab.setList [DecidableEq α] (d : Nat → α) (t : Tab α) (k : Nat) : List α → Tab α
  | [] => t
  | v :: vs => Tab.setList d (Tab.set d t k v) (k + 1) vs

/-- The values of `n` consecutive keys. -/
def Tab.getList (d : Nat → α) (t : Tab α) (k : Nat) : Nat → List α
  | 0 => []
  | n + 1 => Tab.get d t k :: Tab.getList d t (k + 1) n

/-- The canonical form: keys strictly rising, no entry equal to its default. -/
abbrev Tab.wf (d : Nat → α) (t : Tab α) : Prop :=
  t.Pairwise (fun a b => a.1 < b.1) ∧ ∀ p ∈ t, p.2 ≠ d p.1

/-! ### A list in order -/

/-- An entry put before the first that it comes no later than. -/
def insertBy (before : α → α → Bool) (a : α) : List α → List α
  | [] => [a]
  | b :: l => if before a b then a :: b :: l else b :: insertBy before a l

/-- A list in order, equal entries as they stood. -/
def sortBy (before : α → α → Bool) : List α → List α
  | [] => []
  | a :: l => insertBy before a (sortBy before l)

/-- Numbers in rising order. -/
abbrev sortNat : List Nat → List Nat := sortBy fun a b => decide (a ≤ b)

end Sys2Proof.Machine
end

