-- ==== Sys2Proof/Machine/State.lean ====
section
/-!
DEFINITION. The state of the block: plain data, everything the spec gives the machine. Registers are in `Core.regs`,
one word a BAR0 offset; what the spec keeps beside the registers is in the units below. Times are counted in units of
1.25 ns (`Core.now`), web positions in 2^-32 nm.
-/

namespace Sys2Proof.Machine

/-- Reasons of a fault. No command of this block ends in one; the constructor stands for the interface. -/
inductive Fault where
  /-- Raised by no command: the spec gives every command an effect in every state (safe). -/
  | none
  deriving DecidableEq, Repr

/-- Reasons of a refusal. -/
inductive Refusal where
  /-- Raised by `exec` alone, for a command whose meaning is not written (safe: the run stops). -/
  | notModelled (mnemonic : String)
  deriving DecidableEq, Repr

/-- An event record (spec/00_scope.md R6): `line` is 0xFFFF_FFFF_FFFF for no line, `src` has the defect flag in
bit 15. -/
structure EvRec where
  t32 : Nat
  s : Nat
  line : Nat
  pos : Int
  code : Nat
  src : Nat
  data : Nat
  deriving DecidableEq, Repr

/-- An encoder port's state beside its registers (spec/02_web_motion.md R37-R56). Times in 1.25 ns units. Position and count
are unbounded here; what is read of them wraps at 64 bits (log entry 45). -/
structure EncPort where
  a : Bool := false
  b : Bool := false
  count : Int := 0
  pos : Int := 0
  scale : Nat := 0
  corr : Int := 0
  corrPhase : Nat := 0
  sinceIdx : Int := 0
  idxValid : Bool := false
  idxTurn : Bool := false
  monotone : Nat := 0
  missed : Bool := false
  stamps : List Nat := []
  lastCount : Option Nat := none
  lastNeg : Bool := false
  suspects : List Nat := []
  lastSuspectFault : Option Nat := none
  cleanSince : Nat := 0
  deriving DecidableEq, Repr

/-- A stretch of the stroke grid as laid down: stroke `s0` lies at `b0`, later ones `step` apart (R51, R53). -/
structure Grid where
  s0 : Nat
  b0 : Int
  step : Int
  deriving DecidableEq, Repr

/-- The web position and the stroke boundaries (spec/02_web_motion.md R50-R66). Positions in 2^-32 nm; `upd` is the instant
that the last position update stands for (spec/03_firing.md R81, spec/17_time_and_crew.md R462); `ahead` the last stroke whose lines
await their edges. -/
structure Web where
  offset : Int := 0
  trackOfs : Int := 0
  trackRef : Int := 0
  tracking : Bool := false
  lostPos : Int := 0
  bNext : Int := 0
  pitch : Nat := 0
  rev : Bool := false
  pend : Option (Nat × Bool) := none
  furthest : Int := 0
  backupPosted : Bool := false
  overPosted : Bool := false
  disagreePosted : Bool := false
  switchBack : Bool := false
  s : Nat := 0
  grid : List Grid := []
  forecast : Option (Nat × Nat) := none
  slowLow : Option Nat := none
  upd : Nat := 0
  ahead : Nat := 0
  deriving DecidableEq, Repr

/-- A compare channel's state beside its registers (spec/02_web_motion.md R67-R75). Targets in nm. -/
structure Cmp where
  target : Int := 0
  queue : List Int := []
  left : Nat := 0
  pulseEnd : Nat := 0
  predicted : Option Nat := none
  deriving DecidableEq, Repr

/-- A line awaiting its FIRE edge on a bar (spec/03_firing.md R79-R84): image line, stroke, fire position, and the
instant at which it is placed (1.25 ns units). -/
structure PendLine where
  line : Nat
  s : Nat
  x : Int
  pred : Option Nat := none
  deriving DecidableEq, Repr

/-- A bar's fire unit beside its registers (spec/03_firing.md R78-R105): D_b, f_b, the lines that await their edges,
whether the next edge due passes the check of R96 in any case, the last edges (of either row), the output with the
width of its last pulse, and the first line blocked since the latch with the strokes of the first and the last. -/
structure FireBar where
  d : Int := 0
  f : Nat := 0
  pend : List PendLine := []
  fresh : Bool := false
  lastEdge : Option Nat := none
  lastEven : Option Nat := none
  lastOdd : Option Nat := none
  active : Bool := false
  activeSince : Nat := 0
  genStuck : Bool := false
  curLine : Nat := 0
  width : Nat := 0
  blocked : Option (Nat × Nat × Nat) := none
  blockedCnt : Nat := 0
  deriving DecidableEq, Repr

/-- A retraining of a rank under load (spec/12_memory.md R343, R344): when its last slice began, and ends, and whether MEM_RETRAIN asked
for it. -/
structure Retrain where
  slices : Nat := 0
  running : Bool := false
  waiting : Bool := false
  lastSlice : Option Nat := none
  sliceTo : Nat := 0
  asked : Bool := false
  deriving DecidableEq, Repr

/-- A migration (R336, R337): the retired rank, the spare, and the 4 KiB blocks copied. -/
structure Mig where
  rank : Nat
  spare : Nat
  ptr : Nat := 0
  deriving DecidableEq, Repr

/-- The class of a DRAM access (R325). -/
inductive MemClass where
  | rt
  | ctl
  | be
  deriving DecidableEq, Repr

/-- A DRAM access of a requester: its data where it writes, with the failures of the write CRC, else its length and what the ECC
finds; the bytes that a read whose later bursts wait has brought already, none where one of them was poison; `second`: the partner's
copy was uncorrectable, and the rank itself is read after its slice (R344). -/
structure MemAccess where
  req : Nat
  pa : Nat
  n : Nat
  err : MemErr := .clean
  pre : Option (List Byte) := some []
  second : Bool := false
  data : Option (List Byte) := none
  crc : CrcFails := {}
  deriving DecidableEq, Repr

/-- An access that a unit has made and whose bursts the channels have not issued yet (spec/12_memory.md R325, R328, R329): its requester
and class, the bytes, whether it writes, whether it reads the second copy (R334), and when it was made. -/
structure MemTouch where
  req : Nat
  cls : MemClass
  pa : Nat
  n : Nat
  write : Bool
  twin : Bool := false
  t : Nat
  deriving DecidableEq, Repr

/-- The memory subsystem beside its registers (spec/12_memory.md R319-R345). DRAM is held by physical address; both
copies of a mirrored burst hold the same bytes, so the table holds one. `cfg` holds the configuration registers as the
last MEM_INIT took them; ranks are numbered c x 4 + r. RAAIMT and RAAMMT; when each rank's next REFsb and drift check, the next
reading of MR4, and the present pass of a rank's scrub began; until when a bank index of a rank (rank x 4 + BA) refreshes; accesses
that wait, oldest first; blocks of a rank (rank, PA / 4,096) that are dirty; the requester and the class of the last access; the accesses
not issued yet, newest first; when MEM_MIG_PCT lets requester 53 use a channel again; the last requester of class BE served in turn. -/
structure Mem where
  dram : Tab Byte := []
  poison : Tab Bool := []
  cfg : Tab Word := []
  raaimt : Nat := 32
  raammt : Nat := 0
  migs : List Mig := []
  migQueue : List Mig := []
  raa : Tab Nat := []
  refBank : Tab Nat := []
  postponed : Tab Nat := []
  acts : Tab (Nat × Nat) := []
  ceTimes : Tab (List Nat) := []
  recent : Tab (List Nat) := []
  retrain : Tab Retrain := []
  driftPend : Tab Int := []
  trained : Tab Nat := []
  scrub : Tab Nat := []
  scrubAt : Tab Nat := []
  refAt : Tab Nat := []
  mr4At : Nat := 0
  driftAt : Tab Nat := []
  busy : Tab Nat := []
  held : List MemAccess := []
  dirty : List (Nat × Nat) := []
  last : Option (Nat × MemClass) := none
  todo : List MemTouch := []
  bgAt : Tab Nat := []
  turn : Nat := 0
  testing : List Nat := []
  deriving DecidableEq, Repr

/-- A submission queue beside its registers (spec/13_host_and_command_protocol.md R354-R365): the tail, whether a
command has been numbered, and the packets left of those that lay before the mark. -/
structure Sq where
  tail : Nat := 0
  seqValid : Bool := false
  oldLeft : Nat := 0
  deriving DecidableEq, Repr

/-- A completion queue beside its registers (R357-R359, R374). -/
structure Cq where
  head : Nat := 0
  used : Nat := 0
  held : List (List Byte × Bool) := []
  unsig : Nat := 0
  firstUnsig : Nat := 0
  fullPosted : Bool := false
  deriving DecidableEq, Repr

/-- A journal entry (R366), with NO_IRQ of its command (R374). -/
structure JEntry where
  sq : Nat
  seq : Nat
  op : Nat
  effected : Bool
  reply : List Byte
  posted : Bool
  noIrq : Bool := false
  deriving DecidableEq, Repr

/-- Work of an ACCEPTED command under way (spec/14_command_reference.md R379). -/
structure Async where
  op : Nat
  sq : Nat
  seq : Nat
  a : Nat := 0
  b : Nat := 0
  c : Nat := 0
  deriving DecidableEq, Repr

/-- The host interface beside its registers (spec/13_host_and_command_protocol.md). `host` is the host's memory, which
the device reads and writes; `sent` the MSI-X vectors fired, newest first; `waiting` a command whose reply waits for an
answer (opcode, queue, SEQ, flags); `barrier` the completion queue that holds back the reply of a command with BARRIER (R361);
`ep` tells that the last completion was marked poisoned (R351); `funcMask` and `d3hot` are the function's MSI-X mask and power state,
and `trains` counts the trainings of its link (R348). -/
structure HostIf where
  host : Tab Byte := []
  sqs : Tab Sq := []
  cqs : Tab Cq := []
  rr : Nat := 0
  evHead : Nat := 0
  evUsed : Nat := 0
  evDropped : Nat := 0
  evUnsig : Nat := 0
  evFirst : Nat := 0
  sent : List Nat := []
  journal : List JEntry := []
  async : List Async := []
  waiting : Option (Nat × Nat × Nat × Nat) := none
  barrier : Option Nat := none
  ep : Bool := false
  funcMask : Bool := false
  d3hot : Bool := false
  trains : Nat := 0
  resetCause : Option Nat := none
  rdLatch : Tab (Nat × Word) := []
  wrStage : Tab (Nat × Word) := []
  lastPost : Tab Nat := []
  deriving DecidableEq, Repr

/-- The logbook beside its registers (spec/19_observation_and_test.md R496-R503): the open block, the WEB entries
gathered with T32, S and instant of the first, whether the buffer is full for the next record, the records lost since the last GAP and of
the last second (when, how many) and whether 0x0A22 is due for them, the block written last (PA, bytes, records,
T32), the signature folds, the last TEMP record of each head (when plus one, the value) and the heads whose next one is due, in a replay the
decisions made that await their records (type, when, payload: R507), whether a replay runs, and whether the SNAPSHOT that follows a replay is due (R503). -/
structure Log where
  blk : List Byte := []
  blkStart : Nat := 0
  blkT32 : Nat := 0
  blkS : Nat := 0
  blkRecs : Nat := 0
  lastT32 : Nat := 0
  snapNext : Bool := false
  segUsed : Nat := 0
  web : List Nat := []
  webT32 : Nat := 0
  webS : Nat := 0
  webAt : Nat := 0
  webLast : Nat := 0
  full : Bool := false
  lost : Nat := 0
  lostT32 : Nat := 0
  lostAt : List (Nat × Nat) := []
  lostDue : Bool := false
  wrote : Nat × Nat × Nat × Nat := (0, 0, 0, 0)
  inSec : Nat := 0
  outSec : Nat := 0
  inTot : Nat := 0
  outTot : Nat := 0
  sigS0 : Nat := 0
  sigMask : Nat := 0
  sigFold : Tab Word := []
  temps : Tab (Nat × Nat) := []
  tempDue : List Nat := []
  own : List (Nat × Nat × List Byte) := []
  replay : Bool := false
  snapDue : Bool := false
  deriving DecidableEq, Repr

/-- A PTP port beside its registers (spec/17_time_and_crew.md R455, R456), times in 2^-16 ns: the best master heard with its
data set, and when it was last announced or the port began to listen; a two-step Sync (sequence, t2, correction) whose Follow_Up is due; t2 - t1 of
the last Sync; the delay request sent (sequence, t3) and, for peer delay, t2 and t4 of a two-step answer; the mean path
delay; the sequence numbers of what it sends, and when each kind was last sent. -/
structure PtpPort where
  master : Option (Nat × List Nat) := none
  heard : Nat := 0
  sync : Option (Nat × Int × Int) := none
  ms : Option Int := none
  req : Option (Nat × Int) := none
  resp : Option (Nat × Int × Int) := none
  mpd : Int := 0
  seqs : Nat × Nat × Nat := (0, 0, 0)
  sentAt : Nat × Nat × Nat := (0, 0, 0)
  deriving DecidableEq, Repr

/-- The local clock beside its registers (spec/17_time_and_crew.md R448-R456): the time in 2^-32 ns; the servo's I in
2^-8 ppb; consecutive offsets within the lock threshold; when HOLDOVER after a master change began; whether the reference is lost and has not returned; the
PTP ports, and the one of an ordinary clock. -/
structure Clock where
  time : Nat := 0
  servoI : Int := 0
  lockCount : Nat := 0
  reacqFrom : Option Nat := none
  refLost : Bool := false
  ptp : Tab PtpPort := []
  ptpPort : Nat := 0
  deriving DecidableEq, Repr

/-- A trigger not yet paired with a frame start (spec/09_inspection_cameras.md R243, R252). -/
structure CamTrig where
  fn : Nat
  pos : Int
  speed : Int
  axisPos : Int
  axisSpeed : Int
  t32 : Nat
  taken : Nat
  deriving DecidableEq, Repr

/-- The parameters of a port's image pipeline (spec/09_inspection_cameras.md R255): the bits of a raw value, the CFA, the black levels and
white balance of the four CFA positions, DPC_THR, the enables, DM_THR, DGAIN of the set, the colour matrix by row and DMAT by ink. -/
structure CamPar where
  bits : Nat := 10
  cfa : Nat := 0
  black : List Nat := []
  thr : Nat := 0
  dynamic : Bool := false
  shading : Bool := false
  wb : List Nat := []
  dgain : Nat := 0
  dmThr : Nat := 0
  ccm : List Int := []
  dmat : List Int := []
  deriving DecidableEq, Repr

/-- A camera frame (spec/09_inspection_cameras.md R243-R254, R261): its identifiers, header fields and raw
lines, the pipeline's parameters as each line passed it, the lines that the raw tap took, and the defect map and shading grid in
force at its start. -/
structure CamFrame where
  fn : Nat
  sof : Nat
  start : Nat
  trig : Nat
  mid : Nat
  pos : Int
  axis : Int
  expset : Nat
  state : Nat
  width : Nat
  height : Nat
  noFe : Bool := false
  noFs : Bool := false
  crcErr : Bool := false
  test : Bool := false
  rx : Nat := 0
  short : Nat := 0
  long : Nat := 0
  cut : Nat := 0
  lines : List (List Nat) := []
  pars : List CamPar := []
  tap : Bool := false
  tapped : Nat := 0
  map : List (Nat × Nat) := []
  grid : List Nat := []
  deriving DecidableEq, Repr

/-- An exposure set (R247). -/
structure ExpSet where
  expNs : Nat := 0
  dgain : Nat := 0
  writes : List (Nat × Nat) := []
  deriving DecidableEq, Repr

/-- A camera port beside its registers (spec/09_inspection_cameras.md R243-R262): the next FN, triggers unpaired, the
frame open, closed frames that await their statistics record and frames on the proof feed; exposure sets, selects in
order (the first under way), sets scheduled with their frame starts to come, oldest first; defect map and shading grid
in force and loaded; the frames since a raw tap, the tap's 16 KiB buffer, the samples at its
input, and the FN of a captured frame that has closed with samples still there. -/
structure CamPort where
  fn : Nat := 0
  trigs : List CamTrig := []
  opened : Option CamFrame := none
  closed : List CamFrame := []
  feed : List CamFrame := []
  lastPkt : Option Nat := none
  sets : Tab ExpSet := []
  selects : List Nat := []
  sched : List (Nat × Nat) := []
  failIn : List Nat := []
  map : List (Nat × Nat) := []
  mapNext : Option (List (Nat × Nat)) := none
  grid : List Nat := []
  gridNext : Option (List Nat) := none
  taps : Nat := 0
  tapBuf : List Byte := []
  tapWait : List Byte := []
  tapFn : Option Nat := none
  testAt : Nat := 0
  deriving DecidableEq, Repr

/-- A surface of the table (spec/04_surfaces_and_layers.md R109-R111): state 0 FREE, 1 REGISTERED, 2 RESIDENT. -/
structure Surf where
  state : Nat := 0
  fmt : Nat := 0
  tiled : Bool := false
  cov : Bool := false
  width : Nat := 0
  height : Nat := 0
  stride : Nat := 0
  base : Nat := 0
  base2 : Nat := 0
  stride2 : Nat := 0
  covStride : Nat := 0
  covBase : Nat := 0
  maxRow : Nat := 0
  digesting : Bool := false
  deriving DecidableEq, Repr

/-- A threshold array (spec/06_screening_and_nozzles.md R181). -/
structure Screen where
  w : Nat := 0
  h : Nat := 0
  thr : List Nat := []
  deriving DecidableEq, Repr

/-- A run of the head map (R164); `rsv` when a reserved bit of the run is set. -/
structure MapRun where
  start : Nat
  cstep2 : Bool
  count : Nat
  idir : Bool
  hg : Nat
  iStart : Nat
  head : Nat
  rsv : Bool
  deriving DecidableEq, Repr

/-- The tables of a generation or of the shadow (R163, R164, R157, R181). -/
structure Tables where
  nz : Tab Word := []
  seg : Tab Word := []
  map : List MapRun := []
  lattice : Tab Nat := []
  curves : Tab Nat := []
  screens : Tab Screen := []
  deriving DecidableEq, Repr

/-- A generation (spec/04_surfaces_and_layers.md R123): its number, effective line, registers and tables as taken, and
what its COMMIT fixed: P_min in ps, NZ_LEAD, FULL_OK (R95, R179, R170). -/
structure Gen where
  num : Nat := 0
  le : Nat := 0
  pMin : Nat := 6250000
  lead : Nat := 0
  fullOk : Nat := 0
  regs : Tab Word := []
  tabs : Tables := {}
  deriving DecidableEq, Repr

/-- A version of an ink's nozzle and segment entries (spec/06_screening_and_nozzles.md R177), with the temperatures it
was interpolated at, and the stroke event from which it is pending no longer. -/
structure Ver where
  le : Nat := 0
  clears : Int := 0
  nz : Tab Word := []
  seg : Tab Word := []
  theta : Tab Int := []
  temp : Bool := false
  deriving DecidableEq, Repr

/-- An ink's versions: in force and pending, newest first, and the wait of R178. -/
structure InkVer where
  vers : List Ver := []
  waitFrom : Option Nat := none
  waitPosted : Bool := false
  deriving DecidableEq, Repr

/-- A bound panel (R121, R122): repeat, surface, expected values and their valid bits. -/
structure Panel where
  k : Nat
  surf : Nat
  exps : List Nat
  valid : Nat
  decided : Bool := false
  deriving DecidableEq, Repr

/-- A readiness decision (R129, R130): from `line` on; kind 0 ready, 1 HOLD, 2 BLANK; what a held layer draws. -/
structure LayerDec where
  line : Nat
  kind : Nat
  surf : Nat
  panel : Option Nat
  desc : Tab Word
  deriving DecidableEq, Repr

/-- A layer slot beside its registers; `first` is the surface of its first panel with its descriptor. -/
structure Layer where
  panels : List Panel := []
  first : Option (Nat × Surf) := none
  decs : List LayerDec := []
  deriving DecidableEq, Repr

/-- An occurrence of a protected region under way (R133-R136). -/
structure RegionOcc where
  n : Nat
  k : Option Nat
  l0 : Nat
  lines : Nat
  c0 : Nat
  c1 : Nat
  inks : Nat
  expect : Option Nat
  next : Nat
  crc : Word
  deriving DecidableEq, Repr

/-- The job and the commit (spec/04_surfaces_and_layers.md, spec/14_command_reference.md R388-R391). `gens` are the
live generations, the one accepted last first; `force` the configuration in force outside a job. -/
structure Job where
  isOpen : Bool := false
  id : Nat := 0
  committed : Bool := false
  byPos : Bool := false
  pos : Int := 0
  tof : Bool := false
  trig : Bool := false
  catchN : Nat := 2
  w : Nat := 13
  gens : List Gen := []
  force : Gen := {}
  shadow : Tables := {}
  genNum : Nat := 0
  lastTrimLe : Option Nat := none
  aborting : Bool := false
  abortLast : Nat := 0
  surfs : Tab Surf := []
  layers : Tab Layer := []
  occs : List RegionOcc := []
  crewDMin : Option Int := none
  waves : List Nat := []
  deriving DecidableEq, Repr

/-- A line as last sent for a head group (spec/07_run_ahead_pipeline.md R200): image line, stroke and codes. -/
structure SentLine where
  line : Nat
  s : Nat
  codes : Tab Code
  deriving DecidableEq, Repr

/-- A nib's work beside its registers (R187-R197): the ink-line under way (stroke, part, ink), the slice-lines in flight (stroke,
part), the strokes of its solitary misses, its work by stroke in ps, whether its stages hold work, the
stroke of the audit whose ink-line is under way, and whether it has been busy in the present microsecond. -/
structure Nib where
  cur : Option (Nat × Nat × Nat) := none
  flight : List (Nat × Nat) := []
  solos : List Nat := []
  work : List (Nat × Nat) := []
  lastInk : Bool := false
  aud : Option Nat := none
  busy : Bool := false
  deriving DecidableEq, Repr

/-- A cross-audit under way (spec/18_fault_tolerance.md R477, R478): audited slice and nib, auditor and third nib,
stroke, ink-lines left, whether the majority is being taken, and whether the slice-line is in flight on its nib. -/
structure Audit where
  slice : Nat
  nib : Nat
  auditor : Nat
  third : Nat
  stroke : Nat
  left : Nat
  majority : Bool := false
  started : Bool := false
  deriving DecidableEq, Repr

/-- A temperature input beside its registers (R299-R302). -/
structure TsIn where
  own : Int := 0
  validAt : Option Nat := none
  devFrom : Option Nat := none
  okFrom : Option Nat := none
  deriving DecidableEq, Repr

/-- A message sent over a link: the port or lane, its kind, and its fields. -/
structure Msg where
  port : Nat
  kind : Nat
  fields : List Int
  deriving DecidableEq, Repr

/-- A management message of a lane that awaits its ACK (spec/10_quill_head_link.md R278): for a WAVE_SEL the stroke it
names (R286); `setup` for those sent on entering ACTIVE (R291). -/
structure Mgmt where
  op : Nat
  arg : Nat
  tries : Nat := 0
  stroke : Option Nat := none
  setup : Bool := false
  deriving DecidableEq, Repr

/-- A 66-bit block (spec/10_quill_head_link.md R269): control or data, and its 64 bits. -/
structure Blk where
  ctl : Bool
  w : Nat
  deriving DecidableEq, Repr

/-- A receiver of a lane (R271, R272): the last scrambled bits, newest first; the block of the superframe that its next codeword
begins with, once a marker has been found; in lock; runs of good markers, uncorrectable codewords and missing markers; blocks of a
reserved TYPE; at a board when its lock last changed. -/
structure LaneRx where
  hist : List Bool := []
  pos : Option Nat := none
  lock : Bool := false
  amRun : Nat := 0
  badRun : Nat := 0
  missRun : Nat := 0
  discards : Nat := 0
  turned : Nat := 0
  deriving DecidableEq, Repr

/-- A lane's transmitter (R269, R270, R295, R296): the block of the superframe that its next codeword begins with; the scrambler's
last bits, newest first; how many of the outputs have entered the stream, and the blocks of those that wait; codewords since the
last injected error; PRBS bits and test frames generated. -/
structure LaneTx where
  pos : Nat := 0
  hist : List Bool := []
  mark : Nat := 0
  wait : List Blk := []
  since : Nat := 0
  bits : Nat := 0
  frames : Nat := 0
  deriving DecidableEq, Repr

/-- A lane beside its registers (R268, R271, R289-R296): the RATE in force; failed attempts in a row; when the present state or
step began; the times of the uncorrectable codewords of the last second, in either direction; the sums that STATUS and LINK
messages have reported; the upstream receiver, and when it left lock; the transmitter; the last primary frame failure reported;
messages unacknowledged; WAVE_SELs given up before the line they name (R286); a setup message given up; the time of the last setup acknowledgement; whether the lane carries lines;
frames sent since the last injected error; the checker's reference, newest bit first. -/
structure Lane where
  rate : Nat := 0
  fails : Nat := 0
  since : Nat := 0
  uncAt : List Nat := []
  sumS : Nat := 0
  sumL : Nat := 0
  rx : LaneRx := {}
  tx : LaneTx := {}
  lockLost : Option Nat := none
  frameFail : Option Nat := none
  mgmt : List Mgmt := []
  gone : List Mgmt := []
  gaveUp : Bool := false
  ready : Nat := 0
  carries : Bool := false
  inj : Nat := 0
  chk : List Bool := []
  deriving DecidableEq, Repr

/-- The lines of a blank (R293, R306): the first and its stroke, none until a job's line meets it; the stroke of the last once the
job has ended. -/
structure BlankSpan where
  line : Option Nat := none
  first : Nat := 0
  last : Option Nat := none
  deriving DecidableEq, Repr

/-- A head group beside its registers (R92, R93, R277, R293): the bank in use, the banks' entries
(bank x 512 + entry), the effective lines of the trims that wait for a load, the stroke from which the bank loaded will be
used, and that from which the bank in use is; blanked for want of a lane, and over which lines; the mode that the board reported last, and whether the last LINK on each of its upstreams
named MIRROR. -/
structure Group where
  bank : Nat := 0
  trims : Tab Nat := []
  want : List Nat := []
  next : Option Nat := none
  since : Nat := 0
  blanked : Bool := false
  span : BlankSpan := {}
  mode : Nat := 0
  said : Bool × Bool := (false, false)
  deriving DecidableEq, Repr

/-- A drop gate's filter (R308): baseline and noise in 2^-20, and the last 31 samples, newest first. -/
structure GateRx where
  mu : Int := 0
  noise : Int := 0
  hist : List Int := []
  deriving DecidableEq, Repr

/-- What a gate test has seen of a nozzle (spec/11_head_health.md R308-R310). -/
structure GateRes where
  reps : Nat := 0
  hits : Nat := 0
  peaks : Nat := 0
  arrs : Nat := 0
  blanked : Bool := false
  deriving DecidableEq, Repr

/-- A test firing under way (spec/03_firing.md R104, R105): mode 0 pattern, 1 gate, 2 spit; ticks so far, and those whose line fired on
some bar; the gate sequence left. -/
structure TestRun where
  mode : Nat
  bars : Nat
  period : Nat
  lines : Nat
  surf : Nat
  code : Nat
  fired : Nat := 0
  lit : Nat := 0
  stop : Bool := false
  start : Nat := 0
  next : Nat := 0
  todo : Tab (List Nat) := []
  res : Tab GateRes := []
  deriving DecidableEq, Repr

/-- A flash image as the boot table names it (spec/20_power_clocks_boot.md R534): VERSION, LEN and STATE (0 empty, 1 pending, 2 tried,
3 good). -/
structure FlashImg where
  ver : Nat := 0
  len : Nat := 0
  state : Nat := 0
  deriving DecidableEq, Repr

/-- A copy of the boot table (R534). -/
structure BootTab where
  seq : Nat := 0
  a : FlashImg := {}
  b : FlashImg := {}
  deriving DecidableEq, Repr

/-- An operation of the quad SPI controller (R534): the flash's SFDP table, a quad-output fast read (0x6C) of so many bytes, write enable
(0x06), a page program (0x12), a sector erase (0xDC), read status (0x05). -/
inductive QspiOp where
  | sfdp
  | fastRead (a n : Nat)
  | writeEnable
  | pageProgram (a n : Nat)
  | sectorErase (a : Nat)
  | readStatus
  deriving DecidableEq, Repr

/-- Images (spec/14_command_reference.md R384, spec/20_power_clocks_boot.md R534): the one staged for the running units (VERSION, output
version) and its bytes; the flash, where an unlisted byte is erased; the operations of its controller in the last boot or write. -/
structure Fw where
  staged : Option (Nat × Nat) := none
  image : List Byte := []
  flash : Tab Byte := []
  qspi : List QspiOp := []
  deriving DecidableEq, Repr

/-- The fuses that no register shows (R540): the boot-key hashes and the root key. -/
structure Fuses where
  keyHash : List (List Byte) := (List.range 4).map Config.keyHash
  rootKey : List Byte := Config.rootKey
  deriving DecidableEq, Repr

/-- A transaction of AVSBus (R525): Vout write in mV, Vout read, status read. -/
inductive AvsCmd where
  | voutWrite (mv : Nat)
  | voutRead
  | statusRead
  deriving DecidableEq, Repr

/-- The umpire beside its registers (spec/18_fault_tolerance.md R474-R493): FAULT_N asserted; the cross-audit's setting
in force, what the abandoned audits have held the rotation back by and the audits under way; slices that wait for starting spares, each with the nib lost; the umpire lane masked; spares starting, with their slices and the nibs lost; units
returning (class, index); the last checkpoint; the mechanism of a switch-over whose old cox still drains, and whether
the switch-over is planned; the device area of R539 in place; active nibs still to be updated and units updated; the nib whose slice is to be handed over, with the spare that takes it. -/
structure Ump where
  faultN : Bool := false
  auditOn : Bool := true
  auditShift : Nat := 0
  audits : List Audit := []
  lost : List (Nat × Nat) := []
  tmr : Option Nat := none
  starting : List (Nat × Nat × Nat) := []
  returning : List (Nat × Nat) := []
  ckptAt : Nat := 0
  drain : Option Nat := none
  planned : Bool := false
  nibImage : Bool := false
  fwTodo : List Nat := []
  fwDone : List Nat := []
  fwHand : Option (Nat × Nat) := none
  fw : Fw := {}
  deriving DecidableEq, Repr

/-- A head beside its registers (spec/11_head_health.md R299-R316): own value and its source's last delivery, the
times of the conditions that must hold, derate generations to be formed in order (`true` derates, `false` restores), their record,
blank causes, the lines of a blank reported by 0x0802, and the usage record. -/
structure Head where
  own : Int := 0
  delivered : Option Nat := none
  clamped : Bool := false
  devFrom : Option Nat := none
  okFrom : Option Nat := none
  heldFrom : Option Nat := none
  coolFrom : Option Nat := none
  lowFrom : Option Nat := none
  wantDerate : List Bool := []
  derate : List (Nat × List Int) := []
  blankTemp : Bool := false
  blankLane : Bool := false
  blankAuth : Bool := false
  span : Option BlankSpan := none
  clearing : Bool := false
  uid : Nat := 0
  valid : Bool := false
  seq : Nat := 0
  drops : Nat := 0
  hotS : Nat := 0
  onS : Nat := 0
  thetaMax : Int := 0
  fired : Bool := false
  firedSec : Nat := 0
  hotSec : Nat := 0
  recAt : Nat := 0
  writing : Option (List Byte) := none
  deriving DecidableEq, Repr

/-- The freeze detector of a bar (R203): per parity, the last signature compared; the first unchanged line. -/
structure Freeze where
  last0 : Option Word := none
  last1 : Option Word := none
  firstLine : Nat := 0
  deriving DecidableEq, Repr

/-- A seam record received for a stroke (spec/17_time_and_crew.md R467): FIRES and the eight shares. -/
structure SeamRec where
  fires : Nat := 0
  vals : List Nat := []
  deriving DecidableEq, Repr

/-- The pipeline (spec/07_run_ahead_pipeline.md): line store codes by slot, group and nozzle; completion bits by slot,
slice and ink, and by slot and second bar; the words of an ink-line found bad, or corrected, when they are read for
transmission, each by its head group (R199); coverage counts; DROP4 codes dropped, by ink-line, with the line; row-1 codes of two-bar inks as computed, the lines of them that
are complete, the codes in the delay line, the lines that it holds and those written to it (R16); per head group the lines last sent. -/
structure Pipe where
  codes : Tab Code := []
  done : Tab Bool := []
  done2 : Tab Bool := []
  bad : Tab (List Nat) := []
  weak : Tab (List Nat) := []
  row1 : Tab Code := []
  delayOk : Tab Bool := []
  delay : Tab Code := []
  delayed : Tab Bool := []
  delayWas : Tab Bool := []
  cov : Tab (Nat × Nat) := []
  dropped : Tab (Nat × Nat) := []
  nibs : Tab Nib := []
  sent : Tab (List SentLine) := []
  freeze : Tab Freeze := []
  degFrom : Option (Nat × Nat) := none
  degrade : Bool := false
  lostSlice : Nat := 0
  times : List Nat := []
  unhid : Tab Bool := []
  late : Tab Bool := []
  blanks : Tab (List (Nat × Bool)) := []
  seams : Tab SeamRec := []
  seamIn : Tab Bool := []
  deriving DecidableEq, Repr

/-- A column of the predicted-density stream (spec/08_density_and_placement_loops.md R212): stage-4 tone, tone screened,
PLAN, BIN, EXCL, the cameras whose window holds it (a bit a camera), and the density of the stage-4 tone by the curve at the
emission, which the zone form means over its blocks. -/
structure Cell where
  t4 : Nat := 0
  d4 : Nat := 0
  t6 : Nat := 0
  plan : Nat := 0
  bin : Nat := 0
  excl : Bool := false
  win : Nat := 0
  deriving DecidableEq, Repr

/-- Sums of a zone in one parity (R221): blocks, products, and frames; `dacc` uses `n` frames with the sums of the two
offsets. -/
structure ZAcc where
  n : Nat := 0
  spd : Int := 0
  spp : Int := 0
  frames : Nat := 0
  deriving DecidableEq, Repr

/-- A cell that a placement solve correlates (spec/08_density_and_placement_loops.md R224): the density seen, and the tone screened
on its line, the line before and the line after. -/
structure PlcCell where
  d : Int
  t : Nat
  before : Nat
  after : Nat
  deriving DecidableEq, Repr

/-- The proof engines beside their registers (spec/08_density_and_placement_loops.md R210-R237). The ring's rows by
(ring line x 8 + ink) x 64 + part: line + 1, first column, cells; lines that give no sample by ring line x 16 + bar: line
+ 1; by engine x 1024 + (ink x 64 + zone) x 2 + parity the zone sums and the range of temperatures there; the temperatures of a
head there by (ink x 64 + zone) x 1024 + head, as a count and a sum; the line a zone accumulates from; by (engine x 64 + zone) x 2
+ parity the offset sums, by engine x 2 + parity their frames; by segment x 2 + parity the cells that a placement solve
correlates; a nozzle's temperatures; pending zone gains; nozzles with
a valid target; pending CC (segment x 4 + bin), trim, shift and stretch; where a segment's last trim change took effect;
heads handed over and nozzles solved since top-of-form; web travelled (2^-32 nm), and where each head and bin (segment x 4 + bin)
was last solved; stale bins; loops suspended; sets whose former buffer is in use; columns
a camera dwelt on (start + 1); solves discarded by engine; frame load by engine; the last line sampled for a solve (R237): of nozzle
x 4 + bin, from 2^23 of segments, from 2^24 of zones (ink x 64 + zone), from 2^24 + 512 of engine x 64 + zone. -/
structure Proof where
  rows : Tab (Nat × Nat × List Cell) := []
  bad : Tab Nat := []
  zacc : Tab ZAcc := []
  zrange : Tab (Option (Int × Int)) := []
  zth : Tab (Nat × Int) := []
  zFrom : Tab Nat := []
  dacc : Tab ZAcc := []
  dframes : Tab Nat := []
  plc : Tab (List PlcCell) := []
  nth : Tab (Option (Int × Int)) := []
  zPend : Tab (Option (Int × Int)) := []
  targets : List Nat := []
  ccPend : Tab (Option Int) := []
  trimPend : Tab (Option Int) := []
  trimFrom : Tab Nat := []
  shiftPend : Tab (Option Int) := []
  strPend : Tab (Option Int) := []
  handed : List Nat := []
  solved : List Nat := []
  travel : Nat := 0
  ages : Tab Nat := []
  binAges : Tab Nat := []
  binStale : Tab Bool := []
  suspended : Bool := false
  altBusy : List (Nat × Nat) := []
  held : Bool := false
  dwell : Tab (List Nat) := []
  discAt : Tab (List Nat) := []
  load : Tab (List (Nat × Nat)) := []
  lastLine : Tab Nat := []
  deriving DecidableEq, Repr

/-- A loop generation as formed (spec/08_density_and_placement_loops.md R227-R229): the generation, its boundary,
CONTENT, zones (ink x 64 + zone) and nozzles changed, nozzles slew-limited, segments changed, the largest change of a
gain, sets written with their former buffers, their new words by set x 2^21 + nozzle, and segments whose trim changes. -/
structure LoopOut where
  gen : Gen
  le : Nat
  content : Nat := 0
  zones : List Nat := []
  nozzles : Nat := 0
  slewed : Nat := 0
  segs : Nat := 0
  maxG : Nat := 0
  sets : List (Nat × Nat) := []
  words : Tab (Option Nat) := []
  trims : List Nat := []
  deriving DecidableEq, Repr

/-- A derate or restoring generation as formed (spec/11_head_health.md R303): the head, whether it derates, the
generation, and the change made to each CC of each segment. -/
structure DerateOut where
  head : Nat
  on : Bool
  gen : Gen
  le : Nat
  rec_ : List (Nat × List Int)
  deriving DecidableEq, Repr

/-- A POS message, or an update of the lead's own web source, that takes effect at an instant (spec/17_time_and_crew.md
R461, R462): the instant of the update, position in 2^-32 nm, speed, STANDSTILL, DIR and LOST. -/
structure PosMsg where
  t : Nat
  pos : Int
  speed : Int
  still : Bool
  neg : Bool
  lost : Bool
  deriving DecidableEq, Repr

/-- The exchange open on the lead (R469): number, requesting seat, request, when PREPARE was sent, votes by seat. -/
structure Exch where
  id : Nat
  seat : Nat
  req : CrewReq
  sentAt : Nat
  votes : List (Nat × CrewVote)
  deriving DecidableEq, Repr

/-- A request as a member has prepared it: its generation and status. -/
structure Prep where
  id : Nat
  seat : Nat
  req : CrewReq
  gen : Gen
  status : Nat
  loops : Option LoopOut := none
  deriving DecidableEq, Repr

/-- A decision that waits for its T_a. -/
structure Dec where
  at_ : Nat
  dec : CrewDec
  deriving DecidableEq, Repr

/-- A crew port beside its registers (R458-R466): when its re-skew began, the span of the last one, when it is due, messages held, the
HELLO received, and the peer's UMP bits; the delay measured while the lanes relock, the receivers of its two lanes; the last BULK
message sent, and the generation changes received last. -/
structure CrewPort where
  since : Option Nat := none
  span : Nat × Nat := (0, 0)
  due : Nat := 0
  held : List Msg := []
  hello : Option (Nat × Nat) := none
  ump : Nat := 0
  relock : Option Nat := none
  rx0 : LaneRx := {}
  rx1 : LaneRx := {}
  bulk : Option (List Int) := none
  changes : List Byte := []
  deriving DecidableEq, Repr

/-- The crew beside its registers (R457-R471): on a member the position in force, its speed, direction and STANDSTILL, when
the last POS came; the updates that wait; on the lead the last POS sent, on a member the POS in force, and whether one has come; on a
member that forms, whether its clock has been stepped to the lead's; requests waiting, the exchange open, and the
number of the next; the request prepared here; what was asked from here, in order (with a derate generation formed here); the decision that waits; ports being formed and since when; loop changes frozen for a boundary, with the
generation that they change (R235); seats that delivered theirs, each with its boundary; the boundary whose wait has been posted (R229); the crew's smallest B_b; the SHIFT of the neighbours' edge zones; when TIME and UMP were last sent. -/
structure Crew where
  pos : Int := 0
  speed : Int := 0
  neg : Bool := false
  still : Bool := false
  rxAt : Nat := 0
  queue : List PosMsg := []
  sent : Option PosMsg := none
  got : Bool := false
  stepped : Bool := false
  sentAt : Nat := 0
  seq : Nat := 0
  asks : List (Nat × CrewReq) := []
  exch : Option Exch := none
  nextId : Nat := 0
  prep : Option Prep := none
  own : List (CrewReq × Option DerateOut) := []
  decided : Option Dec := none
  forming : Option (Nat × Nat) := none
  ports : Tab CrewPort := []
  frozen : Option (Nat × Gen × Option LoopOut) := none
  delivered : List (Nat × Nat) := []
  waited : Option Nat := none
  minB : Option Int := none
  edge : Option Int × Option Int := (none, none)
  timeAt : Nat := 0
  umpAt : Nat := 0
  deriving DecidableEq, Repr

/-- A band held by a personality (spec/15_lh460_compatibility.md R412-R417): BAND, LAST, the pool surface that takes it,
whether its data is complete, and the repeat it is bound to. -/
structure LBand where
  num : Nat
  last : Bool
  q : Nat
  ready : Bool := false
  bound : Option Nat := none
  deriving DecidableEq, Repr

/-- The band open on the data port (R411-R413): BAND, surface, the part expected next (0 H0, 1 H1, 2 H2, 3 rows, 4 T0, 5
T1), the sum of its words, its ink mask, and the place in the rows. -/
structure LOpen where
  num : Nat
  q : Nat
  part : Nat := 0
  sum : Nat := 0
  mask : Nat := 0
  line : Nat := 0
  ink : Nat := 0
  col : Nat := 0
  deriving DecidableEq, Repr

/-- A personality beside its registers (R405-R421): its bands, the open one last, whether its START waits for the window,
the repeats bound to its bands that still print; its last START's packet. -/
structure Pers where
  startLsp : List Byte := List.replicate 8 0
  bands : List LBand := []
  opened : Option LOpen := none
  starting : Bool := false
  repeats : List Nat := []
  deriving DecidableEq, Repr

/-- A native command of the bridge (R421): opcode, parameter bytes, the LSP packet that caused it, the personalities whose
command it is, when it was first refused BUSY and when it was last issued; whether it is the COMMIT that ends the job (R417); whether
it waits for the crew's token, and the status that the token gave it (R469). -/
structure NatCmd where
  op : Nat
  par : List Byte
  lsp : List Byte
  owners : List Nat
  busyAt : Option Nat := none
  tried : Nat
  last : Bool := false
  asked : Bool := false
  heard : Option Nat := none
  deriving DecidableEq, Repr

/-- The legacy bridge beside its registers (R415-R423): the personalities; when the start window began; P and PITCH of the
job; its native commands, in order; the highest repeat bound to a band; whether JOB_LAST has been set to end the job, and
whose SPIT runs, with its LSP packet; the offsets that SET_OFFSET has given (4 x personality + ink, R420); the packets of the START that
opened the window, of the last LOAD_BAND and of what ended the job; when packets were discarded
and words dropped in the last second (R426). -/
structure Bridge where
  pers : Tab Pers := []
  window : Option Nat := none
  pitch : Nat × Nat := (0, 0)
  queue : List NatCmd := []
  kLast : Option Nat := none
  ending : Bool := false
  spit : Option (List Nat × List Byte) := none
  ofsSet : List Nat := []
  startLsp : List Byte := List.replicate 8 0
  loadLsp : List Byte := List.replicate 8 0
  endLsp : List Byte := List.replicate 8 0
  discards : List Nat := []
  drops : List Nat := []
  deriving DecidableEq, Repr

/-- A DMA descriptor (spec/16_dma_and_compression.md R428). -/
structure DmaDesc where
  src : Nat := 0
  dst : Nat := 0
  srcLen : Nat := 64
  srcStride : Nat := 0
  dstLen : Nat := 64
  dstStride : Nat := 0
  srcLines : Nat := 1
  dstLines : Nat := 1
  next : Nat := 0
  srcSpace : Nat := 0
  dstSpace : Nat := 0
  req : Nat := 0
  reqEn : Bool := false
  burst : Nat := 64
  halfIrq : Bool := false
  fullIrq : Bool := false
  last : Bool := false
  tag : Nat := 0
  deriving DecidableEq, Repr

/-- A DMA channel beside its registers (R432-R437): the descriptor under way, its bytes not issued and landed, whether its
half interrupt has been raised, the address of a descriptor to be fetched, the address appended, port bytes taken but not
landed, whether it was PAUSED when it was stopped, and the bytes of paced bursts whose requests are spent and that have not landed. -/
structure DmaChan where
  desc : Option DmaDesc := none
  remain : Nat := 0
  acked : Nat := 0
  half : Bool := false
  fetch : Option Nat := none
  append : Option Nat := none
  kept : List Byte := []
  paused : Bool := false
  owed : Nat := 0
  deriving DecidableEq, Repr

/-- What the EVZ encoder has still to place in its output buffers (R441): a byte, a code of a width, or zero bits up to a
multiple of 8 bytes. -/
inductive EvzItem where
  | byte (b : Byte)
  | code (w c : Nat)
  | pad
  deriving DecidableEq, Repr

/-- An EVZ job (R443-R445): decompress, channels, address of the result record; the decoder; the encoder's block under
way and what it has still to place, the bits left in its output buffer and the bits not yet a whole byte; the output bytes
that wait for port 17; whether the input and the output chain have ended; buffers used; bytes in and out; and how it ended (status,
kind of error, offset). -/
structure EvzJob where
  dec : Bool
  inCh : Nat
  outCh : Nat
  result : Nat
  st : EvzDec := {}
  block : List Byte := []
  items : List EvzItem := []
  room : Nat := 0
  part : List Bool := []
  out : List Byte := []
  inEnd : Bool := false
  outEnd : Bool := false
  final : Bool := false
  bufs : Nat := 0
  blocks : Nat := 0
  raws : Nat := 0
  bytesIn : Nat := 0
  bytesOut : Nat := 0
  ended : Option (Nat × Nat × Nat) := none
  deriving DecidableEq, Repr

/-- The DMA engine beside its registers, but for its request counts: channels and the EVZ job. -/
structure Dma where
  chans : Tab DmaChan := []
  job : Option EvzJob := none
  deriving DecidableEq, Repr

/-- A record of a recording (spec/19_observation_and_test.md R497), continued ones joined, WEB and POS records one entry
each, with the instant it is due: TYPE 256 stands for a malformed block or record, 257 for a poisoned read. -/
structure RplRec where
  ty : Nat
  due : Nat
  body : List Byte
  deriving DecidableEq, Repr

/-- A replay beside its registers (R505-R510): the records to come, whether outputs follow, S of the SNAPSHOT, and the low word staged by the recorded writes. -/
structure Replay where
  recs : List RplRec := []
  outputs : Bool := false
  s0 : Nat := 0
  stage : Nat × Word := (0, 0)
  deriving DecidableEq, Repr

/-- The interface tests of TST_CTRL (R515, R516): when the test under way began; the encoder generator's counts or the pattern
generator's bits made since; TST_COUNT and the encoder's count as it began; the pattern generator's register, the bits it puts out in the
present tick, and the checker's reference (R295). -/
structure Tst where
  since : Nat := 0
  made : Nat := 0
  goal : Nat := 0
  start : Int := 0
  reg : Nat := 0
  out : List Bool := []
  ref : List Bool := []
  deriving DecidableEq, Repr

/-- Power, clocks, boot and thermal state beside the registers (spec/20_power_clocks_boot.md R523-R543): what holds the
device (0 nothing, 1 REFCLK, 2 a thermal trip, 3 no power); the instant of the last cold reset; the trip latch; BOOT_MODE as sampled, and as
its pins stand; whether a download is awaited; the image downloaded (IMAGE, VERSION, output version); the bytes of the image downloaded or running; whether the boot has
stopped; event 0x0E07 still to be posted; per sensor the last reading, since when it differs from its partner, and whether the last sample,
and the one before it, reached the trip threshold; whether the sensors have converted since power came; failures of AVSBus in a row, and the
transactions of the last row that made some; when a hot second was last counted; the fuses. -/
structure Power where
  pins : Nat := 0
  image : List Byte := []
  stopped : Bool := false
  dtsWas : Tab Bool := []
  dtsSeen : Bool := true
  avs : List AvsCmd := []
  fuses : Fuses := {}
  held : Nat := 0
  coldAt : Nat := 0
  latch : Bool := false
  mode : Nat := 0
  download : Bool := false
  loaded : Option (Nat × Nat × Nat) := none
  bootEvent : Option Nat := none
  dts : Tab Int := []
  dtsDiff : Tab (Option Nat) := []
  dtsHot : Tab Bool := []
  busFails : Nat := 0
  hotAt : Nat := 0
  deriving DecidableEq, Repr

/-- When rows that come at an interval fall due next (log entry 2): the core voltage's loop and its retry, the on-die sensors, the heads'
limits and temperatures, the umpire's oscillator, the temperature inputs; and when the standby cox was tested last. -/
structure Ticks where
  avs : Nat := 0
  avsRetry : Nat := 0
  dts : Nat := 0
  limit : Nat := 0
  temp : Nat := 0
  osc : Nat := 0
  inputs : Tab Nat := []
  stby : Nat := 0
  deriving DecidableEq, Repr

/-- The state of every unit but the head boards, the request lines, the legacy pins and the test access port. -/
structure Core where
  ump : Ump := {}
  heads : Tab Head := []
  test : Option TestRun := none
  ts : Tab TsIn := []
  gateRx : Tab GateRx := []
  lanes : Tab Lane := []
  groups : Tab Group := []
  out : List Msg := []
  regs : Tab Word := []
  now : Nat := 0
  posted : List EvRec := []
  lastRead : Nat := 0
  freeCtr : Nat := 0
  encs : Tab EncPort := []
  web : Web := {}
  cmps : Tab Cmp := []
  bars : Tab FireBar := []
  mem : Mem := {}
  hi : HostIf := {}
  job : Job := {}
  inks : Tab InkVer := []
  pipe : Pipe := {}
  pf : Proof := {}
  crew : Crew := {}
  cams : Tab CamPort := []
  log : Log := {}
  lg : Bridge := {}
  dma : Dma := {}
  rpl : Replay := {}
  tst : Tst := {}
  pwr : Power := {}
  clk : Clock := {}
  evs : Tab EvRec := []
  evsSec : Nat := 0
  evsCnt : Nat := 0
  ticks : Ticks := {}
  deriving DecidableEq, Repr

/-- A line that a head board receives or holds for its FIRE edge (spec/10_quill_head_link.md R283, R284): tag, RECIP,
the frames that its generation gives a copy, the copies announced (primary, mirror) that still arrive, frames decided (by frame: 0 open, 1 primary, 2 mirror, 3 lost),
frames that failed (2 x frame + copy), good mirror frames not yet needed (frame, bank, codes), the codes, the bank that
FH names, the frame that comes next of each copy, and whether each copy can come no more. -/
structure BoardLine where
  s16 : Nat
  recip : Nat
  need : Nat := 0
  p : Bool := false
  m : Bool := false
  frames : Tab Nat := []
  failed : List Nat := []
  held : List (Nat × Nat × List (Nat × Nat)) := []
  codes : Tab Code := []
  bank : Nat := 0
  np : Nat := 0
  nm : Nat := 0
  endP : Bool := false
  endM : Bool := false
  deriving DecidableEq, Repr

/-- A head board's part for one group (R275-R291): mode (0 AUTO, 1 MIRROR, 2 PRIMARY_ONLY); whether
the primary delivered a line since the last reset or SELECT; lines receiving, and the line awaiting its edge; the two trim
banks (bank x 512 + entry) and the loads that failed (bank x 2 + copy); heads by slot; waveform tables in force and to
come (head: S16 and table); records in non-volatile memory; taps as acknowledged with RESULT; loopback depth;
uncorrectable codewords since the last STATUS and since the last LINK; figure of merit; the last request made in ACTIVE;
nozzles as last fired: nozzle-in-group, code, delay in 1.25 ns and waveform table. -/
structure Board where
  mode : Nat := 0
  delivered : Bool := false
  recv : List BoardLine := []
  await : Option BoardLine := none
  banks : Tab Nat := []
  badLoad : Tab Bool := []
  slots : Tab (Option Nat) := []
  waves : Tab Nat := []
  waveNext : List (Nat × Nat × Nat) := []
  records : Tab (List Byte) := []
  taps : Nat × Nat × Nat := (2, 6, 55)
  atLimit : Bool := false
  loop : Nat := 0
  uncS : Nat := 0
  uncL : Nat := 0
  fom : Nat := 0
  tapAt : Option Nat := none
  fired : List (Nat × Nat × Nat × Nat) := []
  deriving DecidableEq, Repr

/-- The head boards by group, their downstream receivers and upstream transmitters by lane, and the blocks and codewords they have
sent upstream, newest first. -/
structure Boards where
  tab : Tab Board := []
  rx : Tab LaneRx := []
  tx : Tab LaneTx := []
  out : List Msg := []
  deriving DecidableEq, Repr

/-- The legacy ports (spec/15_lh460_compatibility.md R402-R406): LDADR, the words in each personality's FIFO and when the
bridge last took one; the reply that waits, when it is ready and how many of its bits have been clocked out; the bits that
LSDO last gave; LDACK_N low; whether bits are discarded up to the next idle gap (R402). -/
structure LegPorts where
  ldadr : Nat := 0
  fifos : Tab (List (BitVec 16)) := []
  last : Nat := 0
  reply : Option (List Byte) := none
  readyAt : Nat := 0
  shifted : Nat := 0
  lsdo : List Bool := []
  ack : Bool := false
  skip : Bool := false
  deriving DecidableEq, Repr

/-- The test access port (spec/19_observation_and_test.md R519): the instruction in its register. -/
structure Tap where
  instr : TapInstr := .idcode
  cells : List BsCell := []
  seen : List BsCell := []
  deriving DecidableEq, Repr

/-- The state of the block: the commands waiting, first in, first out, and the units; `reqs` counts the
requests of each DMA request line (spec/16_dma_and_compression.md R430). -/
structure State where
  pending : List Instr := []
  core : Core := {}
  boards : Boards := {}
  leg : LegPorts := {}
  reqs : Tab Nat := []
  tap : Tap := {}
  deriving DecidableEq, Repr

/-- The state right after reset. -/
def State.reset : State := {}

end Sys2Proof.Machine
end

