-- ==== Sys2Proof/Machine/Ops.lean ====
section
/-!
DEFINITION. The named operations over registers, time, memory and free values that every meaning is built on.
-/

namespace Sys2Proof.Machine

/-! ### Registers -/

/-- The word of a register. -/
def Core.r (c : Core) (off : Nat) : Word := Tab.get regReset c.regs off

/-- The value of a register as a number. -/
def Core.n (c : Core) (off : Nat) : Nat := (c.r off).toNat

/-- The value of a register as a signed number of 32 bits. -/
def Core.i (c : Core) (off : Nat) : Int := (c.r off).toInt

def Core.setR (c : Core) (off : Nat) (w : Word) : Core :=
  { c with regs := Tab.set regReset c.regs off w }

/-- A register set to the low 32 bits of a number. -/
def Core.setN (c : Core) (off v : Nat) : Core := c.setR off (BitVec.ofNat 32 v)

/-- A register set to the low 32 bits of an integer. -/
def Core.setI (c : Core) (off : Nat) (v : Int) : Core := c.setR off (BitVec.ofInt 32 v)

/-- A counter register advanced (it wraps at 32 bits). -/
def Core.inc (c : Core) (off : Nat) : Core := c.setR off (c.r off + 1)

def Core.addN (c : Core) (off v : Nat) : Core := c.setR off (c.r off + BitVec.ofNat 32 v)

/-- The value of a field. -/
def Core.f (c : Core) (x : Fld) : Nat := bits (c.n x.off) x.lo x.wid

/-- The value of a one-bit field. -/
def Core.fb (c : Core) (x : Fld) : Bool := c.f x ≠ 0

/-- The value of a field as a signed number of its width. -/
def Core.fs (c : Core) (x : Fld) : Int := sext x.wid (c.f x)

def Core.setF (c : Core) (x : Fld) (v : Nat) : Core :=
  c.setR x.off (BitVec.ofNat 32 (setBits (c.n x.off) x.lo x.wid v))

def Core.setB (c : Core) (x : Fld) (v : Bool) : Core := c.setF x (b2n v)

/-- A 64-bit register, by the offset of its _LO word. -/
def Core.n64 (c : Core) (lo : Nat) : Nat := c.n lo + c.n (lo + 4) * 2 ^ 32

def Core.i64 (c : Core) (lo : Nat) : Int := sext 64 (c.n64 lo)

def Core.set64 (c : Core) (lo v : Nat) : Core := (c.setN lo v).setN (lo + 4) (v / 2 ^ 32)

/-- A performance counter advanced (spec/19_observation_and_test.md R512); a chained odd counter counts the carries of
the even one below it in place of its own event (R513). -/
def Core.perfAdd (c : Core) (i n : Nat) : Core :=
  let chained := fun (e : Nat) => bit (c.n (R.PERF_CHAIN (e / 32))) (e % 32)
  if i % 2 = 1 then (if chained (i - 1) then c else c.addN (R.PERF_CNT i) n)
  else
    let v := c.n (R.PERF_CNT i) + n
    let c' := c.setN (R.PERF_CNT i) v
    if chained i then c'.addN (R.PERF_CNT (i + 1)) (v / 2 ^ 32) else c'

def Core.perf (c : Core) (i : Nat) : Core := c.perfAdd i 1

/-! ### Units held in tables -/

def Core.enc (c : Core) (n : Nat) : EncPort := Tab.get (fun _ => {}) c.encs n
def Core.setEnc (c : Core) (n : Nat) (e : EncPort) : Core := { c with encs := Tab.set (fun _ => {}) c.encs n e }
def Core.cmp (c : Core) (n : Nat) : Cmp := Tab.get (fun _ => {}) c.cmps n
def Core.setCmp (c : Core) (n : Nat) (e : Cmp) : Core := { c with cmps := Tab.set (fun _ => {}) c.cmps n e }
def Core.bar (c : Core) (n : Nat) : FireBar := Tab.get (fun _ => {}) c.bars n
def Core.setBar (c : Core) (n : Nat) (e : FireBar) : Core := { c with bars := Tab.set (fun _ => {}) c.bars n e }
def Core.cam (c : Core) (n : Nat) : CamPort := Tab.get (fun _ => {}) c.cams n
def Core.setCam (c : Core) (n : Nat) (e : CamPort) : Core := { c with cams := Tab.set (fun _ => {}) c.cams n e }
def Core.sq (c : Core) (n : Nat) : Sq := Tab.get (fun _ => {}) c.hi.sqs n
def Core.setSq (c : Core) (n : Nat) (q : Sq) : Core :=
  { c with hi := { c.hi with sqs := Tab.set (fun _ => {}) c.hi.sqs n q } }
def Core.cq (c : Core) (n : Nat) : Cq := Tab.get (fun _ => {}) c.hi.cqs n
def Core.setCq (c : Core) (n : Nat) (q : Cq) : Core :=
  { c with hi := { c.hi with cqs := Tab.set (fun _ => {}) c.hi.cqs n q } }

/-- The core after an operation for each number below `n`, in order. -/
def Core.each (c : Core) (n : Nat) (op : Nat → Core → Core) : Core :=
  (List.range n).foldl (fun c i => op i c) c

/-- The core after an operation for each element of a list, in order. -/
def Core.eachOf {α : Type} (c : Core) (l : List α) (op : α → Core → Core) : Core :=
  l.foldl (fun c a => op a c) c

/-! ### Time -/

/-- Units of 1.25 ns in a microsecond. -/
def usec : Nat := 800

def msec : Nat := 800000

def sec : Nat := 800000000

/-- When an occurrence with a period falls due after one that was due at `at_` (log entries 2, 62). -/
def nextDue (at_ period now : Nat) : Nat := (if at_ + period ≤ now then now else at_) + period

/-- The increment a tick of the 100 MHz clock in 2^-32 ns (spec/17_time_and_crew.md R448). -/
def Core.timeInc (c : Core) : Nat := c.f F.TIME_INC_NS_NS * 2 ^ 32 + c.n R.TIME_INC_FRAC

/-- The local time at this instant in 2^-32 ns, interpolated from the 400 MHz phase (R449). -/
def Core.stamp (c : Core) : Nat := (c.clk.time + c.timeInc * (c.now % 8) / 8) % 2 ^ 96

/-- The time stamp of an encoder count, 7.5 ns before its capture (R451). -/
def Core.edgeT32 (c : Core) : Nat := (c.stamp + 2 ^ 96 - 15 * 2 ^ 31) / 2 ^ 32 % 2 ^ 32

/-- The time stamp of an instant (R449): the low 32 bits of the local time in ns. -/
def Core.t32 (c : Core) : Nat := c.stamp / 2 ^ 32 % 2 ^ 32

/-- A fresh free value (log entry 3). -/
def Core.free (c : Core) : Nat × Core :=
  ((Config.freeWord c.freeCtr).toNat, { c with freeCtr := c.freeCtr + 1 })

/-- A message put out on a port or lane: the model's observation of it. -/
def Core.emit (c : Core) (port kind : Nat) (fields : List Int) : Core := { c with out := ⟨port, kind, fields⟩ :: c.out }

/-! ### Device state -/

/-- A FIRE output forced inactive (spec/03_firing.md R86). -/
def Core.fireOff (c : Core) (b : Nat) : Core := c.setBar b { c.bar b with active := false }

/-- Every FIRE output forced inactive (spec/03_firing.md R86). -/
def Core.firesOff (c : Core) : Core := c.each 16 fun b c => c.fireOff b

def stBoot : Nat := 0
def stIdle : Nat := 1
def stReady : Nat := 2
def stArmed : Nat := 3
def stPrinting : Nat := 4
def stHold : Nat := 5
def stService : Nat := 6
def stReplay : Nat := 7
def stSafe : Nat := 8

/-- The device state (spec/13_host_and_command_protocol.md R368); while a replay runs, the recorded one
(spec/19_observation_and_test.md R506). -/
def Core.st (c : Core) : Nat := c.f F.DEV_STATE_STATE

/-- A replay runs. -/
def Core.replay (c : Core) : Bool := c.log.replay

/-- The state that DEV_STATE reports and commands are judged by (R506). -/
def Core.devState (c : Core) : Nat := if c.replay then stReplay else c.st

/-- In a replay without OUTPUTS no line or edge leaves the device (R508). -/
def Core.muted (c : Core) : Bool := c.replay && !c.rpl.outputs

/-- A message put out on a quill lane, which carries IDLE instead in a replay without OUTPUTS (R508). -/
def Core.laneEmit (c : Core) (port kind : Nat) (fields : List Int) : Core := if c.muted then c else c.emit port kind fields

/-- The states in which a job runs. -/
def Core.running (c : Core) : Bool := c.st == stPrinting || c.st == stHold

/-! ### Host memory -/

def Core.rdHost (c : Core) (a n : Nat) : List Byte := Tab.getList (fun _ => 0) c.hi.host a n

def Core.wrHost (c : Core) (a : Nat) (l : List Byte) : Core :=
  { c with hi := { c.hi with host := Tab.setList (fun _ => 0) c.hi.host a l } }

/-- A PCIe posted write to host memory, counted (spec/19_observation_and_test.md R512). -/
def Core.pushHost (c : Core) (a : Nat) (l : List Byte) : Core := (c.wrHost a l).perf 205

/-! ### DRAM (spec/12_memory.md R321, R333, R574) -/

/-- Bytes of the DRAM address space: C - M (R321), 0 before the memory is ready. -/
def Core.dramTop (c : Core) : Nat := if c.f F.MEM_STAT_INIT = 2 then c.f F.MEM_SIZE_GIB * 2 ^ 30 else 0

/-- Bytes of the mirrored region: M (R321). -/
def Core.mirTop (c : Core) : Nat :=
  min (bits (Tab.get regReset c.mem.cfg R.MEM_MIR_SIZE).toNat 0 9 * 2 ^ 30) c.dramTop

def Core.isPoison (c : Core) (burst : Nat) : Bool := Tab.get (fun _ => false) c.mem.poison burst

/-- No burst of the range is poisoned or beyond the address space. -/
def Core.goodRange (c : Core) (pa n : Nat) : Bool :=
  pa + n ≤ c.dramTop &&
    c.mem.poison.all (fun p => !(p.2 && pa < 64 * p.1 + 64 && 64 * p.1 < pa + n))

/-- The bytes of a DRAM range; none where a burst of it is poisoned or decodes at or above C - M. -/
def Core.rd (c : Core) (pa n : Nat) : Option (List Byte) :=
  if c.goodRange pa n then some (Tab.getList (fun _ => 0) c.mem.dram pa n) else none

/-- Clear the poison of every burst that the range covers whole (R574). -/
def clearPoison (p : Tab Bool) (pa n : Nat) : Tab Bool :=
  p.filter (fun q => !(pa ≤ 64 * q.1 && 64 * q.1 + 64 ≤ pa + n))

/-- Bytes written to DRAM, on both copies in the mirrored region; at or above C - M nothing is written (R324). -/
def Core.wr (c : Core) (pa : Nat) (l : List Byte) : Core :=
  let l := l.take (c.dramTop - pa)
  { c with mem := { c.mem with dram := Tab.setList (fun _ => 0) c.mem.dram pa l
                               poison := clearPoison c.mem.poison pa l.length } }

/-- An access of a requester for the channels to issue (R325). -/
def Core.touchAs (c : Core) (who : Nat × MemClass) (pa n : Nat) (write : Bool) (twin : Bool := false) : Core :=
  { c with mem := { c.mem with
    todo := { req := who.1, cls := who.2, pa := pa, n := n, write := write, twin := twin, t := c.now } :: c.mem.todo } }

/-- An access of the requester at work; the host's aperture where none is. -/
def Core.touch (c : Core) (pa n : Nat) (write : Bool) : Core := c.touchAs (c.mem.last.getD (56, .be)) pa n write

/-- The logbook's writes: requester 52, class CTL (R325). -/
def Core.logWr (c : Core) (pa : Nat) (l : List Byte) : Core := (c.wr pa l).touchAs (52, .ctl) pa l.length true

/-- A range of DRAM written with zeros. -/
def Core.zeroDram (c : Core) (pa n : Nat) : Core :=
  { c with mem := { c.mem with dram := c.mem.dram.filter fun e => !(decide (pa ≤ e.1) && decide (e.1 < pa + n))
                               poison := clearPoison c.mem.poison pa n } }.touch pa n true

/-! ### The logbook (spec/19_observation_and_test.md R496, R497) -/

def Core.segBase (c : Core) : Nat := c.n64 R.LOG_BASE_LO + c.n R.LOG_WR / 2 ^ 20 * 2 ^ 20

/-- The 64-byte segment header, as it stands. -/
def Core.segHeader (c : Core) (firstT32 firstS firstRec lastT32 used : Nat) (snap : Bool) : List Byte :=
  [0x45, 0x56, 0x4C, 0x47] ++ leBytes 4 (c.n R.LOG_SEG_SEQ) ++ leBytes 4 (c.n R.UMP_EVS_BOOT) ++
    leBytes 4 firstT32 ++ leBytes 6 firstS ++ leBytes 2 (b2n snap) ++ leBytes 8 firstRec ++ leBytes 4 used ++
    leBytes 4 lastT32 ++ List.replicate 24 0

/-- The rest of the present segment filled with zeros. -/
def Core.segZero (c : Core) : Core :=
  c.logWr (c.segBase + c.log.segUsed) (List.replicate (2 ^ 20 - c.log.segUsed) 0)

/-- The ring's pointers moved to the next segment; once the ring has wrapped the oldest one follows. -/
def Core.segAdvance (c : Core) : Core :=
  let size := c.f F.LOG_SIZE_MIB * 2 ^ 20
  let ofs := if size = 0 then 0 else (c.n R.LOG_WR / 2 ^ 20 * 2 ^ 20 + 2 ^ 20) % size
  let d := (c.setN R.LOG_WR ofs).inc R.LOG_SEG_SEQ
  if d.n R.LOG_SEG_SEQ * 2 ^ 20 ≥ size ∧ size ≠ 0 then d.setN R.LOG_OLDEST ((ofs + 2 ^ 20) % size) else d

/-- The bytes used of the present segment. -/
def Core.setUsed (c : Core) (n : Nat) : Core := { c with log := { c.log with segUsed := n } }

/-- Go to the next segment: zero-fill the rest of the present one. -/
def Core.nextSeg (c : Core) : Core := c.segZero.segAdvance.setUsed 0

/-- Room for a block of up to 65,544 bytes; a SNAPSHOT begins a segment. -/
def Core.segRoom (c : Core) : Core :=
  if c.log.segUsed ≠ 0 ∧ (c.log.snapNext ∨ 2 ^ 20 - c.log.segUsed < 65544) then c.nextSeg else c

/-- Where a block goes in its segment. -/
def Core.blkAt (c : Core) : Nat := if c.log.segUsed = 0 then 64 else c.log.segUsed

/-- The segment header with a block that ends at `used`. -/
def Core.headerNow (c : Core) (used : Nat) : List Byte :=
  if c.log.segUsed = 0 then
    c.segHeader c.log.blkT32 c.log.blkS (c.n R.LOG_REC_CNT - c.log.blkRecs) c.log.lastT32 used c.log.snapNext
  else slice ((c.rd c.segBase 64).getD []) 0 32 ++ leBytes 4 used ++ leBytes 4 c.log.lastT32 ++ List.replicate 24 0

/-- A coded block and its segment's header written. -/
def Core.blkWrite (c : Core) (enc : List Byte) : Core :=
  (c.logWr c.segBase (c.headerNow (c.blkAt + enc.length))).logWr (c.segBase + c.blkAt) enc

/-- LOG_WR moved past a block, and its bytes counted. -/
def Core.blkCount (c : Core) (n : Nat) : Core :=
  (c.setN R.LOG_WR (c.n R.LOG_WR / 2 ^ 20 * 2 ^ 20 + (c.blkAt + n))).perfAdd 228
    ((c.log.outTot + n) / 64 - c.log.outTot / 64)

/-- The open block, of `n` bytes as coded, is empty again. -/
def Core.blkDone (c : Core) (n : Nat) : Core :=
  { c with log := { c.log with blk := [], blkRecs := 0, segUsed := c.blkAt + n, snapNext := false
                               wrote := (c.segBase + c.blkAt, n, c.log.blkRecs, c.log.blkT32)
                               outSec := c.log.outSec + n, outTot := c.log.outTot + n } }

/-- Close the open block: one EVZ block written to the ring (R497). -/
def Core.logClose (c : Core) : Core :=
  if c.log.blk = [] then c
  else
    let enc := evzBlock false c.log.blk
    ((c.segRoom.blkWrite enc).blkCount enc.length).blkDone enc.length

/-- The logbook runs and records (R503: nothing is recorded in REPLAY). -/
def Core.logging (c : Core) : Bool := c.fb F.LOG_CFG_RUN && !c.replay

/-- The bytes of a record (R497). -/
def logBytes (ty : Nat) (more : Bool) (t : Nat) (payload : List Byte) : List Byte :=
  let body := padTo 8 payload
  leBytes 1 ty ++ leBytes 1 (b2n more) ++ leBytes 2 (8 + body.length) ++ leBytes 4 t ++ body

/-- The open block is closed where `n` bytes more would not fit. -/
def Core.logSpace (c : Core) (n : Nat) : Core := if c.log.blk.length + n > 65536 then c.logClose else c

/-- A record of `n` bytes counted. -/
def Core.logCount (c : Core) (n : Nat) : Core :=
  ((c.inc R.LOG_REC_CNT).perf 226).perfAdd 227 ((c.log.inTot + n) / 64 - c.log.inTot / 64)

/-- A record's bytes at the end of the open block, with its T32, S and instant. -/
def Core.logAppend (c : Core) (l : List Byte) (t32 s now : Nat) : Core :=
  { c with log := { c.log with
      blk := c.log.blk ++ l
      blkRecs := c.log.blkRecs + 1
      blkStart := if c.log.blk = [] then now else c.log.blkStart
      blkT32 := if c.log.blk = [] then t32 else c.log.blkT32
      blkS := if c.log.blk = [] then s else c.log.blkS
      lastT32 := t32
      inSec := c.log.inSec + l.length
      inTot := c.log.inTot + l.length } }

/-- One record of at most 65,528 bytes put into the open block, which is closed first where it would not fit; its T32, S and instant are
those of now, or of the first entry of a WEB record. -/
def Core.logPut (c : Core) (ty : Nat) (more : Bool) (payload : List Byte) (t : Option (Nat × Nat × Nat) := none) : Core :=
  let (t32, s, now) := t.getD (c.t32, c.web.s, c.now)
  let l := logBytes ty more t32 payload
  ((c.logSpace l.length).logCount l.length).logAppend l t32 s now

/-- A record, continued over several where it is long, with fuel. -/
def Core.logParts : Nat → Core → Nat → List Byte → Core
  | 0, c, _, _ => c
  | k + 1, c, ty, l =>
    if l.length ≤ 65520 then c.logPut ty false l
    else Core.logParts k (c.logPut ty true (l.take 65520)) ty (l.drop 65520)

/-- A GAP record where records were lost (R502). -/
def Core.logGap (c : Core) : Core :=
  if c.log.lost ≠ 0 then
    ({ c with log := { c.log with lost := 0 } } : Core).logPut 0x1B false (leBytes 4 c.log.lost ++ leBytes 4 c.log.lostT32)
  else c

/-- Records lost, the first of them of a T32: counted, a GAP is due, and 0x0A22 (R502). -/
def Core.logDrop (c : Core) (k t32 : Nat) : Core :=
  let c := (c.addN R.LOG_LOST_CNT k).perfAdd 229 k
  { c with log := { c.log with
      full := false, lost := c.log.lost + k, lostDue := true
      lostAt := (c.now, k) :: c.log.lostAt.filter fun x => c.now < x.1 + sec
      lostT32 := if c.log.lost = 0 then t32 else c.log.lostT32 } }

/-- The gathered WEB entries taken. -/
def Core.webTaken (c : Core) : Core := { c with log := { c.log with web := [] } }

/-- The pending WEB entries as a record (R499), lost where it finds the buffer full, else after the GAP that is due (R502). -/
def Core.logWebFlush (c : Core) : Core :=
  if c.log.web = [] then c
  else if c.log.full then c.webTaken.logDrop 1 c.log.webT32
  else c.webTaken.logGap.logPut 2 false (c.log.web.flatMap (leBytes 2)) (some (c.log.webT32, c.log.webS, c.log.webAt))

/-- The offsets of a row's registers that hold RW or RWC fields. -/
def RegRow.writable (r : RegRow) : List Nat :=
  if r.flds.any fun f => f.acc == .rw || f.acc == .rwc then
    (List.range r.count).flatMap fun i => (List.range r.count2).map fun j => r.base + i * r.stride + j * r.stride2
  else []

/-- The rows of the blocks that a SNAPSHOT holds. -/
def snapRows : List RegRow :=
  rowsWeb ++ rowsFire ++ rowsLayer ++ rowsScale ++ rowsScreen ++ rowsNib ++ rowsProof ++ rowsQuill ++ rowsHeads ++ rowsCrew

def snapOffs : List Nat := snapRows.flatMap RegRow.writable

/-- A table of words as index-value pairs. -/
def tabBytes (n : Nat) (t : Tab Word) : List Byte := t.flatMap fun e => leBytes 4 e.1 ++ leBytes n e.2.toNat

def MapRun.bytes (r : MapRun) : List Byte :=
  leBytes 4 (r.start + b2n r.cstep2 * 2 ^ 21) ++ leBytes 2 (r.count - 1 + b2n r.idir * 2 ^ 15) ++ leBytes 2 r.hg ++
    leBytes 2 r.iStart ++ leBytes 2 r.head ++ leBytes 4 0

/-- The tables of a generation or of the shadow, with the entries that differ from reset. -/
def Tables.bytes (t : Tables) : List Byte :=
  let nat := fun (u : Tab Nat) => leBytes 4 u.length ++ u.flatMap fun e => leBytes 4 e.1 ++ leBytes 2 e.2
  leBytes 4 t.nz.length ++ tabBytes 4 t.nz ++ leBytes 4 t.seg.length ++ tabBytes 4 t.seg ++
    leBytes 4 t.map.length ++ t.map.flatMap MapRun.bytes ++ nat t.lattice ++ nat t.curves ++ leBytes 4 t.screens.length ++
    t.screens.flatMap fun e => leBytes 1 e.1 ++ leBytes 2 e.2.w ++ leBytes 2 e.2.h ++ e.2.thr.flatMap (leBytes 2)

/-- The valid calibration sets of a configuration: index and base. -/
def setsOf (regs : Tab Word) : List (Nat × Nat) :=
  ((List.range 4).filter fun j =>
    bits (Tab.get regReset regs (F.NZ_TSET_TEMP_VALID j).off).toNat (F.NZ_TSET_TEMP_VALID j).lo 1 = 1).map fun j =>
    (j, (Tab.get regReset regs (R.NZ_TSET_BASE_LO j)).toNat + (Tab.get regReset regs (R.NZ_TSET_BASE_LO j + 4)).toNat * 2 ^ 32)

/-- The calibration sets in a SNAPSHOT, in force and, where it differs, of the shadow (index + 4): index, base and bytes (8 MiB of nozzle
words). -/
def Core.snapSets (c : Core) (g : Gen) : List Byte :=
  let force := setsOf g.regs
  let all := force ++ ((setsOf c.regs).filter fun x => !force.contains x).map fun x => (x.1 + 4, x.2)
  leBytes 4 all.length ++ all.flatMap fun x =>
    leBytes 4 x.1 ++ leBytes 8 x.2 ++ (c.rd x.2 (8 * 2 ^ 20)).getD (List.replicate (8 * 2 ^ 20) 0)

/-- What a SNAPSHOT holds (R498); a flag before the shadow's tables says whether they follow. -/
def Core.snapBody (c : Core) : List Byte :=
  let g := c.job.gens.headD c.job.force
  let regs := snapOffs.flatMap fun o => leBytes 4 o ++ leBytes 4 (c.n o)
  let heads := (List.range 1024).flatMap fun h =>
    let u := Tab.get (fun _ => {}) c.heads h
    leBytes 2 (c.f (F.HH_THETA_THETA h)) ++ leBytes 1 (b2n (u.blankTemp || u.blankLane || u.blankAuth))
  leBytes 6 c.web.s ++ leBytes 1 c.st ++ leBytes 4 (c.n R.DEV_NIB_OUT) ++ regs ++ g.tabs.bytes ++
    (if c.job.shadow = g.tabs then [0] else 1 :: c.job.shadow.bytes) ++ c.snapSets g ++ heads

/-- The next block begins a segment with a SNAPSHOT. -/
def Core.snapMark (c : Core) : Core := { c with log := { c.log with snapNext := true, snapDue := false } }

/-- The folds of a signature block: its mask, and FOLD_b of the bars that transmitted (R501). -/
def Core.sigFolds (c : Core) : List Byte :=
  let fold := fun b => if bit c.log.sigMask b then
      (BitVec.ofNat 32 0xFFFFFFFF ^^^ Tab.get (fun _ => 0xFFFFFFFF) c.log.sigFold b).toNat else 0
  leBytes 2 c.log.sigMask ++ (List.range 16).flatMap fun b => leBytes 4 (fold b)

/-- A signature block begins with the next stroke. -/
def Core.sigBegin (c : Core) : Core := { c with log := { c.log with sigS0 := c.web.s + 1, sigMask := 0, sigFold := [] } }

/-- The signature block closed: its SIG record, and the next one begins. -/
def Core.sigClose (c : Core) : Core := (c.logPut 0x18 false (leBytes 6 c.log.sigS0 ++ c.sigFolds)).sigBegin

/-- Before a SNAPSHOT a signature block in which a bar transmitted is closed, so that a replay from the SNAPSHOT compares whole blocks
(log entry 72). -/
def Core.sigEnd (c : Core) : Core := if c.log.sigMask = 0 then c.sigBegin else c.sigClose

/-- SNAPSHOT in a new segment. -/
def Core.logSnap (c : Core) : Core :=
  let d := c.logWebFlush.logGap.sigEnd.logClose.snapMark
  Core.logParts (d.snapBody.length / 65520 + 1) d 1 d.snapBody

/-- The SNAPSHOT with which recording resumes after a replay (R503). -/
def Core.logSnapDue (c : Core) (isSnap : Bool) : Core := if c.log.snapDue && !isSnap then c.logSnap else c

/-- A decision or a reply of a replay kept until the recorded one comes (R507). -/
def Core.logOwn (c : Core) (ty : Nat) (payload : List Byte) : Core :=
  { c with log := { c.log with own := c.log.own ++ [(ty, c.now, payload)] } }

/-- A record put into the buffer, after the GAP that is due; but for a SNAPSHOT one that finds the buffer full is lost (R502). -/
def Core.logItem (c : Core) (ty : Nat) (payload : List Byte) : Core :=
  if c.log.full ∧ ty ≠ 1 then c.logDrop 1 c.t32 else Core.logParts (payload.length / 65520 + 1) c.logGap ty payload

/-- A record of the logbook (R498), preceded by the WEB entries gathered. In REPLAY nothing is recorded (R503): a decision or a reply waits for the recorded one (R507). -/
def Core.logRec (c : Core) (ty : Nat) (payload : List Byte) : Core :=
  if c.replay then
    if ty = 6 ∨ (0x0B ≤ ty ∧ ty ≤ 0x11) then c.logOwn ty payload else c
  else if c.logging then
    (c.logSnapDue (ty == 1)).logWebFlush.logItem ty payload
  else c

/-- The TEMP records that are due: each 1 ms after its head's last, and none where the temperature is again the one recorded (R498). -/
def Core.tempsDue (c : Core) : Core :=
  let ready := fun h =>
    let last := (Tab.get (fun _ => (0, 0)) c.log.temps h).1
    last == 0 || decide (last + msec ≤ c.now + 1)
  let now := c.log.tempDue.filter ready
  let c := { c with log := { c.log with tempDue := c.log.tempDue.filter fun h => !ready h } }
  c.eachOf now fun h c =>
    let v := c.f (F.HH_THETA_THETA h)
    let last := Tab.get (fun _ => (0, 0)) c.log.temps h
    if last.1 ≠ 0 ∧ last.2 = v then c
    else { c with log := { c.log with temps := Tab.set (fun _ => (0, 0)) c.log.temps h (c.now + 1, v) } }.logRec 0x12
      (leBytes 2 h ++ leBytes 2 v)

/-- A host write to a register goes to the logbook, but for the LOG and PERF blocks (R498). -/
def Core.logRegw (c : Core) (off : Nat) (v : Word) : Core :=
  if off / 0x10000 = 0x12 ∨ off / 0x10000 = 0x13 then c else c.logRec 7 (leBytes 4 off ++ leBytes 4 v.toNat)

/-! ### Access violations (spec/00_scope.md R5, spec/13_host_and_command_protocol.md R350) -/

/-- The BAR field of HI_VIOL_ADDR. -/
def barCode : Bar → Nat
  | .bar0 => 0
  | .bar2 => 1
  | .bar4 => 2

/-- A violation counted and reported. -/
def Core.violate (c : Core) (bar : Bar) (off : Nat) (write : Bool) : Core :=
  let c := (c.inc R.DEV_VIOL_CNT).perf 207
  c.setN R.HI_VIOL_ADDR (off % 2 ^ 26 + barCode bar * 2 ^ 26 + b2n write * 2 ^ 28)

/-- In BOOT only the DEV, CMDQ, UMPIRE and PWR/CLK blocks answer (spec/21_register_map.md R549). -/
def Core.blockAnswers (c : Core) (off : Nat) : Bool :=
  c.st != stBoot || [0, 1, 0x11, 0x14].contains (off / 0x10000)

/-- A write of a word with a 1 in a reserved field of a listed register is counted as an access to that field (R5, log
entry 48); its other fields are written. -/
def Core.resvNote (c : Core) (off : Nat) (v : Word) : Core :=
  match regRow off with
  | some r => if v.toNat &&& r.resv = 0 then c else c.violate .bar0 off true
  | none => c

/-- The requester of a window is cut off the fabric: the active cox, while its isolation switch is open
(spec/18_fault_tolerance.md R474). -/
def Core.winCut (c : Core) (w : Win) : Bool := w == .cox && bit (c.f F.UMP_ISOL_COX_COX) (c.f F.UMP_STAT_ACTIVE_COX)

/-- A requester of the DRAM whose isolation switch is open: a nib or a cox (spec/18_fault_tolerance.md R474). -/
def Core.reqCut (c : Core) (req : Nat) : Bool :=
  (decide (req < 18) && bit (c.f F.UMP_ISOL_NIB_NIB) req) ||
    ((req == 50 || req == 51) && bit (c.f F.UMP_ISOL_COX_COX) (req - 50))

/-- A write of a register whose effect is `act`: recorded when the host makes it; a violation where the block does not
answer. A device that is held (spec/20_power_clocks_boot.md R530, R543) answers nothing, and an isolated cox reaches none. -/
def Core.hostReg (c : Core) (w : Win) (off : Nat) (v : Word) (act : Core → Core) : Core :=
  if c.pwr.held ≠ 0 ∨ c.winCut w then c
  else if c.blockAnswers off then
    let c := c.resvNote off v
    act (if w = .cox then c else c.logRegw off v)
  else c.violate .bar0 off true

/-! ### MSI-X (spec/13_host_and_command_protocol.md R374, R375) -/

/-- A vector sends no message: it or the function is masked, or the function is in D3hot
(spec/13_host_and_command_protocol.md R348). -/
def Core.vecMasked (c : Core) (v : Nat) : Bool := bit (c.n (R.MSIX_CTRL v)) 0 || c.hi.funcMask || c.hi.d3hot

/-- Fire a vector: the message is sent, or the pending bit set while the vector is masked. -/
def Core.fireVec (c : Core) (v : Nat) : Core :=
  if c.vecMasked v then
    c.setN (R.MSIX_PBA (v / 32)) (setBits (c.n (R.MSIX_PBA (v / 32))) (v % 32) 1 1)
  else ({ c with hi := { c.hi with sent := v :: c.hi.sent } }.perf 203).perf 205

/-- Unmask: a pending vector fires. -/
def Core.unmaskVec (c : Core) (v : Nat) : Core :=
  if bit (c.n (R.MSIX_PBA (v / 32))) (v % 32) && !c.vecMasked v then
    (c.setN (R.MSIX_PBA (v / 32)) (setBits (c.n (R.MSIX_PBA (v / 32))) (v % 32) 1 0)).fireVec v
  else c

/-! ### Event records (spec/00_scope.md R6-R9, spec/13_host_and_command_protocol.md R373, R374) -/

/-- No image line (R7). -/
def noLine : Nat := 0xFFFFFFFFFFFF

def EvRec.defect (e : EvRec) : Bool := bit e.src 15

/-- The 32 bytes of a record (R6). -/
def EvRec.bytes (e : EvRec) : List Byte :=
  leBytes 4 e.t32 ++ leBytes 6 e.s ++ leBytes 6 e.line ++ leBytes 8 (wrap 64 e.pos) ++ leBytes 2 e.code ++
    leBytes 2 e.src ++ leBytes 4 e.data

/-- The event ring's source fires: at once, or after COUNT unsignalled records (R374). -/
def Core.evSignal (c : Core) (atOnce : Bool) : Core :=
  if c.fb F.EV_CFG_IRQ_EN then
    let n := c.hi.evUnsig + 1
    if atOnce ∨ n ≥ max 1 (c.f F.EV_CFG_COUNT) then
      { c with hi := { c.hi with evUnsig := 0 } }.fireVec (c.f F.EV_CFG_VEC)
    else
      { c with hi := { c.hi with evUnsig := n
                                 evFirst := if c.hi.evUnsig = 0 then c.now else c.hi.evFirst } }
  else c

/-- The slots of the event ring. -/
def Core.evSize (c : Core) : Nat := max 1 (c.f F.EV_SIZE_ENTRIES)

/-- The record's bytes in the ring. -/
def Core.evStoreAt (c : Core) (e : EvRec) : Core := c.pushHost (c.n64 R.EV_BASE_LO + 32 * c.f F.EV_TAIL_TAIL) e.bytes

/-- EV_TAIL past a record, and its copy in host memory. -/
def Core.evNext (c : Core) : Core :=
  let t := (c.f F.EV_TAIL_TAIL + 1) % c.evSize
  ((c.setF F.EV_TAIL_TAIL t).pushHost (c.n64 R.EV_TAILWB_LO) (leBytes 4 t))

/-- A slot of the ring used. -/
def Core.evUse (c : Core) : Core := { c with hi := { c.hi with evUsed := c.hi.evUsed + 1 } }

/-- The record written at EV_TAIL (R373). -/
def Core.evWrite (c : Core) (e : EvRec) : Core :=
  ((c.evStoreAt e).evNext.evUse).evSignal (e.defect || e.code == 0x0A02)

/-- A record dropped and counted, of either class. -/
def Core.evDrop (c : Core) (defect : Bool) : Core :=
  let d := (c.inc (if defect then R.EV_DEFECT_DROP_CNT else R.EV_DROP_CNT)).perf 202
  { d with hi := { d.hi with evDropped := d.hi.evDropped + 1 } }

/-- The record put into the ring, or dropped and counted (R373). -/
def Core.evRing (c : Core) (e : EvRec) : Core :=
  if c.fb F.EV_CFG_EN then
    let free := c.evSize - c.hi.evUsed
    if free = 0 then c.evDrop e.defect
    else if free ≤ c.f F.EV_CFG_RESERVE ∧ ¬ (e.defect || e.code == 0x0A05) then c.evDrop false
    else c.evWrite e
  else c

/-- Codes that the umpire keeps in the event store (spec/18_fault_tolerance.md R493): the 0x0Dxx range, entries to
SAFE and thermal trips; and the loss of REFCLK (spec/20_power_clocks_boot.md R530). -/
def EvRec.stored (e : EvRec) : Bool :=
  e.code / 256 == 0x0D || (e.code == 0x0A01 && e.data % 256 == stSafe) || e.code == 0x0E03 || e.code == 0x0E08

/-- A record written to the event store, the `n`-th of its second. -/
def Core.evKeep (c : Core) (e : EvRec) (n : Nat) : Core :=
  let w := c.f F.UMP_EVS_WR_WR
  ({ c with evs := Tab.set (fun _ => ⟨0, 0, 0, 0, 0, 0, 0⟩) c.evs w e, evsSec := c.now / sec, evsCnt := n } : Core).setF
    F.UMP_EVS_WR_WR ((w + 1) % 2048)

/-- The event store written as a ring, at most 16 records a second (R493). -/
def Core.evStore (c : Core) (e : EvRec) : Core :=
  if e.stored then
    let cnt := if c.evsSec = c.now / sec then c.evsCnt else 0
    if cnt ≥ 16 then c.inc R.UMP_EVS_LOST_CNT else c.evKeep e (cnt + 1)
  else c

/-- A record noted as posted. -/
def Core.noted (c : Core) (e : EvRec) : Core := { c with posted := e :: c.posted }

/-- Post a record: to the ring, the event store and the logbook. -/
def Core.postRec (c : Core) (e : EvRec) : Core :=
  ((((c.noted e).perf 201).evStore e).logRec 0x19 e.bytes).evRing e

/-- The integer part of WEB_POS, rounded towards minus infinity (spec/02_web_motion.md R50): the active source's
position plus the source offset; the last valid position while the web is lost; on a member of a crew the position
broadcast (spec/17_time_and_crew.md R462). -/
def Core.webPosRaw (c : Core) : Int :=
  if c.fb F.WEB_SRC_LOST then c.web.lostPos
  else if c.fb F.CREW_STAT_FORMED && !c.fb F.CREW_STAT_LEAD && !c.replay then c.crew.pos
  else (c.enc (c.f F.WEB_SRC_ACTIVE)).pos + c.web.offset

def Core.webPos (c : Core) : Int := c.webPosRaw / 2 ^ 32

/-- A job command is in execution, whose own transition comes before any other but the entry to SAFE (spec/13_host_and_command_protocol.md
R372): the host's own, and in a crew the one that its members have prepared. -/
def Core.jobWaits (c : Core) : Bool :=
  (match c.hi.waiting with
  | some (op, _) => [0x20, 0x21, 0x31, 0x32, 0x33, 0x34].contains op
  | none => false) ||
  (match c.crew.prep with
  | some p => (match p.req with
    | .job .. => true
    | _ => false)
  | none => false)

/-- STANDSTILL of the active web source, on a member of a crew the one broadcast (spec/03_firing.md R96). -/
def Core.webStands (c : Core) : Bool :=
  if c.fb F.CREW_STAT_FORMED && !c.fb F.CREW_STAT_LEAD && !c.replay then c.crew.still
  else c.fb (F.ENC_STATUS_STANDSTILL (c.f F.WEB_SRC_ACTIVE))

/-- The web last moved against forward: the sign of the active source's last count, on a member of a crew the DIR of the
position broadcast. -/
def Core.webNeg (c : Core) : Bool :=
  if c.fb F.CREW_STAT_FORMED && !c.fb F.CREW_STAT_LEAD && !c.replay then c.crew.neg else (c.enc (c.f F.WEB_SRC_ACTIVE)).lastNeg

/-- Post an event with an image line. -/
def Core.postAt (c : Core) (line code src data : Nat) : Core :=
  c.postRec ⟨c.t32, c.web.s % 2 ^ 48, line, c.webPos, code, src, data % 2 ^ 32⟩

/-- Post an event to the event store alone (spec/18_fault_tolerance.md R495). -/
def Core.postStore (c : Core) (code src data : Nat) : Core :=
  let e : EvRec := ⟨c.t32, c.web.s % 2 ^ 48, noLine, c.webPos, code, src, data % 2 ^ 32⟩
  (c.noted e).evStore e

/-- Post an event that names no line. -/
def Core.post (c : Core) (code src data : Nat) : Core := c.postAt noLine code src data

/-- Post at most once in a period, per key. -/
def Core.postKey (c : Core) (key period code src data : Nat) : Core :=
  let last := Tab.get (fun _ => 0) c.hi.lastPost key
  if last = 0 ∨ c.now + 1 ≥ last + period then
    { c with hi := { c.hi with lastPost := Tab.set (fun _ => 0) c.hi.lastPost key (c.now + 1) } }.post code src data
  else c

/-- Post at most once in a period, per code and source. -/
def Core.postLim (c : Core) (period code src data : Nat) : Core :=
  c.postKey (code * 65536 + src) period code src data

/-- A change of the device state (spec/13_host_and_command_protocol.md R369). -/
def Core.gotoFrom (c : Core) (old new : Nat) : Core :=
  let c := (c.setF F.DEV_STATE_PREV old).setF F.DEV_STATE_STATE new
  c.post 0x0A01 31 (old * 256 + new)

/-- A replay ends with a reason (spec/19_observation_and_test.md R510): LOG_RPL_STAT and 0x0A24, the last event that is not recorded.
Recording resumes with a SNAPSHOT before the first record of the state that follows (R503). -/
def Core.replayOver (c : Core) (reason status : Nat) : Core :=
  let c := ((c.firesOff.setF F.LOG_RPL_STAT_STATE 3).setF F.LOG_RPL_STAT_STATUS status).setF F.LOG_RPL_STAT_REASON reason
  let c := c.post 0x0A24 31 (reason * 256 + status)
  { c with log := { c.log with replay := false, own := [], snapDue := c.fb F.LOG_CFG_RUN }, rpl := {} }

/-- A change of the device state. The recorded changes of a replay post no event (R506); SAFE is entered from REPLAY and
ends it with reason 7 (R510). -/
def Core.goto (c : Core) (new : Nat) : Core :=
  if c.replay then
    if new = stSafe then (c.replayOver 7 0x40).gotoFrom stReplay stSafe else c.setF F.DEV_STATE_STATE new
  else c.gotoFrom c.st new

/-- 0x0A22 for records lost, once a second with those of the last second (spec/19_observation_and_test.md R502). -/
def Core.logLostPost (c : Core) : Core :=
  if c.log.lostDue then
    let n := ((c.log.lostAt.filter fun x => c.now < x.1 + sec).map (·.2)).sum
    ({ c with log := { c.log with lostDue := false } } : Core).postLim sec 0x0A22 31 n
  else c

/-- Records lost, the first of them of a T32 (spec/19_observation_and_test.md R502). -/
def Core.logLose (c : Core) (k t32 : Nat) : Core := (c.logDrop k t32).logLostPost

/-- An uncorrectable write to the ring loses the block it is of, whole (spec/19_observation_and_test.md R502). -/
def Core.logBlockLost (c : Core) (pa : Nat) : Core :=
  let (a, n, k, t) := c.log.wrote
  if a ≤ pa / 64 * 64 + 63 ∧ pa < a + n ∧ 0 < k then { c with log := { c.log with wrote := (0, 0, 0, 0) } }.logLose k t else c

/-- A decode error (spec/12_memory.md R324). -/
def Core.decodeErr (c : Core) (pa : Nat) : Core :=
  (c.inc R.MEM_DECODE_ERR_CNT).post 0x0911 31 (pa / 256)

/-- The class of a requester (spec/12_memory.md R325). -/
def Core.memClass (c : Core) (req : Nat) : MemClass :=
  let tap := match (Tab.get (fun _ => {}) c.dma.chans (req - 32) : DmaChan).desc with
    | some d => d.reqEn && decide (24 ≤ d.req) && decide (d.req ≤ 27)
    | none => false
  if req < 24 ∨ (32 ≤ req ∧ req < 48 ∧ tap = true) then .rt
  else if 50 ≤ req ∧ req ≤ 52 then .ctl else .be

/-- An access as its requester makes it: its ID and class (spec/12_memory.md R325). -/
def Core.byReq (c : Core) (req : Nat) : Core := { c with mem := { c.mem with last := some (req, c.memClass req) } }

/-- The active cox as the requester (R325). -/
def Core.byCox (c : Core) : Core := c.byReq (50 + c.f F.COX_EPOCH_ACTIVE)

/-- Bytes that a unit writes to DRAM: at or above C - M nothing, with a decode error there (R324). -/
def Core.put (c : Core) (pa : Nat) (l : List Byte) : Core :=
  if l = [] then c
  else
    let c := (c.wr pa l).touch pa l.length true
    if pa + l.length ≤ c.dramTop then c else c.decodeErr (max pa c.dramTop)

end Sys2Proof.Machine
end

