-- ==== Sys2Proof/Machine/Flash.lean ====
section
/-!
DEFINITION. The flash behind the quad SPI controller: its boot table, its images and the check of an image
(spec/20_power_clocks_boot.md R534-R536); and the key of usage records (R540).
-/

namespace Sys2Proof.Machine

def Core.setFw (c : Core) (f : Fw) : Core := { c with ump := { c.ump with fw := f } }

/-- Operations that the controller issues. -/
def Core.qspi (c : Core) (l : List QspiOp) : Core := c.setFw { c.ump.fw with qspi := c.ump.fw.qspi ++ l }

/-- What an erased byte reads as. -/
def erased (_ : Nat) : Byte := 0xFF

/-! ### Erase, program and read (R534) -/

/-- Bytes of the flash. -/
def Core.flashBytes (c : Core) (a n : Nat) : List Byte := Tab.getList erased c.ump.fw.flash a n

/-- The sectors of 64 KiB that a range touches, erased. -/
def Core.flashErase (c : Core) (a n : Nat) : Core :=
  let lo := a / 65536
  let hi := ceilDiv (a + n) 65536
  let c := c.setFw { c.ump.fw with flash := c.ump.fw.flash.filter fun e => decide (e.1 / 65536 < lo) || decide (hi ≤ e.1 / 65536) }
  c.qspi ((List.range (hi - lo)).flatMap fun i => [.writeEnable, .sectorErase (65536 * (lo + i)), .readStatus])

/-- Bytes programmed, in pages of 256: a bit is cleared and never set. -/
def Core.flashProgram (c : Core) (a : Nat) (l : List Byte) : Core :=
  let new := (c.flashBytes a l.length).zipWith (· &&& ·) l
  let c := c.setFw { c.ump.fw with flash := Tab.setList erased c.ump.fw.flash a new }
  c.qspi ((List.range (ceilDiv l.length 256)).flatMap fun i =>
    [.writeEnable, .pageProgram (a + 256 * i) (min 256 (l.length - 256 * i)), .readStatus])

/-! ### The boot table (R534) -/

def FlashImg.bytes (e : FlashImg) : List Byte := leBytes 4 e.ver ++ leBytes 4 e.len ++ leBytes 1 e.state

/-- A copy's 26 bytes. -/
def BootTab.bytes (t : BootTab) : List Byte :=
  let l := leBytes 4 t.seq ++ t.a.bytes ++ t.b.bytes
  l ++ leBytes 4 (crc32c l).toNat

/-- A copy read, none where its CRC fails. -/
def parseBootTab (l : List Byte) : Option BootTab :=
  let img := fun (i : Nat) => ({ ver := le l i 4, len := le l (i + 4) 4, state := le l (i + 8) 1 } : FlashImg)
  if le l 22 4 = (crc32c (l.take 22)).toNat then some { seq := le l 0 4, a := img 4, b := img 13 } else none

/-- The copy in use: the valid one of the higher SEQ; with none valid an empty table, as though in the second copy (log entry 74). -/
def Core.bootTab (c : Core) : Nat × BootTab :=
  let copy := fun k => parseBootTab (c.flashBytes (4096 * k) 26)
  match copy 0, copy 1 with
  | some x, some y => if x.seq < y.seq then (1, y) else (0, x)
  | some x, none => (0, x)
  | none, some y => (1, y)
  | none, none => (1, {})

/-- A table written, with the next SEQ, to the other copy. -/
def Core.setBootTab (c : Core) (t : BootTab) : Core :=
  let (k, old) := c.bootTab
  let a := 4096 * (1 - k)
  let l := ({ t with seq := (old.seq + 1) % 2 ^ 32 } : BootTab).bytes
  (c.setFw { c.ump.fw with flash := Tab.setList erased c.ump.fw.flash a l }).qspi [.writeEnable, .pageProgram a l.length, .readStatus]

/-- Image A (0) or B (1) as the table names it. -/
def Core.flash (c : Core) (i : Nat) : FlashImg := if i = 0 then c.bootTab.2.a else c.bootTab.2.b

/-- An image's entry in the table. -/
def Core.setFlash (c : Core) (i : Nat) (e : FlashImg) : Core :=
  match i with
  | 0 => c.setBootTab { c.bootTab.2 with a := e }
  | 1 => c.setBootTab { c.bootTab.2 with b := e }
  | _ => c

/-! ### Images (R534, R536) -/

/-- Where image A, B or the recovery image lies. -/
def imageBase (i : Nat) : Nat := 0x100000 + i * 0x1000000

/-- The bytes of image A or B. -/
def Core.flashImage (c : Core) (i : Nat) : List Byte := c.flashBytes (imageBase i) (c.flash i).len

/-- An image written, and then its table entry, which marks it pending. -/
def Core.flashStage (c : Core) (i : Nat) (l : List Byte) : Core :=
  let c := ((c.setFw { c.ump.fw with qspi := [] }).flashErase (imageBase i) l.length).flashProgram (imageBase i) l
  c.setFlash i { ver := le l 4 4, len := l.length, state := 1 }

/-- A write that FW_STAGE had begun breaks off: the image has lost its first sector, and its table entry is as it was (R532). -/
def Core.flashTorn (c : Core) (a : Async) : Core := if a.c = 0 then c else c.flashErase (imageBase (a.c - 1)) 1

/-- The bytes of the recovery image. -/
def recImageBytes (x : RecImage) (ver out : Nat) : List Byte :=
  leBytes 4 0x57465645 ++ leBytes 4 ver ++ leBytes 4 out ++ leBytes 1 x.key ++ leBytes 3 0 ++ leBytes 4 x.payload.length ++
    (x.sha ++ List.replicate 32 0).take 32 ++ List.replicate 64 0 ++ (x.pub ++ List.replicate 64 0).take 64 ++
    List.replicate 76 0 ++ x.payload

/-- An image passes (R536); `sigOk` tells that its signature verifies. -/
def Core.imagePasses (c : Core) (l : List Byte) (sigOk : Bool) : Bool :=
  let key := le l 12 1
  let n := le l 16 4
  le l 0 4 == 0x57465645 && decide (key < 4) && sha256 (slice l 116 64) == c.pwr.fuses.keyHash.getD key [] &&
    !bit (c.f F.FUSE_STAT_REVOKED) key && decide (c.f F.FUSE_STAT_MIN_VER ≤ le l 4 4 / 65536) && sigOk &&
    decide (256 + n ≤ l.length) && sha256 (slice l 256 n) == slice l 20 32

/-! ### The usage key (R540) -/

/-- HKDF-SHA-256 with no salt, for a key of 32 bytes (PRESUMED, log entry 74). -/
def hkdf (key label : List Byte) : List Byte := hmac (hmac (List.replicate 32 0) key) (label ++ [1])

/-- The usage key K_U, which the key engine derives from the root key. -/
def Core.usageKey (c : Core) : List Byte := hkdf c.pwr.fuses.rootKey Config.usageLabel

end Sys2Proof.Machine
end

