-- ==== Sys2Proof/Machine/Replies.lean ====
section
/-!
DEFINITION. Replies (spec/13_host_and_command_protocol.md R356-R366): their statuses, the completion queues, the journal, and the
answer to a command.
-/

namespace Sys2Proof.Machine

/-! ### Statuses (spec/13_host_and_command_protocol.md R363) -/

def rDone : Nat := 0x00
def rAccepted : Nat := 0x01
def rDeferred : Nat := 0x02
def rNotNow : Nat := 0x10
def rBusy : Nat := 0x11
def rBadOpcode : Nat := 0x20
def rBadParam : Nat := 0x21
def rRange : Nat := 0x22
def rCapacity : Nat := 0x23
def rAlign : Nat := 0x24
def rOverlap : Nat := 0x25
def rStaleEpoch : Nat := 0x30
def rHwFault : Nat := 0x40
def rMemory : Nat := 0x41
def rAuthFail : Nat := 0x50

/-! ### Completion queues (R354, R356-R359, R374) -/

def Core.cqSize (c : Core) (m : Nat) : Nat := c.f (F.CQ_CFG_SIZE_M1 m) + 1
def Core.sqSize (c : Core) (n : Nat) : Nat := c.f (F.SQ_CFG_SIZE_M1 n) + 1

/-- A completion queue's source counts an entry and fires (R374). -/
def Core.cqSignal (c : Core) (m : Nat) (atOnce noIrq : Bool) : Core :=
  if c.fb (F.CQ_CFG_IRQ_EN m) then
    let u := c.cq m
    if atOnce then (c.setCq m { u with unsig := 0 }).fireVec (c.f (F.CQ_CFG_VEC m))
    else if noIrq then c
    else if u.unsig + 1 ≥ max 1 (c.f (F.CQ_CFG_COUNT m)) then
      (c.setCq m { u with unsig := 0 }).fireVec (c.f (F.CQ_CFG_VEC m))
    else c.setCq m { u with unsig := u.unsig + 1, firstUnsig := if u.unsig = 0 then c.now else u.firstUnsig }
  else c

/-- A reply's MARK flag. -/
def isMark (e : List Byte) : Bool := bit (e.getD 2 0).toNat 4

/-- A reply written at the tail with the present phase (R357). -/
def Core.cqWrite (c : Core) (m : Nat) (e : List Byte) (noIrq : Bool) : Core :=
  let phase := c.f (F.CQ_TAIL_PHASE m)
  let tail := c.f (F.CQ_TAIL_TAIL m)
  let e' := e.take 15 ++ [BitVec.ofNat 8 ((e.getD 15 0).toNat % 128 + 128 * phase)]
  let c := c.pushHost (c.n64 (R.CQ_BASE_LO m) + 16 * tail) e'
  let t' := (tail + 1) % c.cqSize m
  let c := c.setF (F.CQ_TAIL_TAIL m) t'
  let c := if t' = 0 then c.setF (F.CQ_TAIL_PHASE m) (1 - phase) else c
  let c := (c.setCq m { c.cq m with used := (c.cq m).used + 1 }).perf 200
  c.cqSignal m (isMark e || decide (0x40 ≤ (e.getD 3 0).toNat)) noIrq

/-- A reply posted, or held while the queue has no free slot (R359). -/
def Core.cqPost (c : Core) (m : Nat) (e : List Byte) (noIrq : Bool) : Core :=
  if c.fb (F.CQ_CFG_EN m) then
    let u := c.cq m
    if u.held = [] ∧ u.used < c.cqSize m then c.cqWrite m e noIrq
    else
      let c := c.setCq m { u with held := u.held ++ [(e, noIrq)], fullPosted := true }
      if u.fullPosted then c else c.post 0x0A04 (8 + m) (u.held.length + 1)
  else c

/-- A command with BARRIER whose reply was held has replied, once its queue holds nothing back (R361). -/
def Core.barrierPast (c : Core) (m : Nat) : Core :=
  if c.hi.barrier = some m then { c with hi := { c.hi with barrier := none } } else c

/-- The reply of a command with BARRIER is held by a queue (R361). -/
def Core.barrierHeld (c : Core) (m : Nat) : Core := { c with hi := { c.hi with barrier := some m } }

/-- A recorded reply has been written to its queue (R366). -/
def Core.got (c : Core) (e : List Byte) : Core :=
  { c with hi := { c.hi with journal := c.hi.journal.map fun j => if j.reply = e then { j with posted := true } else j } }

/-- Held replies written while slots are free, with fuel. -/
def Core.cqFlush : Nat → Core → Nat → Core
  | 0, c, _ => c
  | f + 1, c, m =>
    let u := c.cq m
    match u.held with
    | (e, q) :: rest =>
      if u.used < c.cqSize m then Core.cqFlush f (((c.setCq m { u with held := rest }).cqWrite m e q).got e) m else c
    | [] => (c.setCq m { u with fullPosted := false }).barrierPast m

/-- The 16 bytes of a reply but its phase (R356). -/
def replyBytes (seq sqid status : Nat) (result : List Byte) (epoch op head : Nat) : List Byte :=
  leBytes 2 seq ++ leBytes 1 sqid ++ leBytes 1 status ++ (result ++ List.replicate 8 0).take 8 ++ leBytes 1 epoch ++
    leBytes 1 op ++ leBytes 2 head

/-! ### The journal and the answer (R356, R361, R366) -/

/-- A command of a queue is begun: its entry is in the journal before any effect (R366). -/
def Core.begun (c : Core) (op sq seq : Nat) : Core :=
  { c with hi := { c.hi with journal := c.hi.journal ++
      [{ sq := sq, seq := seq, op := op, effected := false, reply := [], posted := false }] } }

/-- The journal without the entry of the command that is being carried out, which is its last. -/
def openJournal (l : List JEntry) (sq seq : Nat) : List JEntry :=
  match l.getLast? with
  | some e => if e.effected = false ∧ e.sq = sq ∧ e.seq = seq then l.dropLast else l
  | none => l

/-- A command's entry of the journal once its effect is made (R366). -/
def Core.entered (c : Core) (j : JEntry) : Core :=
  { c with hi := { c.hi with journal := openJournal c.hi.journal j.sq j.seq ++ [j] } }

/-- A reply goes out at once: the queue has a free slot and holds nothing back, or takes no replies (R354, R359). -/
def Core.cqRoom (c : Core) (m : Nat) : Bool :=
  !c.fb (F.CQ_CFG_EN m) || ((c.cq m).held.isEmpty && decide ((c.cq m).used < c.cqSize m))

/-- A reply to a command of a queue, entered in the journal (R356, R366). While the reply of a command with BARRIER is held, no
command starts (R361). A queue of 256 or more stands for a recorded command of a replay, whose reply is compared and not posted
(spec/19_observation_and_test.md R506). -/
def Core.answer (c : Core) (op sq seq flags status : Nat) (result : List Byte) : Core :=
  let e := replyBytes seq sq status result (c.f F.COX_EPOCH_EPOCH) op (c.f (F.SQ_HEAD_HEAD sq))
  let m := c.f (F.SQ_CFG_CQ sq)
  let j : JEntry := { sq := sq, seq := seq, op := op, effected := true, reply := e, posted := c.cqRoom m, noIrq := bit flags 2 }
  if 256 ≤ sq then c.logRec 6 e
  else
    let d := if bit flags 0 && !c.cqRoom m then (c.entered j).barrierHeld m else c.entered j
    let g := if d.replay then d else d.logRec 6 e
    g.cqPost m e (bit flags 2)

/-- The reply of a command that waited. -/
def Core.answerWaiting (c : Core) (op status : Nat) (result : List Byte := []) : Core :=
  match c.hi.waiting with
  | some (o, n, seq, flags) =>
    if o = op then { c with hi := { c.hi with waiting := none } }.answer op n seq flags status result else c
  | none => c

end Sys2Proof.Machine
end

