-- ==== Sys2Proof/Machine/Compare.lean ====
section
/-!
DEFINITION. The position-compare channels (spec/02_web_motion.md R67-R75), the camera triggers they drive
(spec/09_inspection_cameras.md R243, R252) and defect records with their marker targets (R74, spec/03_firing.md R99).
-/

namespace Sys2Proof.Machine

/-- 2^32: the fraction scale of positions. -/
def p32 : Int := 4294967296

/-- The position of a channel's source in 2^-32 nm (R67). -/
def Core.cmpPos (c : Core) (m : Nat) : Int :=
  match c.f (F.CMP_CFG_SRC m) with
  | 0 => c.webPosRaw
  | 1 => (c.enc 2).pos
  | _ => (c.enc 3).pos

/-- The encoder port whose counts move a channel's source. -/
def Core.cmpPort (c : Core) (m : Nat) : Nat :=
  match c.f (F.CMP_CFG_SRC m) with
  | 0 => c.f F.WEB_SRC_ACTIVE
  | 1 => 2
  | _ => 3

/-- The direction of travel is reverse: the sign of the last count, forward after reset and standstill (R69). -/
def Core.cmpRev (c : Core) (m : Nat) : Bool :=
  if c.f (F.CMP_CFG_SRC m) = 0 then c.webNeg else (c.enc (c.cmpPort m)).lastNeg

/-- A reserved SRC or MODE (R67). -/
def Core.cmpBad (c : Core) (m : Nat) : Bool := c.f (F.CMP_CFG_SRC m) == 3 || c.f (F.CMP_CFG_MODE m) == 3

def Core.cmpFifo (c : Core) (m : Nat) : Bool := c.f (F.CMP_CFG_MODE m) == 2

/-- The channel's current target, in nm. -/
def Core.cmpCur (c : Core) (m : Nat) : Option Int :=
  if c.cmpFifo m then (c.cmp m).queue.head?
  else if c.fb (F.CMP_STATUS_ARMED m) then some (c.cmp m).target else none

/-- ARMED and FIFO_LEVEL as the queue stands. -/
def Core.cmpSync (c : Core) (m : Nat) : Core :=
  let c := c.setF (F.CMP_STATUS_FIFO_LEVEL m) (c.cmp m).queue.length
  if c.cmpFifo m then c.setB (F.CMP_STATUS_ARMED m) ((c.cmp m).queue ≠ []) else c

/-- Disarm and empty the queue. -/
def Core.cmpDisarm (c : Core) (m : Nat) : Core :=
  let c := c.setCmp m { c.cmp m with queue := [], predicted := none }
  (c.setB (F.CMP_STATUS_ARMED m) false).cmpSync m

/-- A trigger pulse takes the next frame number of each triggered port that the channel drives (R243), latching
position and speed (R252). -/
def Core.camTrigger (c : Core) (m : Nat) : Core :=
  c.each 4 fun n c =>
    if c.fb (F.CAM_CFG_EN n) && c.fb (F.CAM_CFG_TRIGGERED n) && c.f (F.CAM_CFG_TRIG_CMP n) == m then
      let p := c.cam n
      let ax := c.f (F.CAM_CFG_AXIS_SRC n) + 1
      let t : CamTrig :=
        { fn := p.fn, pos := c.webPos, speed := c.i R.WEB_SPEED
          axisPos := (c.enc ax).pos / p32, axisSpeed := c.i (R.ENC_SPEED ax), t32 := c.t32, taken := c.now }
      (c.setCam n { p with fn := (p.fn + 1) % 2 ^ 32, trigs := p.trigs ++ [t] }).setN (R.CAM_FN n) p.fn
    else c

/-- A reached target drives the output, or merges into the pulse under way (R70, R71). In SAFE the outputs are held
inactive (spec/18_fault_tolerance.md R488), as in a replay without OUTPUTS (spec/19_observation_and_test.md R508). A CMPm_WIDTH
outside its range is kept as written and clamped here (log entry 61). -/
def Core.cmpPulse (c : Core) (m : Nat) : Core :=
  let c := (c.inc (R.CMP_PULSES m)).perf 234
  if c.st == stSafe || c.muted then c
  else if c.fb (F.CMP_STATUS_ACTIVE m) then c.setB (F.CMP_STATUS_MERGED m) true
  else
    let w := max 4 (min 400000 (c.f (F.CMP_WIDTH_WIDTH m)))
    let c := c.setCmp m { c.cmp m with pulseEnd := c.now + 2 * w }
    let c := (c.setB (F.CMP_STATUS_ACTIVE m) true).setN (R.CMP_LAST_T32 m) c.t32
    c.camTrigger m

/-- The next target after one was reached (`issued`) or missed, as the mode lays down (R67). One that merges, or whose pulse is held
back, counts as a pulse issued (log entry 61). -/
def Core.cmpNext (c : Core) (m : Nat) (issued : Bool) : Core :=
  let u := c.cmp m
  if c.cmpFifo m then (c.setCmp m { u with queue := u.queue.drop 1, predicted := none }).cmpSync m
  else if c.f (F.CMP_CFG_MODE m) = 1 then
    let n := u.left + b2n issued
    let cnt := c.f (F.CMP_COUNT_COUNT m)
    if cnt ≠ 0 ∧ n ≥ cnt then
      (c.setCmp m { u with left := n, predicted := none }).setB (F.CMP_STATUS_ARMED m) false
    else
      let d : Int := c.n (R.CMP_INTERVAL m)
      c.setCmp m { u with left := n, predicted := none, target := u.target + (if c.cmpRev m then -d else d) }
  else (c.setCmp m { u with predicted := none }).setB (F.CMP_STATUS_ARMED m) false

/-- A target is behind in the direction that DIR enables (R72). -/
def Core.cmpBehind (c : Core) (m : Nat) (t : Int) : Bool :=
  let p := c.cmpPos m
  let rev := match c.f (F.CMP_CFG_DIR m) with
    | 0 => false
    | 1 => true
    | _ => c.cmpRev m
  if rev then t * p32 > p else t * p32 < p

/-- Judge the current target: reached where it equals the position; missed, or fired late, where it is behind (R72); the
following one likewise, with fuel. -/
def Core.cmpJudge : Nat → Core → Nat → Core
  | 0, c, _ => c
  | k + 1, c, m =>
    match c.cmpCur m with
    | none => c
    | some t =>
      if t * p32 = c.cmpPos m then Core.cmpJudge k ((c.cmpPulse m).cmpNext m true) m
      else if c.cmpBehind m t then
        let low := wrap 32 t
        let late := c.fb (F.CMP_CFG_LATE_FIRE m)
        let c := if late then (c.cmpPulse m).post 0x0111 (16 + m) low
                 else ((c.setB (F.CMP_STATUS_MISSED m) true).perf 235).post 0x0110 (16 + m) low
        Core.cmpJudge k (c.cmpNext m late) m
      else c

/-- Fuel for judging: every queued target, or every interval up to the position. Against DIR each advance of a periodic channel lies
further behind, without end: the last is left unjudged (R72; log entry 61). -/
def Core.cmpFuel (c : Core) (m : Nat) : Nat :=
  let d := ((c.cmp m).target * p32 - c.cmpPos m).natAbs / 2 ^ 32
  18 + (if c.cmpFifo m then 0 else d / max 1 (c.n (R.CMP_INTERVAL m)))

def Core.cmpJudgeAll (c : Core) (m : Nat) : Core :=
  if c.fb (F.CMP_CFG_EN m) && !c.cmpBad m then Core.cmpJudge (c.cmpFuel m) c m else c

/-- A periodic channel whose interval is below twice its source's count-to-nm factor (R73). -/
def Core.cmpShort (c : Core) (m : Nat) : Bool :=
  c.f (F.CMP_CFG_MODE m) == 1 && decide (c.n (R.CMP_INTERVAL m) * 2 ^ 32 < 2 * (c.enc (c.cmpPort m)).scale)

/-- CFG_ERR as the channel stands: a reserved SRC or MODE (R67), or a short interval (R73). A target armed before the
interval became short stays armed (log entry 45). -/
def Core.cmpErrSync (c : Core) (m : Nat) : Core := c.setB (F.CMP_STATUS_CFG_ERR m) (c.cmpBad m || c.cmpShort m)

/-- CFG_ERR of every channel, after a change of a source's factor. -/
def Core.cmpErrSyncAll (c : Core) : Core := c.each 16 fun m c => c.cmpErrSync m

/-- Arm or push a target (R68, R73). -/
def Core.cmpArm (c : Core) (m : Nat) (t : Int) : Core :=
  if c.cmpBad m then c
  else if c.cmpFifo m then
    let u := c.cmp m
    if u.queue.length ≥ 16 then
      (c.setB (F.CMP_STATUS_FIFO_OVF m) true).post 0x0112 (16 + m) (wrap 32 t)
    else
      let c := (c.setCmp m { u with queue := u.queue ++ [t] }).cmpSync m
      if u.queue = [] then c.cmpJudgeAll m else c
  else if c.cmpShort m then c.cmpErrSync m
  else
    let c := c.setCmp m { c.cmp m with target := t, left := 0, predicted := none }
    ((c.cmpErrSync m).setB (F.CMP_STATUS_ARMED m) true).cmpJudgeAll m

/-- A write of CMPm_CFG (R67, R73, R75). A change of MODE keeps the queue, the target register and ARMED as they stand, and one with
EN kept leaves a crossing already predicted in place (log entry 61). -/
def Core.cmpCfg (c : Core) (m : Nat) (v : Word) : Core :=
  let was := c.fb (F.CMP_CFG_EN m)
  let c := (c.setR (R.CMP_CFG m) (v &&& 0x7FF)).cmpErrSync m
  let c := if c.fb (F.CMP_CFG_EN m) then c
    else (c.setCmp m { c.cmp m with predicted := none }).setB (F.CMP_STATUS_ACTIVE m) false
  if c.cmpBad m then c.cmpDisarm m
  else if c.fb (F.CMP_CFG_EN m) && !was then (c.cmpSync m).cmpJudgeAll m
  else c.cmpSync m

/-- The current target is reached by an update from `p0` to `p1` (R69): the position equals it, or has passed it in a
direction that DIR enables. DIR = 3, to which the table gives no meaning, acts as either (log entry 61). -/
def Core.cmpReached (c : Core) (m : Nat) (p0 p1 t : Int) : Bool :=
  let x := t * p32
  let up := decide (p0 ≤ x) && decide (x ≤ p1)
  let down := decide (p1 ≤ x) && decide (x ≤ p0)
  p1 == x || (match c.f (F.CMP_CFG_DIR m) with
    | 0 => up
    | 1 => down
    | _ => up || down)

/-- A reached target fires, and the ones that follow it are judged (R70, R72). -/
def Core.cmpFire (c : Core) (m : Nat) : Core := ((c.cmpPulse m).cmpNext m true).cmpJudgeAll m

/-- The last edge time of a channel's source (R70). -/
def Core.cmpEdge (c : Core) (m : Nat) : Nat :=
  if c.f (F.CMP_CFG_SRC m) = 0 then c.web.upd else ((c.enc (c.cmpPort m)).lastCount).getD c.now

/-- The predicted crossing of a target that the next count would pass, on the 2.5 ns grid (R70). -/
def Core.cmpPredict (c : Core) (m : Nat) (t : Int) : Option Nat :=
  let p := c.cmpPos m
  let port := c.cmpPort m
  let v := (if c.f (F.CMP_CFG_SRC m) = 0 then c.i R.WEB_SPEED else c.i (R.ENC_SPEED port)).natAbs
  let rev := c.cmpRev m
  let d := if rev then p - t * p32 else t * p32 - p
  let dirOk := match c.f (F.CMP_CFG_DIR m) with
    | 0 => !rev
    | 1 => rev
    | _ => true
  if dirOk && v ≠ 0 && 0 < d && d < (c.enc port).scale then
    some (c.cmpEdge m + 2 * ((2 * d.toNat + 5 * v * 2 ^ 15) / (5 * v * 2 ^ 16)))
  else none

/-- A channel's evaluation at a position update of its source (R69, R70). -/
def Core.cmpUpdate (c : Core) (m : Nat) (p0 p1 : Int) : Core :=
  if c.fb (F.CMP_CFG_EN m) && !c.cmpBad m then
    match c.cmpCur m with
    | none => c
    | some t =>
      if c.cmpReached m p0 p1 t then c.cmpFire m
      else
        let pr := if c.fb (F.CMP_CFG_INTERP m) then c.cmpPredict m t else none
        c.setCmp m { c.cmp m with predicted := pr }
  else c

/-- Every channel fed by a source (0 web, 1 ENC2, 2 ENC3) evaluated at an update of it. -/
def Core.cmpUpdateAll (c : Core) (src : Nat) (p0 p1 : Int) : Core :=
  c.each 16 fun m c => if c.f (F.CMP_CFG_SRC m) = src then c.cmpUpdate m p0 p1 else c

/-! ### Defect records -/

/-- The class of a defect record in FIRE_MARK_SEL; none for WEB_LOST (R99). -/
def defectClass (code : Nat) : Option Nat :=
  match code with
  | 0x0203 => some 0
  | 0x0204 => some 1
  | 0x0205 => some 2
  | 0x0402 => some 3
  | 0x0301 => some 4
  | 0x0303 => some 5
  | 0x0802 => some 6
  | 0x0707 => some 6
  | 0x0804 => some 6
  | 0x010E => none
  | _ => some 7

/-- A marker target for a defect at `pos` pushed onto each DEFECT_SRC channel in FIFO mode (R74). -/
def Core.markPush (c : Core) (pos : Int) : Core :=
  c.each 16 fun m c =>
    if c.fb (F.CMP_CFG_DEFECT_SRC m) && c.cmpFifo m && !c.cmpBad m then
      let o := c.i (R.CMP_MARK_OFS m) * 1000
      c.cmpArm m (if c.web.rev then pos - o else pos + o)
    else c

/-- Raise a defect record (spec/00_scope.md R8): `pos` the lowest position of the span in nm, `span` its length in
µm, of which DATA has the low 32 bits (log entry 46). -/
def Core.defect (c : Core) (code src line : Nat) (pos : Int) (span : Nat) : Core :=
  let c := c.postRec ⟨c.t32, c.web.s % 2 ^ 48, line, pos, code, src + 0x8000, span % 2 ^ 32⟩
  match defectClass code with
  | some b => if bit (c.f F.FIRE_MARK_SEL_SEL) b then c.markPush pos else c
  | none => c

/-! ### The stroke grid -/

/-- The stroke boundary B(S) as laid down, in 2^-32 nm (spec/02_web_motion.md R51, R53). -/
def gridPos : List Grid → Int → Int
  | [], _ => 0
  | [g], s => g.b0 + (s - g.s0) * g.step
  | g :: gs, s => if s ≥ g.s0 then g.b0 + (s - g.s0) * g.step else gridPos gs s

def Core.strokePos (c : Core) (s : Int) : Int := gridPos c.web.grid s

/-- One stroke's step in PRINT_DIR, in 2^-32 nm. -/
def Core.step (c : Core) : Int := if c.web.rev then -(c.web.pitch : Int) else c.web.pitch

/-- S_TOF of the running job. -/
def Core.sTof (c : Core) : Nat := c.n64 R.DEV_TOF_LO

/-- The web span of the lines that end at the boundaries of strokes `s0` to `s1`: its lower end in nm and its length in µm. -/
def Core.strokeSpan (c : Core) (s0 s1 : Nat) : Int × Nat :=
  let a := c.strokePos s0 - c.step
  let b := c.strokePos s1
  (min a b / p32, (b - a).natAbs / 2 ^ 32 / 1000)

/-- The web span of lines `l0` to `l1` (spec/03_firing.md R97). -/
def Core.lineSpan (c : Core) (l0 l1 : Nat) : Int × Nat := c.strokeSpan (l0 + c.sTof) (l1 + c.sTof)

/-- Lines of a bar that give the loops no sample (spec/08_density_and_placement_loops.md R219), of those that the ring
holds. -/
def Core.unsampled (c : Core) (bar l0 l1 : Nat) : Core :=
  let ring := (Tab.get regReset (c.job.gens.headD c.job.force).regs R.PF_RING_LINES).toNat
  if ring = 0 then c
  else c.each (min (l1 + 1 - l0) ring) fun i c =>
    { c with pf := { c.pf with bad := Tab.set (fun _ => 0) c.pf.bad ((l1 - i) % ring * 16 + bar) (l1 - i + 1) } }

/-- A defect record over lines `l0` to `l1`. -/
def Core.defectLines (c : Core) (code src l0 l1 : Nat) : Core :=
  let (p, n) := c.lineSpan l0 l1
  let c := if code = 0x0203 ∨ code = 0x0204 ∨ code = 0x0205 ∨ code = 0x0402 then c.unsampled src l0 l1 else c
  c.defect code src l0 p n

end Sys2Proof.Machine
end

