-- ==== Sys2Proof/Machine/Surface.lean ====
section
/-!
DEFINITION. Stages 1 to 4 of the pixel path: surfaces and their pixels (spec/04_surfaces_and_layers.md R108-R110),
composition (R113-R119), scaling and distortion and the colour transform (spec/05_scaling_and_colour.md R139-R157).
A value is none where a DRAM read it needs returns poison (spec/12_memory.md R333).
-/

namespace Sys2Proof.Machine

/-! ### Generations -/

def Gen.n (g : Gen) (off : Nat) : Nat := (Tab.get regReset g.regs off).toNat
def Gen.f (g : Gen) (x : Fld) : Nat := bits (g.n x.off) x.lo x.wid
def Gen.fb (g : Gen) (x : Fld) : Bool := g.f x ≠ 0
def Gen.n64 (g : Gen) (lo : Nat) : Nat := g.n lo + g.n (lo + 4) * 2 ^ 32

/-- The registers of a configuration read as a generation's. -/
def regsF (t : Tab Word) (x : Fld) : Nat := bits (Tab.get regReset t x.off).toNat x.lo x.wid

/-- The generation that prints image line `l` (spec/01_print_architecture.md R26): the most recently accepted one whose
effective line is at most `l`; the configuration in force where no generation is live. -/
def Core.genAt (c : Core) (l : Nat) : Gen :=
  (c.job.gens.find? (fun g => g.le ≤ l)).getD c.job.force

/-- The generation accepted last. -/
def Core.newest (c : Core) : Gen := c.job.gens.headD c.job.force

/-- REPEAT in 1/65,536 line (R120). -/
def Gen.rpt (g : Gen) : Nat := g.n R.JOB_REPEAT_INT * 65536 + g.f F.JOB_REPEAT_FRAC_FRAC

/-- Repeat boundary L_k (R120). -/
def Gen.lk (g : Gen) (k : Nat) : Nat := ceilDiv (k * g.rpt) 65536

/-- The repeat that holds an image line. -/
def Gen.rptOf (g : Gen) (l : Nat) : Nat := if g.rpt = 0 then 0 else 65536 * l / g.rpt

def Core.surf (c : Core) (id : Nat) : Surf := Tab.get (fun _ => {}) c.job.surfs id
def Core.setSurf (c : Core) (id : Nat) (s : Surf) : Core :=
  { c with job := { c.job with surfs := Tab.set (fun _ => {}) c.job.surfs id s } }
def Core.layer (c : Core) (n : Nat) : Layer := Tab.get (fun _ => {}) c.job.layers n
def Core.setLayer (c : Core) (n : Nat) (l : Layer) : Core :=
  { c with job := { c.job with layers := Tab.set (fun _ => {}) c.job.layers n l } }

/-! ### Readiness (R129, R130) -/

/-- A layer's source in a generation for lines from `line` on: the surface and, of a panel layer, the repeat. -/
def Core.layerSrc (c : Core) (g : Gen) (n line : Nat) : Option (Nat × Option Nat) :=
  if g.fb (F.LAY_CFG_SRC n) then
    let k := g.rptOf line
    ((c.layer n).panels.find? (fun p => p.k = k)).map (fun p => (p.surf, some k))
  else some (g.f (F.LAY_SURF_ID n), none)

/-- The boundary at which the decision for image line `l` is taken: the latest repeat boundary or effective line. -/
def Core.decLine (c : Core) (l : Nat) : Nat :=
  let g := c.genAt l
  (c.job.gens.filter (fun h => h.le ≤ l)).foldl (fun m h => max m h.le) (g.lk (g.rptOf l))

/-- The content with which a layer is ready for the lines from `line` on (R129). -/
def Core.readySrc (c : Core) (n line : Nat) : Option (Nat × Option Nat) :=
  (c.layerSrc (c.genAt line) n line).filter fun s => (c.surf s.1).state = 2

/-- A generation's layer holds while it is not ready (R130). -/
def Gen.holding (g : Gen) (n : Nat) : Bool :=
  let pol := g.f (F.LAY_CFG_POLICY n)
  pol == 1 || (pol == 0 && !g.fb (F.LAY_CFG_SRC n))

/-- What a layer drew last before the boundary `line`: by the decisions made, or as those still to come would be made
now (with fuel). -/
def Core.drawnBefore (c : Core) (n : Nat) : Nat → Nat → Option LayerDec
  | 0, _ => none
  | f + 1, line =>
    let decs := (c.layer n).decs
    let b := c.decLine (line - 1)
    if line = 0 then none
    else if decs.any (fun d => b ≤ d.line) then decs.find? fun d => d.kind ≠ 2 && d.line < line
    else match (c.readySrc n b).filter fun _ => (c.genAt b).fb (F.LAY_CFG_EN n) with
      | some (s, k) => some ⟨b, 0, s, k, (c.genAt b).regs⟩
      | none => Core.drawnBefore c n f b

/-- The decision for the lines from `line` on, as the layer's content stands now. -/
def Core.decideNow (c : Core) (n line : Nat) : LayerDec :=
  let g := c.genAt line
  match c.readySrc n line with
  | some (s, k) => ⟨line, 0, s, k, g.regs⟩
  | none =>
    match c.drawnBefore n 64 line with
    | some d => if g.holding n then ⟨line, 1, d.surf, d.panel, d.desc⟩ else ⟨line, 2, 0, none, g.regs⟩
    | none => ⟨line, 2, 0, none, g.regs⟩

/-- The decision that covers image line `l`: made, or as it would be made now. -/
def Core.decAt (c : Core) (n l : Nat) : LayerDec :=
  let b := c.decLine l
  match (c.layer n).decs.find? (fun d => d.line = b) with
  | some d => d
  | none => c.decideNow n b

/-! ### Surface pixels (R108, R110, spec/05_scaling_and_colour.md R151) -/

/-- Lines of a tile (R110). -/
def Surf.tileH (s : Surf) : Nat :=
  match s.fmt, s.cov with
  | 0, false => 32
  | 0, true => 28
  | 1, false => 16
  | 1, true => 15
  | 2, _ => 64
  | 3, _ => 2048
  | _, _ => 64

/-- The tiles across and down. -/
def Surf.tilesX (s : Surf) : Nat := ceilDiv s.width 256
def Surf.tilesY (s : Surf) : Nat := ceilDiv s.height s.tileH

/-- Bits of a pixel in plane 1. -/
def Surf.bpp (s : Surf) : Nat :=
  match s.fmt with
  | 0 => 64
  | 1 => 128
  | 2 => 16
  | 3 => 1
  | _ => 32

/-- Bytes `p` to `p + n - 1` of the uncompressed tile at tile column `tx`, tile row `ty`. -/
def Core.tileBytes (c : Core) (s : Surf) (tx ty p n : Nat) : Option (List Byte) := do
  let e ← c.rd (s.base + 8 * (ty * ceilDiv s.width 256 + tx)) 8
  let ofs := s.base2 + bits (ofLe e) 0 40
  let data ← c.rd ofs (bits (ofLe e) 40 18)
  let out := match evzDecode data with
    | .ok o => o
    | .error _ => []
  return (List.range n).map (fun i => (out[p + i]?).getD (Config.tileByte ofs (p + i)))

/-- `n` bytes of plane 1 at bit offset `8 * n * x` of line `y` (`n` = 0 stands for the byte that holds a MASK1
pixel). -/
def Core.plane1 (c : Core) (s : Surf) (x y : Nat) : Option (List Byte) :=
  let n := max 1 (s.bpp / 8)
  if s.tiled then
    let h := s.tileH
    c.tileBytes s (x / 256) (y / h) ((y % h * 256 + x % 256) * s.bpp / 8) n
  else c.rd (s.base + y * s.stride + x * s.bpp / 8) n

/-- The coverage of a pixel. -/
def Core.covAt (c : Core) (s : Surf) (x y : Nat) : Option Nat :=
  if s.cov then
    if s.tiled then
      let h := s.tileH
      let p1 := 256 * h * s.bpp / 8 + (if s.fmt = 2 then 128 * (h / 2) * 4 else 0)
      (c.tileBytes s (x / 256) (y / h) (p1 + y % h * 256 + x % 256) 1).map ofLe
    else (c.rd (s.covBase + y * s.covStride + x) 1).map ofLe
  else some 255

/-- A chroma sample: its u16 a and b. -/
def Core.chroma (c : Core) (s : Surf) (i j : Nat) : Option (Nat × Nat) := do
  let b ← if s.tiled then
      let h := s.tileH
      c.tileBytes s (i / 128) (j / (h / 2)) (256 * h * 2 + (j % (h / 2) * 128 + i % 128) * 4) 4
    else c.rd (s.base2 + j * s.stride2 + 4 * i) 4
  return (le b 0 2, le b 2 2)

/-- An index held to the samples 0 to `n - 1`. -/
def clampIdx (i : Int) (n : Nat) : Nat := min i.toNat (n - 1)

/-- The reconstructed a and b of a LAB420 pixel (R151). -/
def Core.labAB (c : Core) (s : Surf) (x y : Nat) : Option (Nat × Nat) := do
  let i0 := ((x : Int) - 1) / 2
  let j0 := ((y : Int) - 1) / 2
  let wn := ceilDiv s.width 2
  let hn := ceilDiv s.height 2
  let wx := if x % 2 = 0 then 3 else 1
  let wy := if y % 2 = 0 then 3 else 1
  let p00 ← c.chroma s (clampIdx i0 wn) (clampIdx j0 hn)
  let p10 ← c.chroma s (clampIdx (i0 + 1) wn) (clampIdx j0 hn)
  let p01 ← c.chroma s (clampIdx i0 wn) (clampIdx (j0 + 1) hn)
  let p11 ← c.chroma s (clampIdx (i0 + 1) wn) (clampIdx (j0 + 1) hn)
  let mix := fun (a b d e : Nat) =>
    ((4 - wx) * (4 - wy) * a + wx * (4 - wy) * b + (4 - wx) * wy * d + wx * wy * e + 8) / 16
  return (mix p00.1 p10.1 p01.1 p11.1, mix p00.2 p10.2 p01.2 p11.2)

/-- A pixel of a surface: its coverage and its tone in each channel; `fill` is the layer's FILL vector for MASK1. A
DROP4 pixel gives the codes. -/
def Core.pixel (c : Core) (s : Surf) (fill : Nat → Nat) (x y : Nat) : Option (Nat × List Nat) := do
  let p ← c.plane1 s x y
  let a ← c.covAt s x y
  match s.fmt with
  | 0 => return (a, (List.range 8).map (fun k => le p k 1 * 257))
  | 1 => return (a, (List.range 8).map (fun k => le p (2 * k) 2))
  | 2 =>
    let ab ← c.labAB s x y
    return (a, [le p 0 2, ab.1, ab.2])
  | 3 => return (if bit (le p 0 1) (x % 8) then 255 else 0, (List.range 8).map fill)
  | _ => return (255, (List.range 8).map (fun k => bits (le p 0 4) (4 * k) 4))

/-! ### Composition (R113-R119) -/

/-- The pixel a layer draws at grid column `x` and line `y` (DROP4: output column and image line) for image line `l`;
`some none` where the layer is transparent (R117, R119). -/
def Core.layerPix (c : Core) (n l : Nat) (x y : Int) : Option (Option (Nat × List Nat)) :=
  let d := c.decAt n l
  let f := regsF d.desc
  if d.kind = 2 then some none
  else
    let r := fun off => (Tab.get regReset d.desc off).toNat
    let dx := x - sext 32 (r (R.LAY_X0 n))
    let dy := y - (r (R.LAY_Y0_LO n) + r (R.LAY_Y0_HI n) * 2 ^ 32 : Nat)
    let len := r (R.LAY_LEN n)
    if dx < 0 ∨ dx ≥ r (R.LAY_W n) ∨ dy < 0 ∨ (len ≠ 0 ∧ dy ≥ len) then some none
    else
      let panel := f (F.LAY_CFG_SRC n) = 1
      let s0 := c.surf d.surf
      let tw := if r (R.LAY_TILE_W n) = 0 then s0.width else r (R.LAY_TILE_W n)
      let th := if r (R.LAY_TILE_H n) = 0 then s0.height else r (R.LAY_TILE_H n)
      let tx := f (F.LAY_CFG_TILE_X n) = 1
      let ty := f (F.LAY_CFG_TILE_Y n) = 1
      let i := if tx then dx / (max 1 tw : Nat) else 0
      let h : Int := if f (F.LAY_CFG_HALF_DROP n) = 1 ∧ i % 2 = 1 then (th / 2 : Nat) else 0
      let sx := if tx then dx % (max 1 tw : Nat) else dx
      let sy := if ty then (dy - h) % (max 1 th : Nat) else dy
      let kk := ((dy - h) / (max 1 th : Nat)).toNat
      let src : Option Surf :=
        if panel ∧ d.kind = 0 then
          match (c.layer n).panels.find? (fun p => p.k = kk) with
          | some p => if (c.surf p.surf).state = 2 then some (c.surf p.surf) else none
          | none => none
        else some s0
      match src with
      | none => some none
      | some s =>
        if sx ≥ s.width ∨ sy ≥ s.height then some none
        else
          let fill := fun k => bits (r (R.LAY_FILL n (k / 2))) (16 * (k % 2)) 16
          (c.pixel s fill sx.toNat sy.toNat).map some

/-- One channel blended (R116): tone `t`, value below `b`, coverage `a`, background `bg`. -/
def blend (mode t b a bg : Nat) : Nat :=
  let mix := fun t => (t * a + b * (255 - a) + 127) / 255
  match mode with
  | 0 => mix t
  | 1 => mix (65535 - ((65535 - t) * (65535 - b) + 32767) / 65535)
  | 2 => t
  | 3 => mix bg
  | _ => min 65535 (b + (t * a + 127) / 255)

/-- JOB_BG of a channel (R571). -/
def Gen.bg (g : Gen) (ch : Nat) : Nat := bits (g.n (R.JOB_BG (ch / 2))) (16 * (ch % 2)) 16

/-- The enabled layers of a generation from the lowest ORDER upward (R115). -/
def Gen.layerOrder (g : Gen) : List Nat :=
  (List.range 8).flatMap fun o =>
    (List.range 8).filter fun n => g.fb (F.LAY_CFG_EN n) && g.f (F.LAY_CFG_ORDER n) == o

/-- The enabled layers for image line `l` from the lowest ORDER upward, a held one by the descriptor that it keeps (R115,
R130); equal orders, which only a held layer can bring about, stand by layer number (log entry 51). -/
def Core.layerStack (c : Core) (l : Nat) : List Nat :=
  let on := (c.genAt l).layerOrder.map fun n => (n, regsF (c.decAt n l).desc (F.LAY_CFG_ORDER n))
  (List.range 8).flatMap fun o => sortNat ((on.filter fun x => x.2 = o).map (·.1))

/-- Channel `ch` of grid pixel (`x`, `y`) for image line `l` (R116, R117, R139). -/
def Core.compose (c : Core) (l : Nat) (x y : Int) (ch : Nat) : Option Nat :=
  let g := c.genAt l
  (c.layerStack l).foldl (fun acc n => do
    let b ← acc
    let d := c.decAt n l
    let px ← c.layerPix n l x y
    match px with
    | none => return b
    | some (a, t) =>
      if (c.surf d.surf).fmt = 4 ∨ ¬ bit (regsF d.desc (F.LAY_CFG_CH_MASK n)) ch ∨ ch ≥ t.length then return b
      else return blend (regsF d.desc (F.LAY_CFG_MODE n)) (t.getD ch 0) b a (g.bg ch)) (some (g.bg ch))

/-! ### Scaling and distortion (spec/05_scaling_and_colour.md R140-R147) -/

def Gen.stretch (g : Gen) (z : Nat) : Int := sext 16 (g.f (F.SC_ZONE_STRETCH z))
def Gen.shift (g : Gen) (z : Nat) : Int := sext 16 (g.f (F.SC_ZONE_SHIFT z))
def Gen.stepX (g : Gen) : Int := g.n R.SC_STEP_X
def Gen.stepY (g : Gen) : Int := g.n R.SC_STEP_Y
def Gen.distEn (g : Gen) : Bool := g.fb F.SC_CFG_DIST_EN
def Gen.zoneX0 (g : Gen) : Int := g.f F.SC_ZONE_X0_X0
def Gen.zoneW (g : Gen) : Int := g.f F.SC_ZONE_W_W

/-- STEP_X_z (R141). -/
def Gen.stepXz (g : Gen) (z : Nat) : Int := g.stepX + g.stepX * g.stretch z / 2 ^ 20

/-- The zone boundary position P_z (R141). -/
def Gen.zonePos (g : Gen) : Nat → Int
  | 0 => sext 64 (g.n64 R.SC_U0_LO) + g.zoneX0 * g.stepX
  | z + 1 => Gen.zonePos g z + g.zoneW * g.stepXz z

/-- The zone of a column. -/
def Gen.zoneOf (g : Gen) (col : Int) : Nat := min ((col - g.zoneX0) / max 1 g.zoneW).toNat 63

/-- The cross-web grid position of an output column, in 2^-28 pixel (R141). -/
def Gen.u (g : Gen) (col : Int) : Int :=
  if g.distEn then
    let z := g.zoneOf col
    g.zonePos z + (col - (g.zoneX0 + z * g.zoneW)) * g.stepXz z
  else sext 64 (g.n64 R.SC_U0_LO) + col * g.stepX

/-- The shift at a column in 1/64 line (R142). -/
def Gen.sh (g : Gen) (col : Int) : Int :=
  if g.distEn then
    let w := max 1 g.zoneW
    let m := fun (z : Nat) => g.zoneX0 + z * g.zoneW + g.zoneW / 2
    if col ≤ m 0 then g.shift 0
    else if col ≥ m 63 then g.shift 63
    else
      let z := ((col - m 0) / w).toNat
      g.shift z + (g.shift (z + 1) - g.shift z) * (col - m z) / w
  else 0

/-- The down-web grid position of an output column of an image line (R142). -/
def Gen.v (g : Gen) (col : Int) (l : Nat) : Int :=
  sext 64 (g.n64 R.SC_V0_LO) + (64 * (l : Int) + g.sh col) * g.stepY / 64

/-- The tap base and the phase of a position (R144). -/
def tapPhase (p : Int) : Int × Nat :=
  let ph := (p % 2 ^ 28 + 2 ^ 21) / 2 ^ 22
  if ph = 64 then (p / 2 ^ 28 + 1, 0) else (p / 2 ^ 28, ph.toNat)

def Gen.coefX (g : Gen) (ph j : Nat) : Int := sext 16 (bits (g.n (R.SC_COEF_X (ph * 4 + j / 2))) (16 * (j % 2)) 16)
def Gen.coefY (g : Gen) (ph j : Nat) : Int := sext 16 (bits (g.n (R.SC_COEF_Y (ph * 3 + j / 2))) (16 * (j % 2)) 16)

/-- One filter pass: the rounded and clamped sum, and 1 where the clamp changes the value (R144). -/
def filterSum (s : Int) : Nat × Nat :=
  let r := (s + 8192) / 2 ^ 14
  if r < 0 then (0, 1) else if r > 65535 then (65535, 1) else (r.toNat, 0)

/-- A sum of coefficient-sample products, with the clamps counted in the samples. -/
def tapSum (l : List (Int × Option (Nat × Nat))) : Option (Int × Nat) :=
  l.foldl (fun acc p => do
    let (s, n) ← acc
    let (v, k) ← p.2
    return (s + p.1 * v, n + k)) (some (0, 0))

/-- The down-web filter at grid column `x` (R144, R146): the value and the clamps. -/
def Core.scaleY (c : Core) (g : Gen) (l : Nat) (col x : Int) (ch : Nat) : Option (Nat × Nat) :=
  let p := g.v col l
  if g.fb F.SC_CFG_BYPASS_Y then (c.compose l x ((p + 2 ^ 27) / 2 ^ 28) ch).map (fun v => (v, 0))
  else do
    let (i, ph) := tapPhase p
    let (s, _) ← tapSum ((List.range 6).map fun j =>
      (g.coefY ph j, (c.compose l x (i - 2 + j) ch).map (fun v => (v, 0))))
    return filterSum s

/-- A scaled channel at an output column of an image line: the value and the clamps that changed a value. -/
def Core.scaled (c : Core) (g : Gen) (l : Nat) (col : Int) (ch : Nat) : Option (Nat × Nat) :=
  let p := g.u col
  if g.fb F.SC_CFG_BYPASS_X then c.scaleY g l col ((p + 2 ^ 27) / 2 ^ 28) ch
  else do
    let (i, ph) := tapPhase p
    let (s, n) ← tapSum ((List.range 8).map fun j => (g.coefX ph j, c.scaleY g l col (i - 3 + j) ch))
    let (v, k) := filterSum s
    return (v, n + k)

/-! ### The colour transform (R152-R156) -/

/-- A node's tone in the lattice (R152). -/
def Gen.node (g : Gen) (n0 n1 n2 k : Nat) : Nat := Tab.get (fun _ => 0) g.tabs.lattice (((n0 * 17 + n1) * 17 + n2) * 8 + k)

/-- The reset contents of the curves (R157). -/
def curveReset (i : Nat) : Nat := min (256 * (i % 257)) 65535

def Gen.curve (g : Gen) (k i : Nat) : Nat := Tab.get curveReset g.tabs.curves (k * 257 + i)

/-- The lattice at three inputs: the walk over the axes ordered by falling fraction (R152). -/
def Gen.latticeTone (g : Gen) (k x0 x1 x2 : Nat) : Nat :=
  let f := fun a => (if a = 0 then x0 else if a = 1 then x1 else x2) % 4096
  let ord : List Nat :=
    if f 0 ≥ f 1 then
      (if f 1 ≥ f 2 then [0, 1, 2] else if f 0 ≥ f 2 then [0, 2, 1] else [2, 0, 1])
    else (if f 0 ≥ f 2 then [1, 0, 2] else if f 1 ≥ f 2 then [1, 2, 0] else [2, 1, 0])
  let p := ord.getD 0 0
  let q := ord.getD 1 1
  let r := ord.getD 2 2
  let node := fun (axes : List Nat) =>
    g.node (x0 / 4096 + axes.count 0) (x1 / 4096 + axes.count 1) (x2 / 4096 + axes.count 2) k
  (node [] * (4096 - f p) + node [p] * (f p - f q) + node [p, q] * (f q - f r) + node [p, q, r] * f r + 2048) / 4096

/-- The add channels enabled and mapped to an ink (R113, R153). -/
def Gen.addChans (g : Gen) (k : Nat) : List Nat :=
  (List.range 5).filterMap fun j =>
    let m := bits (g.f F.JOB_ADD_MAP_MAP) (4 * j) 4
    if m ≥ 8 ∧ m % 8 = k then some (j + 3) else none

/-- The curve of an ink (R154). -/
def Gen.curveTone (g : Gen) (k t : Nat) : Nat :=
  if g.fb F.SC_CFG_CURVE_EN then
    (g.curve k (t / 256) * (256 - t % 256) + g.curve k (t / 256 + 1) * (t % 256) + 128) / 256
  else t

/-- An ink's tone before the total-ink limit, and the clamps counted (R152-R154). -/
def Core.tonePre (c : Core) (l : Nat) (col : Int) (k : Nat) : Option (Nat × Nat) := do
  let g := c.genAt l
  if g.fb F.JOB_CFG_SPACE then
    let (x0, n0) ← c.scaled g l col 0
    let (x1, n1) ← c.scaled g l col 1
    let (x2, n2) ← c.scaled g l col 2
    let (t, n) ← (g.addChans k).foldl (fun acc ch => do
      let (t, n) ← acc
      let (x, m) ← c.scaled g l col ch
      return (min 65535 (t + x), n + m)) (some (g.latticeTone k x0 x1 x2, n0 + n1 + n2))
    return (g.curveTone k t, n)
  else
    let (t, n) ← c.scaled g l col k
    return (g.curveTone k t, n)

/-- The inks under the total-ink limit (R155). -/
def Gen.tilInks (g : Gen) : List Nat :=
  (List.range 8).filter fun k => bit (g.f F.SC_TIL_MASK_MASK) k && bit (g.f F.JOB_CFG_INKS) k

/-- The channels whose windows feed an ink (R150). -/
def Gen.inkChans (g : Gen) (k : Nat) : List Nat := if g.fb F.JOB_CFG_SPACE then [0, 1, 2] ++ g.addChans k else [k]

/-- The tone of an ink as stage 4 leaves it, and the clamps counted (R144, R155, R156): those of its own channels, and under
the total-ink limit of the further channels that feed the other masked inks (DESIGN CHOICE: log entry 76). -/
def Core.tone4 (c : Core) (l : Nat) (col : Int) (k : Nat) : Option (Nat × Nat) := do
  let g := c.genAt l
  let (t, n) ← c.tonePre l col k
  if g.fb F.SC_CFG_TIL_EN && g.tilInks.contains k then
    let s ← g.tilInks.foldl (fun acc j => do
      let a ← acc
      let (x, _) ← c.tonePre l col j
      return a + x) (some 0)
    let others := (g.tilInks.flatMap g.inkChans).eraseDups.filter fun ch => !(g.inkChans k).contains ch
    let m ← others.foldl (fun acc ch => do
      let a ← acc
      let (_, x) ← c.scaled g l col ch
      return a + x) (some n)
    let lim := g.f F.SC_TIL_LIMIT
    return (if s > lim then t * lim / s else t, m)
  else return (t, n)

end Sys2Proof.Machine
end

