-- ==== Sys2Proof/Machine/Screen.lean ====
section
/-!
DEFINITION. Stages 5 to 8 of the pixel path (spec/06_screening_and_nozzles.md): the nozzle and segment entries in
force, the row plan and hiding, gain and offset, coverage compensation, screening and the drop-code ladder.
-/

namespace Sys2Proof.Machine

/-! ### Nozzles (R11, R160-R164, R177) -/

/-- The global nozzle index of ink `k`, row `r`, column `x` (R11). -/
def nozzle (k r x : Nat) : Nat := k * 262144 + r * 131072 + x

/-- A nozzle entry at reset: masked (R163). -/
def nzReset : Nat → Word := fun _ => 0xC0000000

def Core.ink (c : Core) (k : Nat) : InkVer := Tab.get (fun _ => {}) c.inks k
def Core.setInk (c : Core) (k : Nat) (v : InkVer) : Core := { c with inks := Tab.set (fun _ => {}) c.inks k v }

/-- The version of an ink's entries for image line `l` (R177); the generation's own tables where none is kept. -/
def Core.verAt (c : Core) (k l : Nat) : Ver :=
  match (c.ink k).vers.find? (fun v => v.le ≤ l) with
  | some v => v
  | none => { nz := (c.genAt l).tabs.nz, seg := (c.genAt l).tabs.seg }

def Ver.nzE (v : Ver) (n : Nat) : Nat := (Tab.get nzReset v.nz n).toNat
def Ver.segE (v : Ver) (s : Nat) : Nat := (Tab.get (fun _ => 0) v.seg s).toNat

/-- The run of the head map that reaches a nozzle: head group, nozzle-in-group and head (R164). -/
def mapNozzle (m : List MapRun) (n : Nat) : Option (Nat × Nat × Nat) :=
  m.findSome? fun r =>
    let st := if r.cstep2 then 2 else 1
    if r.start ≤ n ∧ (n - r.start) % st = 0 ∧ (n - r.start) / st < r.count then
      let j := (n - r.start) / st
      some (r.hg, if r.idir then r.iStart - j else r.iStart + j, r.head)
    else none

/-- The nozzles that a run reaches. -/
def MapRun.nozzles (r : MapRun) : List Nat :=
  (List.range r.count).map fun j => r.start + j * (if r.cstep2 then 2 else 1)

/-- A head's blank for a line of stroke `s` at the computing bar (spec/07_run_ahead_pipeline.md R193). -/
def Core.blankFor (c : Core) (h s : Nat) : Bool :=
  match (Tab.get (fun _ => []) c.pipe.blanks h).find? (fun p => p.1 ≤ s) with
  | some p => p.2
  | none => false

/-! ### Bars of an ink (R166) -/

def Gen.bar0 (g : Gen) (k : Nat) : Nat := g.f (F.NZ_INK_BAR0 k)
def Gen.bar1 (g : Gen) (k : Nat) : Nat := g.f (F.NZ_INK_BAR1 k)
def Gen.twoBar (g : Gen) (k : Nat) : Bool := g.bar0 k != g.bar1 k

/-- The computing bar: the one of the two with the smaller D_b. -/
def Core.compBar (c : Core) (g : Gen) (k : Nat) : Nat :=
  if (c.bar (g.bar1 k)).d < (c.bar (g.bar0 k)).d then g.bar1 k else g.bar0 k

/-- The other bar of a two-bar ink. -/
def Core.secondBar (c : Core) (g : Gen) (k : Nat) : Nat :=
  if c.compBar g k = g.bar0 k then g.bar1 k else g.bar0 k

/-- D_k: the D_b of the computing bar; the head map and the bars are fixed in a job (R167). -/
def Core.dInk (c : Core) (k : Nat) : Int := (c.bar (c.compBar c.newest k)).d

/-! ### The row plan (R168-R171) -/

/-- What the row plan of one line needs: ink, line, generation, version and computing stroke. -/
structure InkCtx where
  k : Nat
  l : Nat
  g : Gen
  v : Ver
  s : Nat

def Core.inkCtx (c : Core) (k l : Nat) : InkCtx :=
  { k := k, l := l, g := c.genAt l, v := c.verAt k l, s := (l + c.dInk k).toNat }

def InkCtx.cf2 (x : InkCtx) : Bool := x.g.fb (F.NZ_INK_CF2 x.k)
def InkCtx.inter (x : InkCtx) : Bool := x.g.fb (F.NZ_INK_INTERLEAVE x.k)

/-- STATE of a nozzle: a blanked head's nozzles are treated as out, a masked one stays masked (R161, R193). -/
def Core.nzState (c : Core) (x : InkCtx) (n : Nat) : Nat :=
  let st := x.v.nzE n / 2 ^ 30
  if st = 3 then 3
  else match mapNozzle x.g.tabs.map n with
    | some (_, _, h) => if c.blankFor h x.s then 2 else st
    | none => st

/-- A capable nozzle (R161). -/
def Core.capable (c : Core) (x : InkCtx) (n : Nat) : Bool :=
  let st := c.nzState x n
  st == 0 || (st == 1 && !x.g.fb F.NZ_CFG_HIDE_WEAK)

/-- HALF of a column (R169). -/
def InkCtx.half (x : InkCtx) (col : Nat) : Nat :=
  if col < 131072 ∧ x.cf2 ∧ x.g.fb (F.NZ_INK_STAGGER x.k) ∧ ¬ x.inter then
    let h := bits (x.v.segE (nozzle x.k 0 col / 64)) 2 2
    if h = 3 then 0 else h
  else 0

/-- The primary nozzle of a column: none where it does not exist (R168, R169). -/
def InkCtx.primary (x : InkCtx) (col : Nat) : Option Nat :=
  match x.half col with
  | 1 => some (nozzle x.k 1 col)
  | 2 => if col = 0 then none else some (nozzle x.k 1 (col - 1))
  | _ => some (nozzle x.k (if x.cf2 ∧ x.inter then x.l % 2 else 0) col)

/-- The partner nozzle of a column, where R170 lets one stand in. -/
def Core.partner (c : Core) (x : InkCtx) (col : Nat) : Option Nat :=
  if x.cf2 ∧ x.half col = 0 ∧ (¬ x.inter ∨ bit x.g.fullOk x.k) then
    let p := nozzle x.k (if x.inter ∧ x.l % 2 = 1 then 0 else 1) col
    if c.capable x p ∧ x.half (col + 1) ≠ 2 then some p else none
  else none

/-- The plan of a column. -/
structure Plan where
  fires : Option Nat
  masked : Bool
  byPartner : Bool
  weight : Nat

def Core.plan (c : Core) (x : InkCtx) (col : Nat) : Plan :=
  match x.primary col with
  | none => ⟨none, false, false, bits (x.v.nzE (nozzle x.k 0 col)) 2 8⟩
  | some p =>
    let w := bits (x.v.nzE p) 2 8
    if c.nzState x p = 3 then ⟨none, true, false, w⟩
    else if c.capable x p then ⟨some p, false, false, w⟩
    else match c.partner x col with
      | some q => ⟨some q, false, true, w⟩
      | none => ⟨none, false, false, w⟩

def Plan.hidden (p : Plan) : Bool := p.fires.isNone && !p.masked

/-- The end of the slice map in a generation. -/
def Gen.lastCol (g : Gen) : Nat := g.f (F.SL_BOUND_COL 16)
def Gen.firstCol (g : Gen) : Nat := g.f (F.SL_BOUND_COL 0)

/-- The seam record that serves a line of ink `k` (spec/17_time_and_crew.md R468): `right` the neighbour's side. -/
def Core.seamAt (c : Core) (right : Bool) (x : InkCtx) : SeamRec :=
  Tab.get (fun _ => {}) c.pipe.seams (2 * (x.s - c.sTof) + b2n right)

/-- The share that a hidden column gives each neighbour (R171); none for poison. -/
def Core.shareOf (c : Core) (x : InkCtx) (col : Nat) : Option Nat :=
  let p := c.plan x col
  if p.hidden then (c.tone4 x.l col x.k).map (fun t => t.1 * p.weight / 256) else some 0

/-- The shares a firing column receives from its two neighbours, across a seam from the record. -/
def Core.shareIn (c : Core) (x : InkCtx) (col : Nat) : Option Nat := do
  let crew := c.fb F.CREW_STAT_FORMED
  let left ←
    if crew && x.g.fb F.CREW_CFG_LEFT_EN && col == x.g.firstCol then some ((c.seamAt false x).vals.getD x.k 0)
    else if col = 0 then some 0 else c.shareOf x (col - 1)
  let right ←
    if crew && x.g.fb F.CREW_CFG_RIGHT_EN && col + 1 == x.g.lastCol then some ((c.seamAt true x).vals.getD x.k 0)
    else if col ≥ 131071 then some 0 else c.shareOf x (col + 1)
  return left + right

/-! ### Stages 5 to 7 -/

/-- Stage 5 (R175). -/
def tone5 (e t : Nat) : Nat :=
  let r : Int := ((t * bits e 18 12 + 1024) / 2048 : Nat) + sext 8 (bits e 10 8) * 256
  (max 0 (min 65535 r)).toNat

/-- The key of a coverage count (R180). -/
def covKey (k l j : Nat) : Nat := (k * 64 + l % 64) * 2048 + j

/-- The non-zero codes of a block of 64 columns on a line, as counted when it was computed. -/
def Core.covCount (c : Core) (k l j : Nat) : Nat :=
  let e := Tab.get (fun _ => (0, 0)) c.pipe.cov (covKey k l j)
  if e.1 = l + 1 then e.2 else 0

/-- CC_DEPTH lines (R180, R185). -/
def Gen.ccDepth (g : Gen) : Nat := let d := g.f F.NZ_CFG_CC_DEPTH; if d = 0 then 16 else d

/-- The bin of a coverage (R180). -/
def Core.ccBin (c : Core) (x : InkCtx) (col : Nat) : Nat :=
  let d := x.g.ccDepth
  let n := ((List.range (min d x.l)).map (fun i => c.covCount x.k (x.l - 1 - i) (col / 64))).sum
  let r := n * 4 / d
  b2n (x.g.f F.NZ_CC_EDGE_E1 ≤ r) + b2n (x.g.f F.NZ_CC_EDGE_E2 ≤ r) + b2n (x.g.f F.NZ_CC_EDGE_E3 ≤ r)

/-- The coverage factor of a bin in a segment entry (R162). -/
def segCC (e b : Nat) : Int := sext 3 (bits e (4 + 3 * b) 3)

/-- Stage 6 (R180). -/
def tone6 (cc : Int) (t : Nat) : Nat := (max 0 (min 65535 (((t : Int) * (32 + cc) + 16) / 32))).toNat

/-- The tile shift of R181. -/
def tileHash (seed bt ct : Nat) : Nat :=
  let m := fun n => n % 2 ^ 32
  let z := Nat.xor (Nat.xor seed (m (bt * 0x9E3779B1))) (m (ct * 0x85EBCA77))
  let z := m (Nat.xor z (z / 2 ^ 15) * 0x2C1B3C6D)
  let z := m (Nat.xor z (z / 2 ^ 12) * 0x297A2D39)
  Nat.xor z (z / 2 ^ 15)

/-- The threshold of a column (R181). -/
def InkCtx.threshold (x : InkCtx) (col : Nat) : Nat :=
  let scr := Tab.get (fun _ => ({} : Screen)) x.g.tabs.screens x.k
  let w := max 1 scr.w
  let h := max 1 scr.h
  let (hx, hy) :=
    if x.g.fb (F.NZ_INK_RAND x.k) then
      let z := tileHash (x.g.n (R.SCR_SEED x.k)) (x.s / h % 2 ^ 32) (col / w)
      (z % 65536 % w, z / 65536 % h)
    else (0, 0)
  scr.thr.getD ((x.s + hy) % h * w + (col + hx) % w) 0

/-- The ladder (R182): the code of a tone at a threshold. -/
def InkCtx.ladder (x : InkCtx) (t thr : Nat) : Nat :=
  let m := x.g.f (F.SCR_LEVELS_M x.k)
  let tj := fun j => if j = 0 then 0 else x.g.f (F.LADDER_T x.k (j - 1))
  let cj := fun j => if j = 0 then 0 else x.g.f (F.LADDER_C x.k (j - 1))
  if tj m ≤ t then cj m
  else
    let j := ((List.range m).filter (fun j => tj j ≤ t)).length - 1
    let f := (t - tj j) * 65536 / max 1 (tj (j + 1) - tj j)
    if f > thr then cj (j + 1) else cj j

/-- The code that the DROP4 layer lays over a column (R118): none where no layer acts there. -/
def Core.drop4 (c : Core) (x : InkCtx) (col : Nat) : Option (Option (Nat × Bool)) :=
  match x.g.layerOrder.find? (fun n => (c.surf (c.decAt n x.l).surf).fmt = 4 && (c.decAt n x.l).kind ≠ 2) with
  | none => some none
  | some n =>
    let d := c.decAt n x.l
    if bit (regsF d.desc (F.LAY_CFG_CH_MASK n)) x.k then
      (c.layerPix n x.l col x.l).map fun p =>
        p.map fun q => (q.2.getD x.k 0, decide (regsF d.desc (F.LAY_CFG_MODE n) = 2))
    else some none

/-- What the computation of a column gives. -/
structure ColRes where
  code : Nat := 0
  fires : Option Nat := none
  clips : Nat := 0
  byPartner : Bool := false
  redist : Bool := false
  lost : Bool := false
  t4 : Nat := 0
  t6 : Nat := 0
  bin : Nat := 0
  excl : Bool := false
  deriving Repr

/-- The pixel of a column through stages 5 to 8 (R170-R182); none for poison. -/
def Core.column (c : Core) (x : InkCtx) (col : Nat) : Option ColRes := do
  let p := c.plan x col
  let (t, clips) ← c.tone4 x.l col x.k
  let d4 ← c.drop4 x col
  match p.fires with
  | none =>
    let lost := p.hidden && (match d4 with
      | some (code, _) => code ≠ 0
      | none => false)
    return { clips := clips, redist := p.hidden, lost := lost, t4 := t, bin := c.ccBin x col }
  | some n =>
    let sh ← c.shareIn x col
    let t5 := tone5 (x.v.nzE n) (min 65535 (t + sh))
    let t6 := if x.g.fb F.NZ_CFG_CC_EN then tone6 (segCC (x.v.segE (n / 64)) (c.ccBin x col)) t5 else t5
    let s7 := x.ladder t6 (x.threshold col)
    let code := match d4 with
      | some (d, rep) => if rep ∨ d ≠ 0 then d else s7
      | none => s7
    return { code := code, fires := some n, clips := clips, byPartner := p.byPartner, t4 := t, t6 := t6
             bin := c.ccBin x col, excl := decide (sh ≠ 0) || decide (code ≠ s7) || (d4.any fun d => d.2 || d.1 ≠ 0) }

/-- The columns from `c0` on, `n` of them; none for poison in any of them. -/
def Core.columns (c : Core) (x : InkCtx) : Nat → Nat → Option (List ColRes)
  | _, 0 => some []
  | c0, n + 1 => do
    let r ← c.column x c0
    let rs ← Core.columns c x (c0 + 1) n
    return r :: rs

/-- The codes of an ink-line by nozzle, row by row, for the columns `c0` to `c1 - 1` of a slice: (nozzle, code). A nozzle that does
not fire has code 0 (R161), of either row. -/
def codesOf (x : InkCtx) (c0 : Nat) (rs : List ColRes) : List (Nat × Nat) :=
  (List.range (rs.length - 1)).flatMap fun i =>
    [0, 1].map fun r =>
      let n := nozzle x.k r (c0 + i)
      let own := rs.getD i {}
      let nxt := rs.getD (i + 1) {}
      (n, if own.fires = some n then own.code else if nxt.fires = some n then nxt.code else 0)

/-! ### Versions (R176, R177) -/

/-- The valid calibration sets in ascending number: (number, temperature). -/
def Gen.sets (g : Gen) : List (Nat × Int) :=
  (List.range 4).filterMap fun j =>
    if g.fb (F.NZ_TSET_TEMP_VALID j) then some (j, sext 16 (g.f (F.NZ_TSET_TEMP_TEMP j))) else none

/-- A set's word for a nozzle. -/
def Core.setWord (c : Core) (g : Gen) (j n : Nat) : Nat :=
  let a := g.n64 (R.NZ_TSET_BASE_LO j) + 4 * n
  match c.rd a 4 with
  | some b => ofLe b
  | none => (Config.calWord a).toNat

/-- GAIN and OFFSET at a temperature (R176), as the bits [29:10] of a nozzle entry. -/
def Core.interp (c : Core) (g : Gen) (n : Nat) (th : Int) : Nat :=
  let pack := fun (gain ofs : Int) => wrap 12 gain * 256 + wrap 8 ofs
  let gainOf := fun w => (bits w 20 12 : Int)
  let ofsOf := fun w => sext 8 (bits w 12 8)
  let at1 := fun j => let w := c.setWord g j n; pack (gainOf w) (ofsOf w)
  match g.sets.filter (fun s => s.2 ≤ th), g.sets.filter (fun s => th < s.2) with
  | [], [] => 0
  | [], (m, _) :: _ => at1 m
  | lo, [] => at1 (lo.getLastD (0, 0)).1
  | lo, (m, tm) :: _ =>
    let (j, tj) := lo.getLastD (0, 0)
    let w := (th - tj) * 65536 / (tm - tj)
    let a := c.setWord g j n
    let b := c.setWord g m n
    let mix := fun (p q : Int) => p + ((q - p) * w + 32768) / 65536
    pack (mix (gainOf a) (gainOf b)) (mix (ofsOf a) (ofsOf b))

/-- The temperature reported for a head (spec/11_head_health.md R299). -/
def Core.theta (c : Core) (h : Nat) : Int := c.fs (F.HH_THETA_THETA h)

/-- The heads that serve an ink. -/
def Gen.headsOf (g : Gen) (k : Nat) : List Nat :=
  (g.tabs.map.filterMap (fun r => if r.start / 262144 = k then some r.head else none)).eraseDups

/-- GAIN and OFFSET of every nozzle of some runs of the head map, interpolated at the temperatures `theta` (R176). -/
def Core.interpRuns (c : Core) (g : Gen) (runs : List MapRun) (theta : Tab Int) (nz : Tab Word) : Tab Word :=
  runs.foldl (fun nz r => r.nozzles.foldl (fun nz n =>
    let e := (Tab.get nzReset nz n).toNat
    Tab.set nzReset nz n (BitVec.ofNat 32 (setBits e 10 20 (c.interp g n (Tab.get (fun _ => 0) theta r.head))))) nz) nz

/-- A version of an ink's entries as a generation creates it, with GAIN and OFFSET of every nozzle that the map reaches
interpolated at the temperatures `theta` under TSET_EN (R176, R177). -/
def Core.mkVer (c : Core) (g : Gen) (k le : Nat) (theta : Tab Int) : Ver :=
  let mine := fun (p : Nat × Word) => p.1 / 262144 = k
  let nz := g.tabs.nz.filter mine
  let nz := if g.fb F.NZ_CFG_TSET_EN then c.interpRuns g (g.tabs.map.filter fun r => r.start / 262144 = k) theta nz else nz
  { le := le, nz := nz, seg := g.tabs.seg.filter (fun p => p.1 / 4096 = k), theta := theta }

end Sys2Proof.Machine
end

