-- ==== Sys2Proof/Machine/Lp.lean ====
section
/-!
DEFINITION. The personalities of the legacy bridge as other units touch them (spec/15_lh460_compatibility.md R405, R409,
R410, R415).
-/

namespace Sys2Proof.Machine

def lpIdle : Nat := 0
def lpLoaded : Nat := 1
def lpRun : Nat := 2
def lpFaulted : Nat := 3

def Core.setLg (c : Core) (v : Bridge) : Core := { c with lg := v }
def Core.pers (c : Core) (n : Nat) : Pers := Tab.get (fun _ => {}) c.lg.pers n
def Core.setPers (c : Core) (n : Nat) (v : Pers) : Core :=
  c.setLg { c.lg with pers := Tab.set (fun _ => {}) c.lg.pers n v }

def Core.lpOn (c : Core) (n : Nat) : Bool := c.fb (F.LG_LP_MAP_EN n)
def Core.lpSt (c : Core) (n : Nat) : Nat := c.f (F.LG_LP_STAT_STATE n)

/-- The native ink of an LH-460 ink (R400). -/
def Core.lpInk (c : Core) (n i : Nat) : Option Nat :=
  let k := bits (c.f (F.LG_LP_MAP_INK_MAP n)) (4 * i) 4
  if k < 8 then some k else none

/-- The mapped inks of a personality. -/
def Core.lpInks (c : Core) (n : Nat) : List Nat := (List.range 4).filterMap (c.lpInk n)

/-- The ID of pool surface `q` of a personality (R415). -/
def Core.lpId (c : Core) (n q : Nat) : Nat := 1023 - n * (c.f F.LG_CFG_POOL + 1) - q

/-- LATTN_N as ATTN and ATTN_EN stand (R405). -/
def Core.lattnSync (c : Core) : Core :=
  c.setB F.LG_STAT_LATTN ((List.range 8).any fun n => c.lpOn n && c.fb (F.LG_LP_STAT_ATTN n) && c.fb (F.LG_LP_STAT_ATTN_EN n))

/-- A personality changes its state (R409). -/
def Core.lpGoto (c : Core) (n new : Nat) : Core :=
  let old := c.lpSt n
  if old = new then c else (c.setF (F.LG_LP_STAT_STATE n) new).post 0x0F01 n (old * 256 + new)

/-- QUEUED as the bands stand; a fall to 1 or fewer in RUN sets ATTN (R405). -/
def Core.lpQueued (c : Core) (n : Nat) : Core :=
  let k := (c.pers n).bands.length
  let fell := decide (k < c.f (F.LG_LP_STAT_QUEUED n)) && decide (k ≤ 1) && c.lpSt n == lpRun
  let c := c.setF (F.LG_LP_STAT_QUEUED n) k
  (if fell then c.setB (F.LG_LP_STAT_ATTN n) true else c).lattnSync

/-- Held bands that are not bound are discarded, the open one among them; a bound one stays open for its words (R417). -/
def Core.lpDrop (c : Core) (n : Nat) : Core :=
  let u := c.pers n
  let bound := u.bands.filter fun b => b.bound.isSome
  let opened := u.opened.filter fun o => bound.any fun b => b.q == o.q
  (c.setPers n { u with bands := bound, opened := opened, starting := false }).lpQueued n

/-- The panels of the bridge's job are released, or the job has closed: no bound band awaits a decision event, and none fires
(R410, R412). -/
def Core.lpRelease (c : Core) : Core :=
  if c.fb F.LG_STAT_OWNER then
    c.each 8 fun n c =>
      let u := c.pers n
      (c.setPers n { u with bands := u.bands.filter fun b => b.bound.isNone, repeats := [] }).lpQueued n
  else c

/-- The bridge's job has closed (R415, R425). -/
def Core.lpClosed (c : Core) : Core :=
  (c.setB F.LG_STAT_OWNER false).setLg { c.lg with ending := false, kLast := none, window := none }

/-- Entry to FAULT, with a native status for cause 5 (R409, R421). -/
def Core.lpFault (c : Core) (n cause status : Nat) : Core :=
  if c.lpSt n = lpFaulted then c
  else
    let c := (c.lpGoto n lpFaulted).lpDrop n
    let c := (c.setF (F.LG_LP_STAT_CAUSE n) cause).setB (F.LG_LP_STAT_ATTN n) true
    c.lattnSync.post 0x0F02 n (status * 256 + cause)

/-- SAFE (cause 3) faults every enabled personality, an abort (cause 4) those in LOADED or RUN (R421). -/
def Core.lpFaultAll (c : Core) (cause : Nat) : Core :=
  c.each 8 fun n c =>
    if c.lpOn n && (cause == 3 || c.lpSt n == lpLoaded || c.lpSt n == lpRun) then c.lpFault n cause 0
    else c

/-- The token's answer to the native command that waits for it (R421, spec/17_time_and_crew.md R469). -/
def Core.bridgeHeard (c : Core) (op status : Nat) : Core :=
  match c.lg.queue with
  | [] => c
  | x :: rest => if x.asked && x.op == op then c.setLg { c.lg with queue := { x with heard := some status } :: rest } else c

/-- The bar whose lines a personality counts: the largest D_b among its inks' bars (R410). -/
def Core.lpBar (c : Core) (n : Nat) : Nat :=
  let g := c.newest
  let l := (c.lpInks n).flatMap fun k => [g.bar0 k, g.bar1 k]
  l.foldl (fun m b => if (c.bar m).d < (c.bar b).d then b else m) (l.headD 0)

/-- A line fired: the counters of the personalities whose band it belongs to. -/
def Core.lpLine (c : Core) (b line : Nat) : Core :=
  if c.fb F.LG_STAT_OWNER then
    c.each 8 fun n c =>
      let u := c.pers n
      if c.lpOn n && c.lpBar n == b && u.repeats.contains (line / 64) then
        let c := c.inc (R.LG_LP_LINES n)
        if line % 64 = 63 then
          (c.inc (R.LG_LP_BANDS n)).setPers n { u with repeats := u.repeats.filter (· ≠ line / 64) }
        else c
      else c
  else c

end Sys2Proof.Machine
end

