-- ==== Sys2Proof/Machine/Mapping.lean ====
section
/-!
DEFINITION. The address mapping of the DDR5 memory (spec/12_memory.md R320-R324), and a poisoned burst as a requester
receives it (R333).
-/

namespace Sys2Proof.Machine

/-! ### The address mapping (R320-R324) -/

/-- A field of a configuration register as the last MEM_INIT took it (R346). -/
def Core.mcfg (c : Core) (x : Fld) : Nat := regsF c.mem.cfg x

/-- The eight home bits: SUB, PAIR, SIDE, BG0-BG2, BA0, BA1. -/
def memHomes (t : Tab Word) : List Nat :=
  [regsF t F.MEM_HOME_0_SUB, regsF t F.MEM_HOME_0_PAIR, regsF t F.MEM_HOME_0_SIDE, regsF t F.MEM_HOME_0_BG0,
   regsF t F.MEM_HOME_1_BG1, regsF t F.MEM_HOME_1_BG2, regsF t F.MEM_HOME_1_BA0, regsF t F.MEM_HOME_1_BA1]

def memMask (t : Tab Word) (i : Nat) : Nat :=
  (Tab.get regReset t (R.MEM_XOR_LO i)).toNat + regsF t (F.MEM_XOR_HI_MASK i) * 2 ^ 32

def memColBits (t : Tab Word) : Nat := if regsF t F.MEM_CFG_DEVICE = 2 then 7 else 6
def memRowBits (t : Tab Word) : Nat := if regsF t F.MEM_CFG_DEVICE = 1 then 17 else 16
def memLogA (t : Tab Word) : Nat := min 2 (regsF t F.MEM_CFG_RANKS)

/-- The width of a decode address (R323). -/
def memW (t : Tab Word) : Nat := 14 + memColBits t + memLogA t + memRowBits t

/-- The bytes of a rank, and the addressed capacity C (R320). -/
def memRankBytes (t : Tab Word) : Nat := if regsF t F.MEM_CFG_DEVICE = 0 then 2 ^ 34 else 2 ^ 35
def memCap (t : Tab Word) : Nat := 4 * 2 ^ memLogA t * memRankBytes t

/-- The mapping is refused (R324). -/
def memRefused (t : Tab Word) : Bool :=
  let hs := memHomes t
  let w := memW t
  let m := regsF t F.MEM_MIR_SIZE_GIB * 2 ^ 30
  hs.eraseDups.length != 8 || hs.any (fun h => decide (h < 6) || decide (w ≤ h)) ||
  (List.range 8).any (fun i =>
    let k := memMask t i
    !bit k (hs.getD i 0) || (List.range 8).any (fun j => j != i && bit k (hs.getD j 0)) || decide (2 ^ w ≤ k)) ||
  (decide (0 < m) && decide (29 < hs.getD 2 0)) || decide (memCap t < 2 * m)

/-- The decode address of the first copy (R321). -/
def Core.memD (c : Core) (pa : Nat) : Nat :=
  let h := (memHomes c.mem.cfg).getD 2 0
  if pa < c.mirTop then pa / 2 ^ h * 2 ^ (h + 1) + pa % 2 ^ h else pa + c.mirTop

/-- The parity of a number's low 40 bits. -/
def parity (n : Nat) : Nat := ((List.range 40).map fun i => n / 2 ^ i % 2).sum % 2

/-- The value of select `i` (R322). -/
def memSel (t : Tab Word) (i d : Nat) : Nat := parity (Nat.land d (memMask t i))

/-- The bits of D placed directly, ascending (R323). -/
def memDirect (t : Tab Word) : List Nat :=
  (List.range (memW t)).filter fun b => 6 ≤ b && !(memHomes t).contains b

/-- The addressed rank of a decode address. -/
def memRank (t : Tab Word) (d : Nat) : Nat :=
  (((memDirect t).drop (memColBits t)).take (memLogA t)).foldr (fun b v => d / 2 ^ b % 2 + 2 * v) 0

/-- The channel of a decode address. -/
def memChan (t : Tab Word) (d : Nat) : Nat := memSel t 1 d + 2 * memSel t 2 d

/-- The bank of a decode address within its rank: subchannel, bank group and bank. -/
def memBank (t : Tab Word) (d : Nat) : Nat :=
  memSel t 0 d * 32 + memSel t 5 d * 16 + memSel t 4 d * 8 + memSel t 3 d * 4 + memSel t 7 d * 2 + memSel t 6 d

/-- The physical ranks that are populated. -/
def Core.rankState (c : Core) (i : Nat) : Nat := c.f (F.MEMR_STAT_STATE i)

/-- The physical rank that serves an addressed rank of a channel. -/
def Core.servingRank (c : Core) (ch rank : Nat) : Nat :=
  ((List.range 4).map (fun r => 4 * ch + r)).find? (fun i =>
    (c.rankState i == 1 || c.rankState i == 3 || c.rankState i == 5) && c.f (F.MEMR_STAT_SERVES i) == rank) |>.getD (4 * ch)

/-- The physical rank of a decode address. -/
def Core.rankOf (c : Core) (d : Nat) : Nat := c.servingRank (memChan c.mem.cfg d) (memRank c.mem.cfg d)

/-- The other copy's physical rank: the same addressed rank of the paired channel (R323). -/
def Core.partnerRank (c : Core) (i : Nat) : Nat :=
  c.servingRank ((i / 4 + 2) % 4) (c.f (F.MEMR_STAT_SERVES i))

/-- The lowest bit of a mask among the given bits, ascending. -/
def lowBit (m : Nat) (l : List Nat) : Nat := (l.find? (bit m)).getD 0

/-- The decode address of burst `k` of a rank of a channel, ascending in D (R323, R337): of the bits that are not the rank's, those
of PAIR and SIDE that lie lowest follow from the others. -/
def memBurstD (t : Tab Word) (ch rank k : Nat) : Nat :=
  let rb := ((memDirect t).drop (memColBits t)).take (memLogA t)
  let open_ := (List.range (memW t)).filter fun b => 6 ≤ b && !rb.contains b
  let m1 := memMask t 1
  let same : Bool := decide (lowBit m1 open_ = lowBit (memMask t 2) open_)
  let m2 := if same then Nat.xor m1 (memMask t 2) else memMask t 2
  let p1 := lowBit m1 open_
  let p2 := lowBit m2 open_
  let place := fun (l : List Nat) (v : Nat) => (l.foldl (fun (s : Nat × Nat) b => (s.1 + s.2 % 2 * 2 ^ b, s.2 / 2)) (0, v)).1
  let d := place (open_.filter fun b => b ≠ p1 && b ≠ p2) k + place rb rank
  let fix := fun (m p v d : Nat) => if parity (Nat.land d m) = v then d else d + 2 ^ p
  let v1 := ch % 2
  let v2 := if same then (ch % 2 + ch / 2) % 2 else ch / 2
  if p2 < p1 then fix m2 p2 v2 (fix m1 p1 v1 d) else fix m1 p1 v1 (fix m2 p2 v2 d)

/-- The physical address of a decode address. -/
def Core.memPa (c : Core) (d : Nat) : Nat :=
  let h := (memHomes c.mem.cfg).getD 2 0
  let m := c.mirTop
  if d < 2 * m then d / 2 ^ (h + 1) * 2 ^ h + d % 2 ^ h else d - m

/-! ### Poison (R333) -/

/-- MEM_CFG has a reserved code, with which no DIMM agrees (R319, R320; log entry 62). -/
def memReserved (t : Tab Word) : Bool :=
  regsF t F.MEM_CFG_RATE == 3 || regsF t F.MEM_CFG_RANKS == 3 || regsF t F.MEM_CFG_DEVICE == 3

/-- A poisoned burst delivered to a requester (R333): 0x0903 in the plain region, 0x0904 for a lost mirrored burst. -/
def Core.deliverPoison (c : Core) (pa : Nat) : Core :=
  let d := c.memD pa
  (c.inc R.MEM_POISON_CNT).post (if pa < c.mirTop then 0x0904 else 0x0903) (c.rankOf d) (d / 128)

/-- The bursts of a stretch of DRAM: 64 bytes each, aligned. -/
def bursts (pa n : Nat) : List Nat := (List.range (ceilDiv (pa % 64 + n) 64)).map fun k => pa / 64 * 64 + 64 * k

/-- A burst delivered poisoned after a decode error (R324, R333). -/
def Core.decodePoison (c : Core) (pa : Nat) : Core := (c.decodeErr pa).inc R.MEM_POISON_CNT

/-- A bad burst as its requester receives it: a decode error, or one marked poisoned. -/
def Core.deliverBad (c : Core) (pa : Nat) : Core :=
  if c.dramTop < pa + 64 then c.decodePoison pa else c.deliverPoison pa

end Sys2Proof.Machine
end

