-- ==== Sys2Proof/Machine/Pipeline.lean ====
section
/-!
DEFINITION. The run-ahead pipeline's work (spec/07_run_ahead_pipeline.md R187-R199): slices and their parts, what a nib
takes next, completion bits, squashes, the delay line of R16 and the completion of an ink-line.
-/

namespace Sys2Proof.Machine

def Core.nib (c : Core) (n : Nat) : Nib := Tab.get (fun _ => {}) c.pipe.nibs n
/-- Work that follows other work: a nib with an ink-line under way before or after is busy in this microsecond
(spec/19_observation_and_test.md R512). -/
def Nib.follows (v u : Nib) : Nib := { v with busy := u.busy || u.cur.isSome || v.cur.isSome }

def Core.setNib (c : Core) (n : Nat) (v : Nib) : Core :=
  let u := Tab.get (fun _ => {}) c.pipe.nibs n
  { c with pipe := { c.pipe with nibs := Tab.set (fun _ => {}) c.pipe.nibs n (v.follows u) } }

def Core.nibState (c : Core) (n : Nat) : Nat := c.f (F.NIBN_STAT_STATE n)

/-- The active nib that owns a slice. -/
def Core.owner (c : Core) (i : Nat) : Option Nat :=
  (List.range 18).find? fun n => c.nibState n == 2 && c.f (F.NIBN_STAT_SLICE n) == i

/-- The active nibs in slice order (R477). -/
def Core.activeNibs (c : Core) : List Nat := (List.range 16).filterMap c.owner

/-- The print path runs: a job has taken its top-of-form. -/
def Core.printing (c : Core) : Bool := c.job.tof && c.running

/-! ### Slices (R14, R189, R206) -/

/-- A part of a stroke's columns: its number, the slice whose nib computes it, its columns, its priority (R188). -/
structure Part where
  id : Nat
  slice : Nat
  c0 : Nat
  c1 : Nat
  prio : Nat

/-- The bound of slice `i` in the committed map. -/
def Core.bound (c : Core) (i : Nat) : Nat := c.newest.f (F.SL_BOUND_COL i)

/-- The bound of slice `j` of the fifteen of the degraded map (R206). -/
def Core.degBound (c : Core) (j : Nat) : Nat := c.bound 0 + j * (c.bound 16 - c.bound 0) / 15

/-- The parts of a stroke's columns: the committed map, or the degraded map of R206 with the columns of the lost slice
shared out for the strokes already in the window. -/
def Core.parts (c : Core) (s : Nat) : List Part :=
  if c.pipe.degrade then
    let q := c.pipe.lostSlice
    match c.pipe.degFrom with
    | some (from_, _) =>
      if s > from_ then (List.range 15).map fun j => ⟨j, j, c.degBound j, c.degBound (j + 1), 1⟩
      else
        ((List.range 16).filter (· ≠ q)).map (fun i => ⟨i, if i < q then i else i - 1, c.bound i, c.bound (i + 1), 1⟩) ++
        ((List.range 15).filterMap fun j =>
          let a := max (c.bound q) (c.degBound j)
          let b := min (c.bound (q + 1)) (c.degBound (j + 1))
          if a < b then some ⟨16 + j, j, a, b, 2⟩ else none)
    | none => (List.range 15).map fun j => ⟨j, j, c.degBound j, c.degBound (j + 1), 1⟩
  else (List.range 16).map fun i => ⟨i, i, c.bound i, c.bound (i + 1), 1⟩

/-! ### Lines due -/

/-- JOB_LAST of a generation (R128). -/
def Gen.jobLast (g : Gen) : Nat := g.n R.JOB_LAST_LO + g.f F.JOB_LAST_HI_LAST * 2 ^ 32

/-- A line, or JOB_LAST of its generation where that comes before it (R128). -/
def Core.toLast (c : Core) (l : Int) : Int := min l (c.genAt l.toNat).jobLast

/-- The image line that ink `k` prints at stroke `s` of its computing bar, where one is due (R80, R128). -/
def Core.lineDue (c : Core) (s k : Nat) : Option Nat :=
  let l := (s : Int) - c.dInk k
  if l < 0 then none
  else
    let g := c.genAt l.toNat
    if bit (g.f F.JOB_CFG_INKS) k && l.toNat ≤ g.jobLast then some l.toNat else none

/-- The inks with a line due at a stroke. -/
def Core.inksDue (c : Core) (s : Nat) : List Nat := (List.range 8).filter fun k => (c.lineDue s k).isSome

/-- A stroke is final: its catch has occurred (R21). -/
def Core.final (c : Core) (s : Nat) : Bool := s ≤ c.web.s + c.job.catchN

/-- The strokes in the window, lowest first. -/
def Core.window (c : Core) : List Nat := (List.range c.job.w).map (fun i => c.web.s + 1 + i)

/-! ### Completion bits (R198) -/

def doneKey (s part k : Nat) : Nat := (s % 24 * 64 + part) * 8 + k
def Core.isDone (c : Core) (s part k : Nat) : Bool := Tab.get (fun _ => false) c.pipe.done (doneKey s part k)
def Core.setDone (c : Core) (s part k : Nat) (v : Bool) : Core :=
  { c with pipe := { c.pipe with done := Tab.set (fun _ => false) c.pipe.done (doneKey s part k) v } }

/-- A slice-line abandoned at its deadline (R197). -/
def Core.isLate (c : Core) (s part : Nat) : Bool := Tab.get (fun _ => false) c.pipe.late (s % 24 * 64 + part)

/-- A slice-line is complete. -/
def Core.partDone (c : Core) (s part : Nat) : Bool := (c.inksDue s).all fun k => c.isDone s part k

/-- The ink-lines of a slice-line that are not complete. -/
def Core.partTodo (c : Core) (s part : Nat) : List Nat := (c.inksDue s).filter fun k => !c.isDone s part k

def slotKey (s g i : Nat) : Nat := s % 24 * 2097152 + g * 32768 + i

/-- Free the slot of a stroke that enters the window: no completion bits (R198). The codes of the stroke that has left it stand until
they are written over (spec/01_print_architecture.md R24). -/
def Core.clearSlot (c : Core) (s : Nat) : Core :=
  let z := s % 24
  let p := c.pipe
  { c with pipe := { p with
      done := p.done.filter (fun e => e.1 / 512 ≠ z)
      done2 := p.done2.filter (fun e => e.1 / 16 ≠ z)
      bad := p.bad.filter (fun e => e.1 / 512 ≠ z)
      weak := p.weak.filter (fun e => e.1 / 512 ≠ z)
      late := p.late.filter (fun e => e.1 / 64 ≠ z) } }

/-! ### What a nib takes next (R188, R23) -/

/-- The parts of a stroke that a nib computes. -/
def Core.nibParts (c : Core) (n s : Nat) : List Part :=
  (c.parts s).filter fun p => c.f (F.NIBN_STAT_SLICE n) == p.slice

/-- The nib that works at an audit: the auditor, or the third nib while the majority is taken. -/
def Audit.worker (a : Audit) : Nat := if a.majority then a.third else a.auditor

/-- The places in flight that a nib has taken: slice-lines of its own and audits (R188). -/
def Core.places (c : Core) (n : Nat) : Nat :=
  (c.nib n).flight.length + c.ump.audits.countP fun a => a.started && a.worker == n

/-- The ink-line that stands highest for a nib: lowest stroke of its own slice, then its share of missing columns; with every
place taken, of the slice-lines in flight (R188). -/
def Core.nextInk (c : Core) (n : Nat) (full : Bool) : Option (Nat × Nat × Nat) :=
  let pick := fun (prio : Nat) => c.window.findSome? fun s =>
    (c.nibParts n s).findSome? fun p =>
      if p.prio = prio && !c.isLate s p.id && (!full || (c.nib n).flight.contains (s, p.id)) then (c.partTodo s p.id).head?.map fun k => (s, p.id, k) else none
  match pick 1 with
  | some x => some x
  | none => pick 2

/-- An audit ends without a comparison: its nib leaves the ink-line under way. -/
def Core.dropAudit (c : Core) (a : Audit) : Core :=
  let c := { c with ump := { c.ump with audits := c.ump.audits.erase a } }
  let v := c.nib a.worker
  if v.aud = some a.stroke then c.setNib a.worker { v with aud := none, lastInk := false } else c

/-- The slice that the rotation audits at stroke event `s`, of `n` active nibs (spec/18_fault_tolerance.md R477). -/
def Core.auditSlice (c : Core) (s n : Nat) : Nat := (s + n * c.ump.auditShift - c.ump.auditShift) % n

/-- An audit abandoned: counted, and the rotation holds: its slice is audited again at stroke event `next`
(spec/18_fault_tolerance.md R477). -/
def Core.abandonAudit (c : Core) (a : Audit) (next : Nat) : Core :=
  let c := c.dropAudit a
  let n := c.activeNibs.length
  { c with ump := { c.ump with auditShift := (next + n * a.slice - a.slice) % n } }.inc R.UMP_AUDIT_ABANDON_CNT

/-- With all 8 places taken and an ink-line of priority 1 or 2 waiting for one, an audit in flight is abandoned (R188). -/
def Core.freePlace (c : Core) (n : Nat) : Core :=
  match c.nextInk n false, c.ump.audits.find? (fun a => a.started && !a.majority && a.auditor == n) with
  | some (s, p, _), some a => if 8 ≤ c.places n ∧ (s, p) ∉ (c.nib n).flight then c.abandonAudit a (c.web.s + 1) else c
  | _, _ => c

/-- The nib takes an ink-line of its own. -/
def Core.takeInk (c : Core) (n s p k : Nat) : Core :=
  let v := c.nib n
  c.setNib n { v with cur := some (s, p, k), flight := if v.flight.contains (s, p) then v.flight else v.flight ++ [(s, p)] }

/-- The nib takes an ink-line of an audit. -/
def Core.takeAudit (c : Core) (n : Nat) (a : Audit) : Core :=
  let c := { c with ump := { c.ump with audits := c.ump.audits.replace a { a with started := true } } }
  c.setNib n { c.nib n with aud := some a.stroke }

/-- The nib's datapath takes its next ink-line when it has none (R188): a majority's ahead of its own speculative work
(spec/18_fault_tolerance.md R478), an audit's last; with nothing to take it is idle, and its stages are empty (R195). A nib whose slice is
to be handed over takes no new slice-line (spec/18_fault_tolerance.md R491). -/
def Core.nibFill (c : Core) (n : Nat) : Core :=
  if c.printing && c.nibState n == 2 && (c.nib n).cur.isNone && (c.nib n).aud.isNone then
    let c := c.freePlace n
    let full := decide (8 ≤ c.places n) || c.ump.fwHand.any fun h => h.1 == n
    let audit := fun (major : Bool) => c.ump.audits.find? fun a => a.majority == major && a.worker == n && (a.started || !full)
    match c.nextInk n full, audit true, audit false with
    | some (s, p, k), some a, _ => if c.final s then c.takeInk n s p k else c.takeAudit n a
    | some (s, p, k), none, _ => c.takeInk n s p k
    | none, some a, _ => c.takeAudit n a
    | none, none, some a => c.takeAudit n a
    | none, none, none => c.setNib n { c.nib n with lastInk := false }
  else c

/-- Every nib leaves its work, and its stages are empty (R195). -/
def Core.nibsStop (c : Core) : Core :=
  c.each 18 fun n c => c.setNib n { c.nib n with cur := none, aud := none, flight := [], lastInk := false }

def Core.nibFillAll (c : Core) : Core := c.each 18 fun n c => c.nibFill n

/-- NIBn_STAT.INFLIGHT and NIB_STAT.INFLIGHT as the slice-lines in flight stand (R23). -/
def Core.inflightSync (c : Core) : Core :=
  let c := c.each 18 fun n c => c.setF (F.NIBN_STAT_INFLIGHT n) (min 8 (c.places n))
  c.setF F.NIB_STAT_INFLIGHT (min 128 ((List.range 18).map (fun n => min 8 (c.places n))).sum)

/-! ### Squash (R28, R191, R192) -/

/-- The counter of a squash cause. -/
def sqCounter (cause : Nat) : Nat :=
  match cause with
  | 0 => R.NIB_SQ_COMMIT
  | 1 => R.NIB_SQ_NOZZLE
  | 2 => R.NIB_SQ_LAYER
  | 3 => R.NIB_SQ_SPEED
  | _ => R.NIB_SQ_FAULT

/-- An ink-line that holds work: complete, or in flight. -/
def Core.worked (c : Core) (s : Nat) (p : Part) (k : Nat) : Bool :=
  c.isDone s p.id k ||
    (match c.owner p.slice with
     | some n => (c.nib n).flight.contains (s, p.id)
     | none => false)

/-- The speculative ink-lines at this instant that a test selects: stroke, part, ink. -/
def Core.specInks (c : Core) (sel : Nat → Part → Nat → Nat → Bool) : List (Nat × Part × Nat) :=
  (c.window.filter (fun s => !c.final s)).flatMap fun s =>
    (c.parts s).flatMap fun p =>
      (c.inksDue s).filterMap fun k =>
        match c.lineDue s k with
        | some l => if sel s p k l && c.worked s p k then some (s, p, k) else none
        | none => none

/-- The coverage counts of an ink-line's columns are no longer what its line gives. -/
def Core.dropCov (c : Core) (k l c0 c1 : Nat) : Core :=
  { c with pipe := { c.pipe with cov := c.pipe.cov.filter fun e =>
      !(e.1 / 2048 == k * 64 + l % 64 && decide (c0 / 64 ≤ e.1 % 2048) && decide (e.1 % 2048 < ceilDiv c1 64)) } }

/-- Throw an ink-line's work away: its bit clears, and a nib that has it under way abandons it. -/
def Core.dropInk (c : Core) (s : Nat) (p : Part) (k : Nat) : Core :=
  let c := c.setDone s p.id k false
  let c := { c with pipe := { c.pipe with late := Tab.set (fun _ => false) c.pipe.late (s % 24 * 64 + p.id) false } }
  let c := match c.lineDue s k with
    | some l =>
      { c with pipe := { c.pipe with delayOk := Tab.set (fun _ => false) c.pipe.delayOk (l * 8 + k) false } }.dropCov k l p.c0 p.c1
    | none => c
  let key := doneKey s p.id k
  let c := { c with pipe := { c.pipe with bad := Tab.set (fun _ => []) c.pipe.bad key []
                                          weak := Tab.set (fun _ => []) c.pipe.weak key []
                                          dropped := Tab.set (fun _ => (0, 0)) c.pipe.dropped key (0, 0) } }
  match c.owner p.slice with
  | some n =>
    let v := c.nib n
    let c := if v.cur = some (s, p.id, k) then c.setNib n { v with cur := none, lastInk := false } else c
    c.inc (R.NIBN_SQUASHED n)
  | none => c

/-- Squash the speculative ink-lines that a test selects, while a job prints. -/
def Core.squash (c : Core) (cause : Nat) (sel : Nat → Part → Nat → Nat → Bool) : Core :=
  let l := c.specInks sel
  if !c.printing || l.length = 0 then c
  else
    let c := c.eachOf l fun x c => c.dropInk x.1 x.2.1 x.2.2
    let c := (c.addN (sqCounter cause) l.length).perfAdd (68 + cause) l.length
    let c := c.each 18 fun n c =>
      let v := c.nib n
      let hit := fun (e : Nat × Nat) => l.any fun x => x.1 == e.1 && x.2.1.id == e.2
      let here := fun (e : Nat × Nat) => v.cur.any fun x => x.1 == e.1 && x.2.1 == e.2
      c.setNib n { v with flight := v.flight.filter fun e => !hit e || here e }
    let c := c.postKey (0x0403 * 65536 + cause) msec 0x0403 31 (cause * 2 ^ 28 + l.length % 2 ^ 28)
    c.nibFillAll.inflightSync

/-! ### The delay line and second bars (R16, R196) -/

def delayKey (l k x : Nat) : Nat := (l * 8 + k) * 131072 + x

/-- The stroke at which the second bar of ink `k` prints line `l`. -/
def Core.secondStroke (c : Core) (k l : Nat) : Nat :=
  (l + (c.bar (c.secondBar c.newest k)).d).toNat

/-- The poisoned burst of the place of a line's codes in the delay line, of which the spec does not say where in DRAM it lies (log
entry 47). -/
def Core.delayPoison (c : Core) (k l : Nat) : Option Nat :=
  ((c.mem.poison.filter (·.2)).map (·.1)).find? (Config.delayPlace k l)

/-- Row-1 codes of a line of a two-bar ink written to the delay line: once, when the line is complete and past its catch
(R16). The codes are held apart from the DRAM that commands reach: the spec gives them no address (log entry 47). -/
def Core.storeDelay (c : Core) (k l : Nat) : Core :=
  let key := l * 8 + k
  if Tab.get (fun _ => false) c.pipe.delayOk key && c.final (l + c.dInk k).toNat then
    let p := c.pipe
    let c := if Tab.get (fun _ => false) p.delayWas key then c
      else { c with
        pipe := { p with delay := (p.row1.filter fun e => e.1 / 131072 = key).foldl (fun t e => Tab.set (fun _ => 0) t e.1 e.2) p.delay
                         delayed := Tab.set (fun _ => false) p.delayed key true
                         delayWas := Tab.set (fun _ => false) (p.delayWas.filter fun e => c.web.s ≤ c.secondStroke (e.1 % 8) (e.1 / 8)) key true }
        mem := { c.mem with poison := c.mem.poison.filter fun e => !Config.delayPlace k l e.1 } }
    { c with pipe := { c.pipe with row1 := c.pipe.row1.filter (fun e => e.1 / 131072 ≠ key)
                                   delayOk := Tab.set (fun _ => false) c.pipe.delayOk key false } }
  else c

/-- The slot of a second bar's stroke with the row-1 codes of a line: every nozzle of the row is written. -/
def Core.delayCodes (c : Core) (g : Gen) (k l s2 : Nat) : Tab Code :=
  let mine := c.pipe.delay.filter (fun e => e.1 / 131072 = l * 8 + k)
  let row := (g.tabs.map.filter fun r => r.start / 131072 = 2 * k + 1).flatMap MapRun.nozzles
  row.foldl (fun t n =>
    match mapNozzle g.tabs.map n with
    | some (hg, i, _) => Tab.set (fun _ => 0) t (slotKey s2 hg i) (Tab.get (fun _ => 0) mine (delayKey l k (n % 131072)))
    | none => t) c.pipe.codes

/-- The codes of a line read back from the delay line into the slot of the second bar's stroke, once that stroke is in the
window; read as poison, they do not complete it (spec/12_memory.md R333). The second copy is read with the first (R334): it is good
where the first is. -/
def Core.readDelay (c : Core) (k l : Nat) : Core :=
  let s2 := c.secondStroke k l
  if Tab.get (fun _ => false) c.pipe.delayed (l * 8 + k) && s2 ≤ c.web.s + c.job.w && c.web.s < s2 then
    let g := c.genAt l
    let p := c.pipe
    let gone := { p with delay := p.delay.filter (fun e => e.1 / 131072 ≠ l * 8 + k)
                         delayed := Tab.set (fun _ => false) p.delayed (l * 8 + k) false }
    match c.delayPoison k l with
    | some b => { c with pipe := gone }.deliverPoison (64 * b)
    | none =>
      { c with pipe := { gone with codes := c.delayCodes g k l s2
                                   done2 := Tab.set (fun _ => false) p.done2 (s2 % 24 * 16 + c.secondBar g k) true } }
  else c

/-- Every line that is due is written to the delay line, and every one that can be is read back. -/
def Core.readDelays (c : Core) : Core :=
  let c := c.eachOf (c.pipe.delayOk.map (·.1)) fun key c => c.storeDelay (key % 8) (key / 8)
  c.eachOf (c.pipe.delayed.map (·.1)) fun key c => c.readDelay (key % 8) (key / 8)

/-! ### Completion of an ink-line (R187-R199) -/

/-- Is the image line of an ink complete in every part? -/
def Core.inkDone (c : Core) (s k : Nat) : Bool := (c.parts s).all fun p => c.isDone s p.id k

/-- The codes of an ink-line written to the slot; row-1 codes of a two-bar ink are kept until the line is final. -/
def Core.writeCodes (c : Core) (x : InkCtx) (codes : List (Nat × Nat)) : Core :=
  codes.foldl (fun c e =>
    let (n, code) := e
    if x.g.twoBar x.k && n / 131072 % 2 == 1 then
      { c with pipe := { c.pipe with
          row1 := Tab.set (fun _ => 0) c.pipe.row1 (delayKey x.l x.k (n % 131072)) (BitVec.ofNat 4 code) } }
    else match mapNozzle x.g.tabs.map n with
      | some (hg, i, _) =>
        { c with pipe := { c.pipe with
            codes := Tab.set (fun _ => 0) c.pipe.codes (slotKey x.s hg i) (BitVec.ofNat 4 code) } }
      | none => c) c

/-- The coverage counts of the blocks that the columns `b0` on make up, those with no drop too (R180). -/
def Core.writeCov (c : Core) (x : InkCtx) (b0 : Nat) (rs : List ColRes) : Core :=
  c.each (rs.length / 64) fun j c =>
    let n := ((rs.drop (64 * j)).take 64).countP (fun r => r.code ≠ 0)
    { c with pipe := { c.pipe with
        cov := Tab.set (fun _ => (0, 0)) c.pipe.cov (covKey x.k x.l (b0 / 64 + j)) (x.l + 1, n) } }

/-- The neighbour of a column on a line fires: at a crew's seam as the adjoining member's record has it, and while that has not
come no judgement is passed on the column (spec/17_time_and_crew.md R468). -/
def Core.nbrFires (c : Core) (x : InkCtx) (right : Bool) (col : Nat) : Bool :=
  let g := x.g
  let seam := c.fb F.CREW_STAT_FORMED && (if right then g.fb F.CREW_CFG_RIGHT_EN && col + 1 == g.lastCol
    else g.fb F.CREW_CFG_LEFT_EN && col == g.firstCol)
  if seam then !Tab.get (fun _ => false) c.pipe.seamIn (2 * (x.s - c.sTof) + b2n right) || bit (c.seamAt right x).fires x.k
  else if right then decide (col < 131071) && (c.plan x (col + 1)).fires.isSome
  else decide (col ≠ 0) && (c.plan x (col - 1)).fires.isSome

/-- Columns that can be neither fired nor shared on some line parity, at a generation's first line (R172). -/
def Core.unhidden (c : Core) (x : InkCtx) (c0 c1 : Nat) : Core :=
  if x.l ≠ x.g.le then c
  else c.each (c1 - c0) fun i c =>
    let col := c0 + i
    let stuck := fun (j : Nat) =>
      let y := { x with l := x.l + j, s := x.s + j }
      (c.plan y col).hidden && !c.nbrFires y false col && !c.nbrFires y true col
    let key := (x.g.num * 8 + x.k) * 131072 + col
    if (stuck 0 || stuck 1) && !Tab.get (fun _ => false) c.pipe.unhid key then
      { c with pipe := { c.pipe with unhid := Tab.set (fun _ => false) c.pipe.unhid key true } }.post 0x0441 x.k col
    else c

/-- The counters of a computed ink-line (R144, R170, R171, R173); computed again, it counts again (log entry 52). -/
def Core.inkCounters (c : Core) (x : InkCtx) (part : Nat) (rs : List ColRes) : Core :=
  let c := c.addN R.NZ_HIDE_PARTNER_CNT (rs.countP (·.byPartner))
  let c := c.addN R.NZ_HIDE_REDIST_CNT (rs.countP (·.redist))
  let c := c.addN R.SC_CLIP_CNT (rs.map (·.clips)).sum
  let lost := rs.countP (·.lost)
  let c := { c with pipe := { c.pipe with
      dropped := Tab.set (fun _ => (0, 0)) c.pipe.dropped (doneKey x.s part x.k) (if lost = 0 then (0, 0) else (x.l + 1, lost)) } }
  c.addN R.NZ_LOST_CNT lost

/-- 0x0442 for a line of an ink that is complete, with the codes dropped in all its parts (R173). -/
def Core.lostNote (c : Core) (x : InkCtx) : Core :=
  let n := ((List.range 64).map fun part =>
    let e := Tab.get (fun _ => (0, 0)) c.pipe.dropped (doneKey x.s part x.k)
    if e.1 = x.l + 1 then e.2 else 0).sum
  if n = 0 then c else c.postLim msec 0x0442 x.k n

/-- What a nib computes for an ink-line: the columns from the first touched block on (R174); none for poison. -/
def Core.computeInk (c : Core) (x : InkCtx) (c0 c1 : Nat) : Option (Nat × List ColRes) :=
  let b0 := c0 / 64 * 64
  let b1 := ceilDiv c1 64 * 64
  (c.columns x b0 (max (c1 + 1) b1 - b0)).map fun rs => (b0, rs)

/-- The predicted-density stream is emitted (spec/08_density_and_placement_loops.md R211, R214). -/
def Core.proofOn (c : Core) (g : Gen) : Bool := c.fb F.PF_CFG_EN && decide (g.n R.PF_RING_LINES ≠ 0)

/-- The coverage counts of earlier lines that an ink-line takes, for its codes or for the BIN of its prediction (R212), and that no
nib has formed yet, formed for its blocks: they do not depend on the order of computation (R180, R204). A line that the ink does
not print counts nothing. -/
def Core.fillCov (c : Core) (x : InkCtx) (c0 c1 : Nat) : Core :=
  if x.g.fb F.NZ_CFG_CC_EN || c.proofOn x.g then
    c.each (min 24 x.l) fun i c =>
      let l := x.l - min 24 x.l + i
      c.each (ceilDiv c1 64 - c0 / 64) fun j c =>
        let blk := c0 / 64 + j
        if (Tab.get (fun _ => (0, 0)) c.pipe.cov (covKey x.k l blk)).1 = l + 1 ∨ (c.lineDue (l + c.dInk x.k).toNat x.k).isNone then c
        else
          let y := c.inkCtx x.k l
          match c.columns y (64 * blk) 64 with
          | some rs => c.writeCov y (64 * blk) rs
          | none => c
  else c

/-- The time of an ink-line in ps (R195). -/
def inkCost (c0 c1 : Nat) (refill : Bool) : Nat :=
  let b0 := min (c0 - 1) (c0 / 64 * 64)
  let b1 := max (c1 + 1) (ceilDiv c1 64 * 64)
  (b1 - b0) * 1000 / 12 + (if refill then 250000 else 0)

/-- The datapath's work at an ink-line charged to a nib, with the refill where its stages are empty (R195). -/
def Core.chargeNib (c : Core) (n c0 c1 : Nat) : Core :=
  let v := c.nib n
  let cost := inkCost c0 c1 (!v.lastInk)
  let work := match v.work with
    | (t, w) :: r => if t = c.web.s then (t, w + cost) :: r else (c.web.s, cost) :: (t, w) :: r
    | [] => [(c.web.s, cost)]
  c.setNib n { v with work := work.take 1024, lastInk := true }

/-- How the words of a completed ink-line read back (R199); a failing word that is found later waits for the transmission. -/
def Core.lsEffect (c : Core) (s part k : Nat) (e : LsErr) : Core × Bool :=
  let key := doneKey s part k
  let set := fun (bad weak : List (Fin 64)) (c : Core) =>
    { c with pipe := { c.pipe with bad := Tab.set (fun _ => []) c.pipe.bad key (bad.map (·.val))
                                   weak := Tab.set (fun _ => []) c.pipe.weak key (weak.map (·.val)) } }
  match e with
  | .ok => (set [] [] c, true)
  | .corrected n => ((set [] [] c).addN R.LS_CE_CNT n.toNat, true)
  | .readBack g gs =>
    ((set [] [] c).eachOf (g :: gs) fun x c => (c.inc R.LS_UE_CNT).post 0x0407 31 (s % 24 * 65536 + x.val), false)
  | .later g gs => (set (g :: gs) [] c, true)
  | .laterCorrected gs => (set [] gs c, true)

/-! ### The predicted-density stream (spec/08_density_and_placement_loops.md R212, R213) -/

/-- The density curve PF_DENS_k. -/
def Core.densEntry (c : Core) (k i : Nat) : Nat :=
  if i % 2 = 0 then c.f (F.PF_DENS_D0 k (i / 2)) else c.f (F.PF_DENS_D1 k (i / 2))

/-- D_k of a tone, read as R154 reads a curve. -/
def Core.dens (c : Core) (k t : Nat) : Nat :=
  (c.densEntry k (t / 256) * (256 - t % 256) + c.densEntry k (t / 256 + 1) * (t % 256) + 128) / 256

/-- Where the entry of a line lies in the ring, and its length (R214): equal shares of PF_RING_SIZE (log entry 54). -/
def Gen.ringEntry (g : Gen) (l : Nat) : Nat × Nat :=
  let lines := max 1 (g.n R.PF_RING_LINES)
  let n := g.n R.PF_RING_SIZE * 1024 / lines
  (g.n64 R.PF_RING_BASE_LO + l % lines * n, n)

/-- The first column of the window of camera `n` for line `l`, as it stands. -/
def Core.camWindow (c : Core) (g : Gen) (n l : Nat) : Nat :=
  let dir : Int := if c.web.rev then -1 else 1
  let left := c.i64 (R.PF_CAM_DIST_LO n) - dir * (c.webPos - c.strokePos (l + c.sTof) / p32)
  let ax := 2 + c.f (F.PF_CAM_CFG_AXIS n)
  let v := c.i R.WEB_SPEED
  let a := (c.enc ax).pos / p32 + (if v = 0 then 0 else c.i (R.ENC_SPEED ax) * left / (v.natAbs : Int))
  let half : Int := c.f (F.CAM_SIZE_WIDTH n) * c.n (R.PF_CAM_PXW n)
  let p := 512 * (c.i64 (R.PF_CAM_XOFS_LO n) + a) + (if c.fb (F.PF_CAM_CFG_FLIP_X n) then -half else half)
  let win : Int := g.f (F.PF_CAM_WIN_WIN n)
  let start := (3 * p / (63500 * 512) - win / 2 + 32) / 64 * 64
  (max (g.firstCol : Int) (min start ((g.lastCol : Int) - win))).toNat

/-- Unstated bytes written over a range of DRAM. -/
def Core.wrFree (c : Core) (pa n : Nat) : Core :=
  let (l, c) := (List.range (ceilDiv n 8)).foldl (fun (l, c) _ => let (w, c) := c.free; (l ++ leBytes 8 w, c)) ([], c)
  c.put pa (l.take n)

/-- The prediction of an ink-line's columns from `c0` on, put into the ring; the row of a squashed one is replaced. The spec gives
the ring's bytes no layout: the cells are kept in `Proof.rows`, and the line's entry in DRAM holds unstated bytes (log entry 54). -/
def Core.emitProof (c : Core) (x : InkCtx) (part c0 : Nat) (rs : List ColRes) : Core :=
  let ring := x.g.n R.PF_RING_LINES
  if c.proofOn x.g then
    let wins := ((List.range 4).filter fun n => c.fb (F.PF_CAM_CFG_EN n) && c.fb (F.PF_CAM_CFG_TYPE n)).map fun n =>
      (n, c.camWindow x.g n x.l)
    let cells := rs.zipIdx.map fun r =>
      let col := c0 + r.2
      let plan := match r.1.fires with
        | none => 0
        | some m => if m / 131072 % 2 = 0 then 1 else if m % 131072 = col then 2 else 3
      let win := wins.foldl (fun m w =>
        if w.2 ≤ col && decide (col < w.2 + x.g.f (F.PF_CAM_WIN_WIN w.1)) then m + 2 ^ w.1 else m) 0
      ({ t4 := r.1.t4, d4 := c.dens x.k r.1.t4, t6 := r.1.t6, plan := plan, bin := r.1.bin, excl := r.1.excl, win := win } : Cell)
    let key := (x.l % ring * 8 + x.k) * 64 + part
    let e := x.g.ringEntry x.l
    { c with pf := { c.pf with rows := Tab.set (fun _ => (0, 0, [])) c.pf.rows key (x.l + 1, c0, cells) } }.wrFree e.1 e.2
  else c

/-- The lowest poisoned burst that alone keeps an ink-line from being computed (spec/12_memory.md R333); none where a read at or above
C - M keeps it. -/
def Core.badBurst (c : Core) (x : InkCtx) (c0 c1 : Nat) : Option Nat :=
  if (Core.computeInk { c with mem := { c.mem with poison := [] } } x c0 c1).isNone then none
  else ((c.mem.poison.filter (·.2)).map (·.1)).find? fun b =>
    (Core.computeInk { c with mem := { c.mem with poison := [(b, true)] } } x c0 c1).isNone

/-- The tiles of the surfaces that reach C - M (spec/04_surfaces_and_layers.md R110): where the entry of the index lies, and the first byte
of the tile at or above it. -/
def Core.overTiles (c : Core) : List (Nat × Nat) :=
  c.job.surfs.flatMap fun e =>
    if e.2.tiled then
      (List.range (e.2.tilesX * e.2.tilesY)).filterMap fun i =>
        (c.rd (e.2.base + 8 * i) 8).bind fun l =>
          let ofs := e.2.base2 + bits (ofLe l) 0 40
          if c.dramTop < ofs + bits (ofLe l) 40 18 then some (e.2.base + 8 * i, max ofs c.dramTop) else none
    else []

/-- The address at or above C - M whose read alone keeps an ink-line from being computed (spec/12_memory.md R324). -/
def Core.overRead (c : Core) (x : InkCtx) (c0 c1 : Nat) : Option Nat :=
  let c := { c with mem := { c.mem with poison := [] } }
  let l := c.overTiles
  (l.find? fun e =>
    let d := (l.filter (· ≠ e)).foldl (fun (d : Core) o => d.wr o.1 (List.replicate 8 0)) c
    (d.computeInk x c0 c1).isNone).map (·.2)

/-- An ink-line whose data is poisoned, or decodes at or above C - M: the burst is delivered, and the nib does not complete the slice-line
(R333). -/
def Core.failInk (c : Core) (n s : Nat) (p : Part) (x : InkCtx) : Core :=
  let c := match c.badBurst x p.c0 p.c1, c.overRead x p.c0 p.c1 with
    | some b, _ => c.deliverPoison (64 * b)
    | none, some a => c.decodePoison a
    | none, none => c
  let c := c.setNib n { c.nib n with cur := none, lastInk := false }
  { c with pipe := { c.pipe with late := Tab.set (fun _ => false) c.pipe.late (s % 24 * 64 + p.id) true } }

/-- An ink-line under way finished: its codes written, unless its data is poisoned (R333). -/
def Core.finishInk (c : Core) (n s part k : Nat) (ls : LsErr) : Core :=
  match c.lineDue s k, (c.parts s).find? (fun p => p.id = part) with
  | some l, some p =>
    let x := c.inkCtx k l
    let c := (c.byReq n).fillCov x p.c0 p.c1
    match c.computeInk x p.c0 p.c1 with
    | none => c.failInk n s p x
    | some (b0, rs) =>
      let mine := (rs.drop (p.c0 - b0)).take (p.c1 - p.c0)
      let c := c.writeCodes x (codesOf x p.c0 ((rs.drop (p.c0 - b0)).take (p.c1 + 1 - p.c0)))
      let c := c.writeCov x b0 rs
      let c := ((c.inkCounters x part mine).unhidden x p.c0 p.c1).emitProof x part p.c0 mine
      let c := c.chargeNib n p.c0 p.c1
      let (c, good) := c.lsEffect s part k ls
      if good then
        let c := c.setDone s part k true
        let c := if c.inkDone s k then c.lostNote x else c
        let c := c.setNib n { c.nib n with cur := none }
        let c := if c.partDone s part then
            ((c.setNib n { c.nib n with flight := (c.nib n).flight.filter (· ≠ (s, part)) }).inc (R.NIBN_DONE n)).perf (32 + n)
          else c
        let c := if x.g.twoBar k && c.inkDone s k then
            { c with pipe := { c.pipe with delayOk := Tab.set (fun _ => false) c.pipe.delayOk (l * 8 + k) true } }
          else c
        c.readDelays
      else c.setNib n { c.nib n with cur := none }
  | _, _ => c.setNib n { c.nib n with cur := none }

end Sys2Proof.Machine
end

