-- ==== Sys2Proof/Machine/Service.lean ====
section
/-!
DEFINITION. Bars in use and their head groups, FIRE edges as they issue, and test firing, spitting and gate tests in
SERVICE (spec/03_firing.md R85, R104, R105, spec/11_head_health.md R308-R311).
-/

namespace Sys2Proof.Machine

/-! ### Bars -/

/-- The bars that a generation uses: the enabled ones, PB0 where none is (log entry 12). -/
def Gen.barsInUse (g : Gen) : List Nat :=
  let l := (List.range 16).filter fun b => g.fb (F.FIRE_CFG_EN b)
  if l = [] then [0] else l

/-- The bars in use: those of the newest generation, from its acceptance on (log entry 46). -/
def Core.barsInUse (c : Core) : List Nat := c.newest.barsInUse

/-- D_min: the smallest D_b in use (R27); in a crew, on any member (R127). -/
def Core.dMin (c : Core) : Int :=
  let own := c.barsInUse.foldl (fun m b => min m (c.bar b).d) (c.bar (c.barsInUse.headD 0)).d
  match c.job.crewDMin with
  | some d => min own d
  | none => own

/-- The largest D_b in use. -/
def Core.dMax (c : Core) : Int :=
  c.barsInUse.foldl (fun m b => max m (c.bar b).d) (c.bar (c.barsInUse.headD 0)).d

/-- The bar of a run of the head map: the bar of its ink and row (R13, R166). -/
def Gen.runBar (g : Gen) (r : MapRun) : Nat :=
  let k := r.start / 262144
  if r.start / 131072 % 2 = 1 then g.bar1 k else g.bar0 k

/-- The head groups of a bar, ascending. -/
def Gen.barGroups (g : Gen) (b : Nat) : List Nat :=
  (List.range 64).filter fun hg => g.tabs.map.any fun r => r.hg == hg && g.runBar r == b

/-- The bar of a head group. -/
def Gen.groupBar (g : Gen) (hg : Nat) : Option Nat := (g.tabs.map.find? (fun r => r.hg = hg)).map g.runBar

/-- The bar of a head: that of the lowest-numbered run that names it (spec/11_head_health.md R299). -/
def Gen.headBar (g : Gen) (h : Nat) : Option Nat := (g.tabs.map.find? (fun r => r.head = h)).map g.runBar

/-- The ink and row on a bar. -/
def Gen.barInk (g : Gen) (b : Nat) : Option Nat :=
  (List.range 8).find? fun k => bit (g.f F.JOB_CFG_INKS) k && (g.bar0 k == b || g.bar1 k == b)

/-- The head that a nozzle-in-group of a group belongs to. -/
def Gen.headAt (g : Gen) (hg i : Nat) : Option Nat :=
  (g.tabs.map.find? fun r =>
    r.hg == hg && (if r.idir then r.iStart < i + r.count && i ≤ r.iStart else r.iStart ≤ i && i < r.iStart + r.count)).map (·.head)

def Core.head (c : Core) (h : Nat) : Head := Tab.get (fun _ => {}) c.heads h
def Core.setHead (c : Core) (h : Nat) (v : Head) : Core := { c with heads := Tab.set (fun _ => {}) c.heads h v }

/-! ### Edges -/

/-- The last lines sent for a head group, newest first. -/
def Core.sentOf (c : Core) (hg : Nat) : List SentLine := Tab.get (fun _ => []) c.pipe.sent hg

/-- A group's line recorded as sent: the transmitters keep the last two (R200). -/
def Core.keepSent (c : Core) (hg : Nat) (v : SentLine) : Core :=
  { c with pipe := { c.pipe with sent := Tab.set (fun _ => []) c.pipe.sent hg ((v :: c.sentOf hg).take 2) } }

/-- Drops of the heads of a bar for the line sent for stroke `s` (spec/11_head_health.md R316). -/
def Core.countDrops (c : Core) (b s : Nat) : Core :=
  let g := c.newest
  c.eachOf (g.barGroups b) fun hg c =>
    match (c.sentOf hg).find? (fun v => v.s = s) with
    | none => c
    | some v =>
      c.eachOf v.codes fun e c =>
        match g.headAt hg e.1 with
        | some h =>
          let u := c.head h
          if u.valid then
            let now := c.now / sec + 1
            c.setHead h { u with drops := u.drops + 1, fired := true
                                 onS := if u.firedSec = now then u.onS else u.onS + 1, firedSec := now }
          else c
        | none => c

/-- The pulse width of a bar for a line, in 1.25 ns units (R85). -/
def Core.fireWidth (c : Core) (b line : Nat) : Nat :=
  if c.job.tof then (c.genAt line).f (F.FIRE_WIDTH_WIDTH b) else c.newest.f (F.FIRE_WIDTH_WIDTH b)

/-- The previous pulse is still active, or less than 40 ns have passed since it (R86, R96). -/
def Core.pulseNear (c : Core) (b : Nat) : Bool :=
  match (c.bar b).lastEdge with
  | some t => decide (c.now - t < (c.bar b).width + 32)
  | none => false

/-- A FIRE edge issues on a bar (R85); in a replay without OUTPUTS none does (spec/19_observation_and_test.md R508). An output that is
still active goes on being active since it became so (R100). -/
def Core.issueEdge (c : Core) (b line s : Nat) : Core :=
  if c.muted then c else
  let u := c.bar b
  let c := c.setBar b { u with active := true, activeSince := if u.active then u.activeSince else c.now, curLine := line, width := c.fireWidth b line
                               lastEdge := some c.now
                               lastEven := if line % 2 = 0 then some c.now else u.lastEven
                               lastOdd := if line % 2 = 1 then some c.now else u.lastOdd }
  let c := ((c.inc (R.FIRE_FIRED_CNT b)).perf b).setN (R.FIRE_LAST_T32 b) c.t32
  (c.countDrops b s).lpLine b line

/-! ### Test firing (R104, R105) -/

def Core.latched (c : Core) (b : Nat) : Bool := c.fb (F.FIRE_STATUS_WD_TRIPPED b)

/-- The nozzle entries in force outside a job. -/
def Core.nzNow (c : Core) (n : Nat) : Nat := ((c.ink (n / 262144)).vers.headD { nz := c.newest.tabs.nz }).nzE n

/-- The nozzles of a bar, ascending. -/
def Gen.barNozzles (g : Gen) (b : Nat) : List Nat :=
  sortNat ((g.tabs.map.filter (fun r => g.runBar r = b)).flatMap MapRun.nozzles)

/-- The codes of a test line of a bar, by nozzle. -/
def Core.testCodes (c : Core) (t : TestRun) (b : Nat) : List (Nat × Nat) :=
  let g := c.newest
  let nz := (g.barNozzles b).filter fun n => c.nzNow n / 2 ^ 30 ≠ 3
  match t.mode with
  | 0 =>
    let s := c.surf t.surf
    let y := t.fired % max 1 s.height
    nz.filterMap fun n =>
      let k := n / 262144
      let x : InkCtx := { c.inkCtx k t.fired with g := g }
      match (c.plan x (n % 131072)).fires with
      | some m =>
        if m = n && n % 131072 < s.width then
          (c.pixel s (fun _ => 0) (n % 131072) y).map fun p => (n, p.2.getD k 0)
        else none
      | none => none
  | 1 => match (Tab.get (fun _ => []) t.todo b).head? with
    | some n => [(n, t.code)]
    | none => []
  | _ => nz.map fun n => (n, t.code)

/-- The gates that test, with their bars. -/
def Core.gates (c : Core) : List (Nat × Nat) :=
  (List.range 8).filterMap fun g => if c.fb (F.GATE_CFG_EN g) then some (g, c.f (F.GATE_CFG_BAR g)) else none

def Core.gateReps (c : Core) : Nat := c.f F.GT_CFG_REPS_M1 + 1

/-- The middle of a list of numbers; the mean of the middle two of an even count (R301, log entry 13). -/
def median (l : List Nat) : Nat :=
  let s := sortNat l
  if l.length % 2 = 1 then s.getD (l.length / 2) 0
  else (s.getD (l.length / 2 - 1) 0 + s.getD (l.length / 2) 0) / 2

/-- A nozzle's verdict (R310): 0 GOOD, 1 WEAK, 2 MISSING, 3 NOT_TESTED. -/
def gateVerdict (reps weakPct late medPeak medArr : Nat) (r : GateRes) : Nat :=
  if r.reps < reps ∨ r.blanked then 3
  else if 2 * r.hits < reps then 2
  else
    let peak := r.peaks / max 1 r.hits
    let arr := r.arrs / max 1 r.hits
    if r.hits < reps ∨ peak * 100 < weakPct * medPeak ∨ (arr - medArr) + (medArr - arr) > late then 1 else 0

/-- The verdicts of a bar formed and written to the result table (R310, R311). -/
def Core.gateVerdicts (c : Core) (t : TestRun) (g b : Nat) : Core :=
  let reps := c.gateReps
  let nz := c.newest.barNozzles b
  let res := fun n => Tab.get (fun _ => ({} : GateRes)) t.res n
  let full := nz.filter fun n => (res n).hits = reps
  let mp := median (full.map fun n => (res n).peaks / reps)
  let ma := median (full.map fun n => (res n).arrs / reps)
  let verdict := fun n => gateVerdict reps (c.f F.GT_CFG_WEAK_PCT) (c.f F.GT_LATE_LATE) mp ma (res n)
  let base := c.n64 R.GT_RES_BASE_LO
  let c := c.byCox.eachOf nz fun n c =>
    let r := res n
    let w := verdict n + r.hits % 32 * 4 + r.peaks / max 1 r.hits % 4096 * 256 + r.arrs / max 1 r.hits % 65536 * 2 ^ 32
    c.put (base + 8 * n) (leBytes 8 w)
  let missing := nz.countP fun n => verdict n = 2
  let c := c.addN R.GT_MISSING_CNT missing
  let c := c.addN R.GT_WEAK_CNT (nz.countP fun n => verdict n = 1)
  c.post 0x0805 (2048 + g) missing

/-- A test ends: its verdicts, and the event (R105): 0x0208, 0x0209 or 0x020A. -/
def Core.testEnd (c : Core) (code : Nat) : Core :=
  match c.test with
  | none => c
  | some t =>
    let c := if t.mode = 1 then
        c.eachOf c.gates fun g c =>
          if code = 0x020A ∧ t.fired ≠ 0 ∧ (Tab.get (fun _ => []) t.todo g.2) = [] then c else c.gateVerdicts t g.1 g.2
      else c
    let c := { c with test := none }
    let c := (c.setB F.FIRE_TEST_STAT_RUNNING false).setB F.GT_STAT_RUNNING false
    (c.setF F.GT_STAT_GATES 0).post code 31 t.lit

/-- A test stopped by a watchdog trip or by leaving SERVICE (R105). -/
def Core.testStop (c : Core) : Core := c.testEnd 0x020A

/-! ### The gates' filters (R308) -/

/-- A sample of a gate: the filtered value, and the filter after it; outside a window the baseline and the noise follow. -/
def GateRx.step (r : GateRx) (tpl : List Int) (inWin : Bool) (x : Int) : Int × GateRx :=
  let h := x :: r.hist
  let mu := r.mu / 2 ^ 20
  let y := (List.zipWith (fun a b => a * (b - mu)) tpl h).sum / 32768
  let follow := fun (v x : Int) => v + (x * 2 ^ 20 - v) / 1024
  (y, { mu := if inWin then r.mu else follow r.mu x, noise := if inWin then r.noise else follow r.noise y.natAbs
        hist := h.take 31 })

/-- The samples of a line filtered in order: the values, with whether each lies in the window. -/
def GateRx.run (tpl : List Int) (win : Nat → Bool) : Nat → GateRx → List Int → List (Int × Bool) × GateRx
  | _, r, [] => ([], r)
  | n, r, x :: l =>
    let (y, r1) := r.step tpl (win n) x
    let (ys, r2) := GateRx.run tpl win (n + 1) r1 l
    ((y, win n) :: ys, r2)

/-- The hit of a line: peak and arrival in 10 ns from the edge, by a parabola through the largest value, less the filter's delay of
16 samples. -/
def gateHit (k : Nat) (noise : Int) (ys : List (Int × Bool)) : Option (Nat × Nat) :=
  let best := ys.zipIdx.foldl (fun (b : Option (Int × Nat)) e =>
    if e.1.2 && (match b with
      | some (v, _) => decide (v < e.1.1)
      | none => true) then some (e.1.1, e.2) else b) none
  match best with
  | some (y, n) =>
    if y * (16 * 2 ^ 20) ≤ k * noise then none
    else
      let at_ := fun (i : Int) => if i < 0 then (0 : Int) else (ys.getD i.toNat (0, false)).1
      let p := at_ ((n : Int) - 1)
      let q := at_ ((n : Int) + 1)
      let d := 2 * (2 * y - p - q)
      let off := if d ≤ 0 then 0 else (20 * (q - p) + d) / (2 * d)
      some (min 4095 y.toNat, (10 * (n : Int) + off - 160).toNat % 65536)
  | none => none

/-- The samples of a gate in a line: its registers and what it hits. -/
def Core.gateRun (c : Core) (g : Nat) (windowed : Bool) (x : List (BitVec 12)) : Core × Option (Nat × Nat) :=
  let start := c.f (F.GATE_WIN_START g)
  let stop := start + c.f (F.GATE_WIN_WIDTH g)
  let tpl := (List.range 32).map fun j => sext 16 (bits (c.n (R.GATE_TPL g (j / 2))) (16 * (j % 2)) 16)
  let xs := x.map fun v => if c.fb (F.GATE_CFG_NEG g) then 4095 - (v.toNat : Int) else (v.toNat : Int)
  let r := Tab.get (fun _ => {}) c.gateRx g
  let (ys, r') := GateRx.run tpl (fun n => windowed && decide (start ≤ 10 * n) && decide (10 * n < stop)) 0 r xs
  let c := { c with gateRx := Tab.set (fun _ => {}) c.gateRx g r' }
  let c := (c.setF (F.GATE_BASE_MU g) (r'.mu / 2 ^ 20).toNat).setF (F.GATE_BASE_NOISE g) (min 65535 (r'.noise / 2 ^ 20).toNat)
  match gateHit (c.f (F.GATE_CFG_K g)) r.noise ys with
  | some (p, a) => (((c.perf 243).setF (F.GATE_LAST_PEAK g) p).setF (F.GATE_LAST_ARRIVAL g) a, some (p, a))
  | none => (c, none)

/-- Samples of gates outside every window of a test: they move the baselines (R308). -/
def Core.gateQuiet (c : Core) (gates : List GateSamples) : Core :=
  c.eachOf gates fun v c => (c.gateRun v.gate false v.x).1

/-- A line of a gate test: what each gate finds of the nozzle that it visits (R308-R310). A bar with nothing to visit has its
verdicts at the first line. The other gates' samples lie outside every window. -/
def Core.gateLine (c : Core) (t : TestRun) (gates : List GateSamples) : Core × TestRun :=
  let c := c.gateQuiet (gates.filter fun v => c.gates.all fun g => g.1 ≠ v.gate.val)
  c.gates.foldl (fun (c, t) (g, b) =>
    let x := ((gates.find? fun v => v.gate.val = g).map (·.x)).getD []
    match (Tab.get (fun _ => []) t.todo b : List Nat) with
    | [] =>
      let c := (c.gateRun g false x).1
      (if t.fired = 0 then (c.gateVerdicts t g b).setF F.GT_STAT_GATES (c.f F.GT_STAT_GATES - 1) else c, t)
    | n :: rest =>
      let (c, hit) := c.gateRun g true x
      let r := Tab.get (fun _ => ({} : GateRes)) t.res n
      let blank := match mapNozzle c.newest.tabs.map n with
        | some (_, _, h) => (c.head h).blankTemp || (c.head h).blankLane || (c.head h).blankAuth
        | none => false
      let r := { r with reps := r.reps + 1, blanked := r.blanked || blank }
      let r := match hit with
        | some (p, a) => { r with hits := r.hits + 1, peaks := r.peaks + p, arrs := r.arrs + a }
        | none => r
      let done : Bool := c.gateReps ≤ r.reps
      let t := { t with res := Tab.set (fun _ => {}) t.res n r
                        todo := Tab.set (fun _ => []) t.todo b (if done then rest else n :: rest) }
      if done && rest.isEmpty then ((c.gateVerdicts t g b).setF F.GT_STAT_GATES (c.f F.GT_STAT_GATES - 1), t) else (c, t))
    (c, t)

end Sys2Proof.Machine
end

