-- ==== Sys2Proof/Machine/Umpire.lean ====
section
/-!
DEFINITION. The umpire (spec/18_fault_tolerance.md R474-R493): decisions, HEALTH, entry to SAFE, the isolation of a
nib, spare starts, the redistribution of R206 and the cross-audit; and the end event of ACCEPTED commands (R379).
-/

namespace Sys2Proof.Machine

/-- The work of an ACCEPTED command under way. -/
def Core.asyncOf (c : Core) (op : Nat) : Option Async := c.hi.async.find? (fun a => a.op = op)

/-- The asynchronous work of an opcode begun (R379). -/
def Core.asyncStart (c : Core) (a : Async) : Core := { c with hi := { c.hi with async := c.hi.async ++ [a] } }

/-- The work leaves the list, without an event. -/
def Core.asyncDrop (c : Core) (a : Async) : Core := { c with hi := { c.hi with async := c.hi.async.erase a } }

/-- The work ends with event 0x0A10 (R379). -/
def Core.asyncEnd (c : Core) (a : Async) (status : Nat) : Core :=
  (c.asyncDrop a).post 0x0A10 a.op (a.seq * 65536 + a.sq % 8 * 8192 + status)

/-- The unit is under a self-test. -/
def Core.selfTesting (c : Core) (cls idx sub : Nat) : Bool :=
  c.hi.async.any fun a => a.op == 0x94 && a.a == cls && a.b == idx && (cls == 3 || a.c == sub)

/-! ### HEALTH (R486) -/

/-- HEALTH as the units stand. -/
def Core.healthNow (c : Core) : Nat :=
  if c.st = stSafe ∨ c.st = stBoot then 0
  else if c.fb F.NIB_STAT_DEGRADED ∨ c.fb F.QL_STAT_BLANKED ∨ c.fb F.HH_STAT_BLANKED then 1
  else
    let ranks := (List.range 16).all fun i => c.rankState i ≤ 2
    let lanes := (List.range 64).all fun n => !c.fb (F.QLN_CFG_EN n) || c.f (F.QLN_STATE_STATE n) == 4
    let enc := c.f F.WEB_SRC_ACTIVE == 0 && (!c.fb F.WEB_CTRL_ENC1_TRACK_EN || c.web.tracking)
    if c.f F.NIB_STAT_SPARES = 2 ∧ c.fb F.UMP_STAT_STBY_READY ∧ ranks ∧ lanes ∧ enc then 3 else 2

/-- HEALTH brought up to date; each change posts 0x0D08. While a switch-over is under way it holds its last value, but
at entry to SAFE (R485, R488). -/
def Core.health (c : Core) : Core :=
  let h := c.healthNow
  if h = c.f F.UMP_STAT_HEALTH then c
  else if h ≠ 0 && (c.ump.starting ≠ [] || c.fb F.COX_EPOCH_SWITCHING) then c
  else (c.setF F.UMP_STAT_HEALTH h).post 0x0D08 31 h

/-! ### Decisions (R476) -/

/-- UMP_DECISION. -/
def Core.decision (c : Core) (mech cls idx : Nat) : Core :=
  let w := mech + cls * 256 + idx * 65536
  (c.setN R.UMP_DECISION w).logRec 0x15 (leBytes 4 w ++ leBytes 6 c.web.s)

/-- A decision that isolates a unit: counted, with event 0x0D01. -/
def Core.isolated (c : Core) (mech cls idx : Nat) : Core :=
  ((c.decision mech cls idx).inc R.UMP_DECISION_CNT).post 0x0D01 31 (mech * 65536 + cls * 256 + idx)

/-! ### SAFE (R487, R488) -/

/-- The first line of the job that bar `b` has not fired: the oldest that awaits its edge, else that of the next stroke; none once it
has printed its last (spec/04_surfaces_and_layers.md R128, spec/13_host_and_command_protocol.md R370). -/
def Core.nextLine (c : Core) (b : Nat) : Option Nat :=
  match (c.bar b).pend.head? with
  | some p => some p.line
  | none =>
    let l := ((c.web.s : Int) + 1 - (c.bar b).d).toNat
    if (c.genAt l).jobLast < l ∨ (c.job.aborting ∧ c.job.abortLast ≤ c.web.s) then none else some l

/-- The first line that has not been fired by the bar with the smallest D_b, of the bars in use that still have one to print (log
entry 46); none while no line of a job prints. -/
def Core.firstUnfired (c : Core) : Option Nat :=
  if c.job.tof then
    (sortBy (fun a b => decide ((c.bar a).d ≤ (c.bar b).d)) c.barsInUse).findSome? c.nextLine
  else none

/-- What the host's commands have asked of the crew is withdrawn. -/
def Core.withdrawHost (c : Core) : Core :=
  { c with crew := { c.crew with own := c.crew.own.filter fun (x : CrewReq × Option DerateOut) =>
      match x.1 with
      | .commit .. | .job .. => false
      | .loops .. | .derate .. => true } }

/-- The command in execution replies HW_FAULT (spec/13_host_and_command_protocol.md R372). With cause 3 no cox runs, and the host
sees no reply (R488). -/
def Core.failWaiting (c : Core) (cause : Nat) : Core :=
  match c.hi.waiting with
  | some (op, _, _, _) =>
    (if cause = 3 then { c with hi := { c.hi with waiting := none } } else c.answerWaiting op rHwFault).withdrawHost
  | none => c

/-- Entry to SAFE with a cause. While no job prints, record 0x0D09 names no line and carries WEB_POS (log entry 46). -/
def Core.enterSafe (c : Core) (cause : Nat) : Core :=
  if c.st = stSafe ∨ c.st = stBoot then c
  else
    let first := c.firstUnfired
    let c := if c.st = stService then c.testStop else c
    let c := c.each 16 fun b c =>
      (c.setBar b { c.bar b with active := false, pend := [] }).setB (F.FIRE_STATUS_PENDING b) false
    let c := c.setB F.FIRE_SLOW_STAT_SLOW_REQ false
    let c := c.each 16 fun m c => c.setB (F.CMP_STATUS_ACTIVE m) false
    let c := c.nibsStop
    let c := { c with ump := { c.ump with faultN := true, audits := [] } }.inflightSync
    let c := (c.setF F.UMP_STAT_SAFE_CAUSE cause).goto stSafe
    let pos := match first with
      | some l => (c.lineSpan l l).1
      | none => c.webPos
    let c := c.defect 0x0D09 cause (first.getD noLine) pos 0xFFFFFFFF
    ((c.lpFaultAll 3).failWaiting cause).health

/-! ### Nibs (R205-R207, R480, R481) -/

/-- Spares available: nibs in state 0, once the device area holds the nib image (R208). -/
def Core.spareSync (c : Core) : Core :=
  let n := (List.range 18).countP fun n => c.nibState n = 0
  let c := c.setF F.NIB_STAT_SPARES (if c.ump.nibImage then n else 0)
  c.setF F.NIB_STAT_ACTIVE ((List.range 18).countP fun n => c.nibState n = 2)

/-- A firmware update stops because a fault needs a spare, of the nibs or of the coxes (R492). -/
def Core.fwAbort (c : Core) : Core :=
  if c.f F.UMP_FW_STAT_STATE = 1 ∨ c.f F.UMP_FW_STAT_STATE = 2 then
    let c := { c.setF F.UMP_FW_STAT_STATE 0 with ump := { c.ump with fwTodo := [], fwHand := none } }
    match c.asyncOf 0x05 with
    | some a => c.asyncEnd a rHwFault
    | none => c
  else c

/-- The spare that holds the new image becomes the owner of the slice, once the old nib has finished its slice-lines in flight; the old nib,
loaded with the new image, becomes a spare (R491). Outside a job nothing is in flight. -/
def Core.fwHandover (c : Core) : Core :=
  match c.ump.fwHand with
  | some (n, m) =>
    if c.places n ≠ 0 then c
    else
      let sl := c.f (F.NIBN_STAT_SLICE n)
      let c := (c.setNib m { c.nib m with lastInk := false }).setNib n { c.nib n with lastInk := false }
      let c := ((c.setF (F.NIBN_STAT_STATE m) 2).setF (F.NIBN_STAT_SLICE m) sl).setF (F.NIBN_STAT_STATE n) 0
      let c := c.setF (F.NIBN_STAT_SLICE n) 31
      let did := (n :: m :: c.ump.fwDone).eraseDups
      let taker := fun k => if k = n then m else k
      let audits := c.ump.audits.map fun a => { a with auditor := taker a.auditor, third := taker a.third }
      let c := { c with ump := { c.ump with fwTodo := c.ump.fwTodo.erase n, fwDone := did, fwHand := none, audits := audits } }
      (((c.setF F.UMP_FW_STAT_STEP did.length).post 0x0D0D 31 n).nibFill m).inflightSync
  | none => c

/-- The slices redistributed over fifteen nibs (R206): `i` the lost slice, `lost` the lost nib. The complete and in-flight work of
the others stands; while no job prints no stroke is in the window. -/
def Core.redistribute (c : Core) (i lost : Nat) : Core :=
  let old := fun (s k : Nat) => c.isDone s i k
  let strokes := c.window
  let c := { c with pipe := { c.pipe with degrade := true, lostSlice := i
                                          degFrom := if c.printing then some (c.web.s + c.job.w, lost) else none } }
  let c := c.eachOf strokes fun s c =>
    c.each 15 fun j c => c.each 8 fun k c => if old s k then c.setDone s (16 + j) k true else c
  let c := c.each 18 fun n c =>
    let sl := c.f (F.NIBN_STAT_SLICE n)
    if c.nibState n = 2 ∧ sl > i ∧ sl < 16 then
      (c.setF (F.NIBN_STAT_SLICE n) (sl - 1)).post 0x0409 n ((sl - 1) * 256 + n)
    else c
  let c := (c.setB F.NIB_STAT_DEGRADED true).post 0x0408 31 lost
  let moved := fun (a : Audit) => if i < a.slice then { a with slice := a.slice - 1 } else a
  { c with ump := { c.ump with audits := c.ump.audits.map moved } }.nibFillAll

/-- Slices that no spare can take, while spares are still starting for others: once fifteen nibs are active, and none starts, the
one slice is redistributed; more than one cannot be, and the device enters SAFE as under R207 (log entry 53). -/
def Core.lostJudge (c : Core) : Core :=
  if c.ump.starting ≠ [] then c
  else match c.ump.lost with
    | [] => c
    | [(i, n)] => { c with ump := { c.ump with lost := [] } }.redistribute i n
    | _ => { c with ump := { c.ump with lost := [] } }.enterSafe 2

/-- A slice without an owner: the lowest spare starts, or the columns are redistributed, or SAFE (R205-R207, R480). -/
def Core.ownerLost (c : Core) (i lost : Nat) : Core :=
  let c := c.fwAbort
  let spare := if c.ump.nibImage then (List.range 18).find? fun n => c.nibState n = 0 else none
  match spare with
  | some n =>
    let c := c.setF (F.NIBN_STAT_STATE n) 1
    { c with ump := { c.ump with starting := c.ump.starting ++ [(n, i, lost)] } }.spareSync
  | none =>
    if c.pipe.degrade ∨ ¬ c.fb F.NIB_STAT_DEGRADE_OK then c.enterSafe 2
    else { c with ump := { c.ump with lost := c.ump.lost ++ [(i, lost)] } }.lostJudge

/-- The defect records over lines that a nib found faulty by the cross-audit may have spoiled (R479). -/
def Core.auditSuspect (c : Core) (suspect : Nat) : Core :=
  c.each 16 fun b c =>
    if c.barsInUse.contains b ∧ c.job.tof then
      let d := (c.bar b).d
      let l0 : Int := max 0 ((suspect : Int) - d)
      let l1 := c.toLast ((c.web.s : Int) + 1 - d)
      if l0 ≤ l1 then c.defectLines 0x0D05 31 l0.toNat l1.toNat else c
    else c

/-- The stroke number that a 32-bit register holds the low part of, at or before stroke `s` (R479). -/
def fullStroke (s lo : Nat) : Nat := s - (s % 2 ^ 32 + 2 ^ 32 - lo) % 2 ^ 32

/-- The umpire isolates a nib (R205, R476, R480); the slice-line of stroke `major` has the majority's codes (R478). -/
def Core.isolateNib (c : Core) (n mech : Nat) (major : Option Nat := none) : Core :=
  let state := c.nibState n
  if state = 3 then c
  else
    let slice := c.f (F.NIBN_STAT_SLICE n)
    let last := fullStroke (c.web.s + c.job.catchN) (c.n (R.UMP_AUDIT_LAST n))
    let suspect := if mech = 5 then some (last + 1) else none
    let c := c.setF F.UMP_ISOL_NIB_NIB (setBits (c.f F.UMP_ISOL_NIB_NIB) n 1 1)
    let c := c.isolated mech 0 n
    let bad := fun s => match suspect with
      | some t => decide (t ≤ s) && major != some s
      | none => false
    let c := if state = 2 then
        let untrusted := fun (s : Nat) (p : Part) => p.slice == slice && (!c.partDone s p.id || bad s)
        let final := c.window.filter fun s => c.final s && s ≠ c.web.s + 1
        let todo := final.flatMap fun s => ((c.parts s).filter (untrusted s)).map fun p => (s, p)
        let c := c.squash 4 fun s p _ _ => untrusted s p
        c.eachOf todo fun x c => c.each 8 fun k c => c.setDone x.1 x.2.id k false
      else c
    let c := match suspect with
      | some t => c.auditSuspect t
      | none => c
    let c := (c.setF (F.NIBN_STAT_STATE n) 3).setF (F.NIBN_STAT_SLICE n) 31
    let c := c.eachOf (c.ump.audits.filter fun a => a.auditor = n ∨ a.nib = n ∨ a.third = n) fun a c => c.dropAudit a
    let c := c.setNib n { work := (c.nib n).work }
    let c := { c with ump := { c.ump with fwHand := c.ump.fwHand.filter fun h => h.2 != n } }.spareSync
    let c := if state = 2 then c.ownerLost slice n
      else if state = 1 then
        match c.ump.starting.find? (fun x => x.1 = n) with
        | some (_, i, lost) => { c with ump := { c.ump with starting := c.ump.starting.filter (fun x => x.1 ≠ n) } }.ownerLost i lost
        | none => c
      else c
    c.nibFillAll.inflightSync.health

/-- A starting spare has passed its steps, or failed one (R480, R481). -/
def Core.spareDone (c : Core) (n : Nat) (ok : Bool) : Core :=
  match c.ump.starting.find? (fun x => x.1 = n) with
  | none => c
  | some (_, i, _) =>
    if ok then
      let c := { c with ump := { c.ump with starting := c.ump.starting.filter (fun x => x.1 ≠ n) } }
      let c := ((c.setF (F.NIBN_STAT_STATE n) 2).setF (F.NIBN_STAT_SLICE n) i).spareSync
      let c := (c.post 0x0409 n (i * 256 + n)).post 0x0D02 31 (n * 256 + i)
      (c.nibFill n).lostJudge.inflightSync.health
    else (c.post 0x0D03 31 n).isolateNib n 11

/-! ### The cross-audit (R477, R478) -/

/-- An audit named at stroke event S; those whose auditor is not done by stroke event S + CATCH - 1 are abandoned, with a CATCH of 1 at
once (R477). One that the third nib decides is past that: its two signatures differ already (R478). -/
def Core.auditStroke (c : Core) : Core :=
  let s := c.web.s
  let c := c.eachOf (c.ump.audits.filter fun a => !a.majority && decide (a.stroke ≤ s + 1)) fun a c => c.abandonAudit a s
  let nibs := c.activeNibs
  let n := nibs.length
  if c.ump.auditOn && (c.running || c.replay) && decide (2 ≤ n) then
    let i := c.auditSlice s n
    let stroke := s + c.job.catchN
    let left := (c.inksDue stroke).length
    if left = 0 then c
    else
      let a : Audit :=
        { slice := i
          nib := nibs.getD i 0
          auditor := nibs.getD ((i + 1) % n) 0
          third := nibs.getD ((i + 2) % n) 0
          stroke := stroke
          left := left }
      let c := { c with ump := { c.ump with audits := c.ump.audits ++ [a] } }
      if stroke ≤ s + 1 then c.abandonAudit a (s + 1) else c
  else c

/-- The majority's codes replace those of the audited slice-line in the slot: the codes that its inputs determine (R478,
spec/01_print_architecture.md R21). -/
def Core.majorCodes (c : Core) (a : Audit) : Core :=
  c.eachOf ((c.parts a.stroke).filter fun p => p.slice = a.slice) fun p c => c.eachOf (c.inksDue a.stroke) fun k c =>
    match c.lineDue a.stroke k with
    | none => c
    | some l =>
      let x := c.inkCtx k l
      match c.computeInk x p.c0 p.c1 with
      | none => c
      | some (b0, rs) =>
        let key := doneKey a.stroke p.id k
        let c := (c.writeCodes x (codesOf x p.c0 ((rs.drop (p.c0 - b0)).take (p.c1 + 1 - p.c0)))).setDone a.stroke p.id k true
        { c with pipe := { c.pipe with bad := Tab.set (fun _ => []) c.pipe.bad key []
                                       weak := Tab.set (fun _ => []) c.pipe.weak key [] } }

/-- The three signatures compared (R478): the majority's codes replace the slot's where they are ready before stroke event
S + CATCH − 1. -/
def Core.auditMajority (c : Core) (a : Audit) (sig : AuditSig) : Core :=
  let c := { c with ump := { c.ump with audits := c.ump.audits.erase a } }
  let odd := fun (n : Nat) (major : Option Nat) (c : Core) =>
    ((c.inc R.UMP_AUDIT_FAIL_CNT).post 0x0D04 31 (n * 2 ^ 24 + a.stroke % 2 ^ 24)).isolateNib n 5 major
  match sig with
  | .auditedOdd => odd a.nib (some a.stroke) (if c.web.s + 1 < a.stroke then c.majorCodes a else c)
  | .auditorOdd => odd a.auditor none c
  | _ => (c.post 0x0D0C 31 a.stroke).enterSafe 7

/-- An auditor, or the third nib, has done one more ink-line of the audit of a stroke, at the cost of any (R195); at the last the
signatures are compared. -/
def Core.auditStep (c : Core) (n t : Nat) (sig : AuditSig) : Core :=
  let c := c.setNib n { c.nib n with aud := none }
  match c.ump.audits.find? (fun a => a.worker == n && a.stroke == t) with
  | none => c
  | some a =>
    let c := match (c.parts t).find? (fun p => p.slice = a.slice) with
      | some p => c.chargeNib n p.c0 p.c1
      | none => c
    let put := fun (b : Audit) => { c with ump := { c.ump with audits := c.ump.audits.replace a b } }
    if a.left > 1 then put { a with left := a.left - 1 }
    else if a.majority then c.auditMajority a sig
    else if sig = .agree then
      let c := { c with ump := { c.ump with audits := c.ump.audits.erase a } }
      ((c.setN (R.UMP_AUDIT_LAST a.nib) a.stroke).inc R.UMP_AUDIT_CNT).perf 79
    else (put { a with left := (c.inksDue a.stroke).length, majority := true, started := false }).nibFill a.third

end Sys2Proof.Machine
end

