-- ==== Sys2Proof/Machine/Heads.lean ====
section
/-!
DEFINITION. Head temperatures, neighbour medians, blanks (spec/11_head_health.md R299-R307, spec/07_run_ahead_pipeline.md
R193) and the table versions with their temperature updates (spec/06_screening_and_nozzles.md R176-R179).
-/

namespace Sys2Proof.Machine

/-! ### Blanks (R193, R304-R307) -/

/-- The head is blanked by any cause. -/
def Head.blanked (u : Head) : Bool := u.blankTemp || u.blankLane || u.blankAuth

/-- The inks whose nozzles a head carries. -/
def Gen.headInks (g : Gen) (h : Nat) : List Nat :=
  ((g.tabs.map.filter (fun r => r.head = h)).map (fun r => r.start / 262144)).eraseDups

/-- BLANKED of the head and HH_STAT.BLANKED, as the causes of R304 and R315 stand. -/
def Core.blankSync (c : Core) (h : Nat) : Core :=
  let was := c.fb (F.HH_THETA_BLANKED h)
  let now := (c.head h).blankTemp || (c.head h).blankAuth
  if was = now then c
  else
    let c := c.setB (F.HH_THETA_BLANKED h) now
    c.setF F.HH_STAT_BLANKED (if now then c.f F.HH_STAT_BLANKED + 1 else c.f F.HH_STAT_BLANKED - 1)

/-- A blank, or its clearing, acts at this instant: the masks, and the squash of the head's ink (R193). -/
def Core.blankApply (c : Core) (h : Nat) (on : Bool) (cause : Nat) : Core :=
  let from_ := c.web.s + c.job.catchN + 1
  let old := Tab.get (fun _ => []) c.pipe.blanks h
  let keep := (old.filter fun p => p.1 < from_).take 8
  let c := { c with pipe := { c.pipe with blanks := Tab.set (fun _ => []) c.pipe.blanks h ((from_, on) :: keep) } }
  let c := c.logRec 0x10 (leBytes 2 h ++ leBytes 6 from_ ++ leBytes 1 (b2n on) ++ leBytes 1 cause)
  let inks := c.newest.headInks h
  c.squash 1 fun _ _ k _ => inks.contains k

/-- The lines of a head on the second bar of two-bar inks that a blank cannot hide, those for stroke `s` the first: one record over
them (R307). -/
def Core.headUnhidden (c : Core) (h s : Nat) : Core :=
  let g := c.newest
  let inks := ((g.tabs.map.filter fun r => r.head == h && r.start / 131072 % 2 == 1 && g.twoBar (r.start / 262144)).map
    fun r => r.start / 262144).eraseDups
  let spans : List (Int × Int) := (inks.map fun k =>
    (max 0 ((s : Int) - (c.bar (c.secondBar g k)).d), c.toLast ((c.web.s : Int) + c.job.catchN - c.dInk k))).filter fun x => x.1 ≤ x.2
  match spans with
  | [] => c
  | x :: l =>
    if c.job.tof then
      c.defectLines 0x0804 h (l.foldl (fun m y => min m y.1) x.1).toNat (l.foldl (fun m y => max m y.2) x.2).toNat
    else c

/-- A blank begins that the lines of a bar for stroke `s` meet first; none do past JOB_LAST. -/
def Core.spanBegin (c : Core) (bar s : Nat) : BlankSpan :=
  let l := ((s : Int) - (c.bar bar).d).toNat
  if c.job.tof && decide (c.toLast l = l) then { line := some l, first := l + c.sTof } else {}

/-- A job begins with a blank set before it: from line 0. -/
def Core.spanOpen (c : Core) (v : BlankSpan) : BlankSpan := if v.line.isNone then { line := some 0, first := c.sTof } else v

/-- The stroke of the last line of a bar whose transmission has started, where those of stroke `s` were the last. -/
def Core.sentTo (c : Core) (bar s : Nat) : Nat := (c.toLast ((s : Int) - (c.bar bar).d)).toNat + c.sTof

/-- A job ends with a blank set. -/
def Core.spanClose (c : Core) (bar : Nat) (v : BlankSpan) : BlankSpan :=
  if c.job.tof then { v with last := some (max v.first (c.sentTo bar (c.web.s + 1))) } else v

/-- The record of a blank that clears, over its whole span: to the lines for stroke `s`, or to the end of its job; of a blank that no
line met, a record that names no line (log entry 59). -/
def Core.spanRecord (c : Core) (code src bar s : Nat) (v : BlankSpan) : Core :=
  match v.line with
  | some l0 =>
    let (p, n) := c.strokeSpan v.first (if c.job.tof then max v.first (c.sentTo bar s) else v.last.getD v.first)
    c.defect code src l0 p n
  | none => c.defect code src noLine c.webPos 0

/-- The first record of a blank, at its first line; while no job prints it names no line and carries WEB_POS (log entry 46). -/
def Core.spanFirst (c : Core) (code src : Nat) (v : BlankSpan) : Core :=
  let pos := match v.line with
    | some _ => (c.strokeSpan v.first v.first).1
    | none => c.webPos
  c.defect code src (v.line.getD noLine) pos 0xFFFFFFFF

/-- The blanks of heads where a job begins (`on`) or ends. -/
def Core.headSpans (c : Core) (on : Bool) : Core :=
  c.eachOf (c.heads.map (·.1)) fun h c =>
    let u := c.head h
    let f := fun v => if on then c.spanOpen v else c.spanClose ((c.newest.headBar h).getD 0) v
    c.setHead h { u with span := u.span.map f }

/-- The head is blanked by a cause: 0 temperature, 1 no lane, 2 record. -/
def Head.cause (u : Head) (cause : Nat) : Bool :=
  match cause with
  | 0 => u.blankTemp
  | 1 => u.blankLane
  | _ => u.blankAuth

/-- A cause of a head's blank set or cleared. -/
def Head.setCause (u : Head) (cause : Nat) (on : Bool) : Head :=
  match cause with
  | 0 => { u with blankTemp := on, lowFrom := none, clearing := false }
  | 1 => { u with blankLane := on }
  | _ => { u with blankAuth := on }

/-- A cause of a head's blank sets. The lines for stroke `s` are the first whose transmission starts after it (R193). The first
record of R306 comes with the first of the causes 0 and 2. -/
def Core.blankHead (c : Core) (h cause s : Nat) : Core :=
  let u := c.head h
  if u.cause cause then c
  else
    let span := c.spanBegin ((c.newest.headBar h).getD 0) s
    let new := cause != 1 && u.span.isNone
    let v := u.setCause cause true
    let c := (c.setHead h (if new then { v with span := some span } else v)).blankSync h
    let c := if u.blanked then c else (c.blankApply h true cause).headUnhidden h s
    let c := if new then c.spanFirst 0x0802 h span else c
    c.health

/-- A cause of a head's blank clears; at the last cause the mask lifts, and the second record of R306 covers the whole blanked span
(R305, R306). The lines for stroke `s` are the last whose transmission has started. -/
def Core.unblankHead (c : Core) (h cause s : Nat) : Core :=
  let u := c.head h
  if u.cause cause then
    let v := u.setCause cause false
    let c := (c.setHead h (if v.blanked then v else { v with span := none })).blankSync h
    let c := if v.blanked then c else c.blankApply h false cause
    let c := match u.span with
      | some span => if v.blanked then c else c.spanRecord 0x0802 h ((c.newest.headBar h).getD 0) s span
      | none => c
    c.health
  else c

/-! ### Temperatures (R299-R302) -/

/-- The enabled sensor input that serves a head: the lowest-numbered. -/
def Core.tsOf (c : Core) (h : Nat) : Option Nat :=
  (List.range 16).find? fun n => c.fb (F.TS_CFG_EN n) && c.fb (F.TS_CFG_HEAD_EN n) && c.f (F.TS_CFG_HEAD n) == h

def Core.tsIn (c : Core) (n : Nat) : TsIn := Tab.get (fun _ => {}) c.ts n
def Core.setTs (c : Core) (n : Nat) (v : TsIn) : Core := { c with ts := Tab.set (fun _ => {}) c.ts n v }

/-- An input's value is stale: no valid conversion for 30 ms (R300). -/
def Core.tsStale (c : Core) (n : Nat) : Bool :=
  match (c.tsIn n).validAt with
  | some t => decide (t + 30 * msec ≤ c.now)
  | none => true

/-- The median of the counting values; none with fewer than two (R301). -/
def medianInt (l : List Int) : Option Int :=
  if l.length < 2 then none
  else
    let s := sortBy (fun a b => decide (a ≤ b)) l
    some (if l.length % 2 = 1 then s.getD (l.length / 2) 0
          else (s.getD (l.length / 2 - 1) 0 + s.getD (l.length / 2) 0) / 2)

/-- The neighbours of a head: the heads two to each side on the same bar. -/
def Core.nbrHeads (c : Core) (h : Nat) : List Nat :=
  let g := c.newest
  let b := g.headBar h
  ([(h : Int) - 2, h - 1, h + 1, h + 2].filterMap fun j =>
    if 0 ≤ j ∧ j < 1024 ∧ b.isSome ∧ g.headBar j.toNat = b then some j.toNat else none)

/-- The neighbour median of a head. -/
def Core.headMedian (c : Core) (h : Nat) : Option Int :=
  if c.fb F.HH_CFG_NBR_EN then
    medianInt ((c.nbrHeads h).filterMap fun j =>
      if c.fb (F.HH_THETA_STALE j) || c.fb (F.HH_THETA_SUSPECT j) then none else some (c.head j).own)
  else none

/-- The inputs that TSn_NBR names. -/
def Core.nbrInputs (c : Core) (n : Nat) : List Nat :=
  let w := c.n (R.TS_NBR n)
  (List.range 4).filterMap fun j => if bit w (8 * j + 4) then some (bits w (8 * j) 4) else none

/-- The neighbour median of an input. -/
def Core.tsMedian (c : Core) (n : Nat) : Option Int :=
  if c.fb F.HH_CFG_NBR_EN then
    medianInt ((c.nbrInputs n).filterMap fun j =>
      if c.tsStale j || c.fb (F.TS_STAT_SUSPECT j) then none else some (c.tsIn j).own)
  else none

/-- The value an input serves: its own, or the median while SUSPECT. -/
def Core.tsValue (c : Core) (n : Nat) : Int :=
  if c.fb (F.TS_STAT_SUSPECT n) then (c.tsMedian n).getD (c.tsIn n).own else (c.tsIn n).own

/-- The times from which a value has been off its median, or within it (R301). -/
def devTimes (now : Nat) (off : Option Bool) (devFrom okFrom : Option Nat) : Option Nat × Option Nat :=
  match off with
  | some true => (some (devFrom.getD now), none)
  | some false => (none, some (okFrom.getD now))
  | none => (none, none)

/-- A head's deviation judged anew. -/
def Core.headCheck (c : Core) (h : Nat) : Core :=
  let u := c.head h
  let lim : Int := match c.newest.headBar h with
    | some b => c.f (F.HH_BAR_CFG_NBR_LIM b)
    | none => 0
  let off := (c.headMedian h).map fun m => decide (lim < (u.own - m).natAbs)
  let (d, o) := devTimes c.now off u.devFrom u.okFrom
  c.setHead h { u with devFrom := d, okFrom := o }

def Core.tsCheck (c : Core) (n : Nat) : Core :=
  let u := c.tsIn n
  let off := (c.tsMedian n).map fun m => decide ((c.f (F.TS_CFG_NBR_LIM n) : Int) < (u.own - m).natAbs)
  let (d, o) := devTimes c.now off u.devFrom u.okFrom
  c.setTs n { u with devFrom := d, okFrom := o }

/-- A temperature at or beyond the valid sets of a generation (R176). -/
def Gen.beyondSets (g : Gen) (th : Int) : Bool :=
  match g.sets with
  | [] => false
  | s :: l => decide (th ≤ s.2) || decide (((s :: l).getLastD s).2 ≤ th)

/-- The clamp event of R176 for a head, once per excursion. -/
def Core.clampNote (c : Core) (g : Gen) (k h : Nat) (th : Int) : Core :=
  let out := g.beyondSets th
  let u := c.head h
  if out && !u.clamped then
    (c.setHead h { u with clamped := true }).post 0x0443 h (k * 65536 + wrap 16 th)
  else if !out && u.clamped then c.setHead h { u with clamped := false }
  else c

/-- The clamp of R176 judged for every ink of a head; an excursion ends while TSET_EN is clear too. -/
def Core.clampCheck (c : Core) (h : Nat) : Core :=
  let g := c.newest
  if g.fb F.NZ_CFG_TSET_EN then c.eachOf (g.headInks h) fun k c => c.clampNote g k h (c.theta h)
  else if g.beyondSets (c.theta h) then c
  else c.setHead h { c.head h with clamped := false }

/-- A head becomes warm (R303): while PRINTING, at WARN, with WARN_CC not 0. Its derate generation is to be formed, after those that
wait. -/
def Core.warnCheck (c : Core) (h : Nat) : Core :=
  match c.newest.headBar h with
  | none => c
  | some b =>
    let th := c.theta h
    let warn := c.fs (F.HH_BAR_TEMP_WARN b)
    let u := c.head h
    if c.fb (F.HH_THETA_WARM h) then
      let cool := th ≤ warn - c.f (F.HH_BAR_CFG_HYST b)
      c.setHead h { u with coolFrom := if cool then some (u.coolFrom.getD c.now) else none }
    else if c.st = stPrinting ∧ warn ≤ th ∧ c.f (F.HH_BAR_CFG_WARN_CC b) ≠ 0 then
      let c := (c.setB (F.HH_THETA_WARM h) true).setF F.HH_STAT_WARM (c.f F.HH_STAT_WARM + 1)
      let c := c.setHead h { u with wantDerate := u.wantDerate ++ [true], coolFrom := none }
      c.post 0x0801 h (2 ^ 31 + wrap 16 th)
    else c

/-- A head's temperature has changed: its TEMP record, at once or 1 ms after the last (spec/19_observation_and_test.md R498). -/
def Core.tempNote (c : Core) (h : Nat) : Core :=
  if c.log.tempDue.contains h then c
  else { c with log := { c.log with tempDue := c.log.tempDue ++ [h] } }.tempsDue

/-- The temperature of a head as its sources stand (R299-R301), with the warning check; in a replay it comes from the
recording (spec/19_observation_and_test.md R506). -/
def Core.headTheta (c : Core) (h : Nat) : Core :=
  if c.replay then c else
  let u := c.head h
  let src := c.tsOf h
  let stale := c.fb (F.HH_THETA_STALE h)
  let own := match src with
    | some n => c.tsValue n
    | none => u.own
  let med := c.headMedian h
  let th : Int :=
    if stale then med.getD (c.theta h)
    else if c.fb (F.HH_THETA_SUSPECT h) then med.getD own else own
  let held := stale && med.isNone
  let c := c.setHead h { u with heldFrom := if held then some (u.heldFrom.getD c.now) else none
                                thetaMax := max u.thetaMax th }
  let moved := decide (th ≠ c.theta h)
  let c := (c.setF (F.HH_THETA_THETA h) (wrap 16 th)).setB (F.HH_THETA_SRC_TS h) src.isSome
  let c := if moved then c.tempNote h else c
  ((c.perf 242).clampCheck h).warnCheck h

/-- A head's value, or whether it counts, has changed: it and its neighbours are judged anew, and the neighbours whose temperature is
a median follow (R300, R301). -/
def Core.headJudged (c : Core) (h : Nat) : Core :=
  let c := c.eachOf (h :: c.nbrHeads h) fun j c => c.headCheck j
  (c.headTheta h).eachOf (c.nbrHeads h) fun j c => if c.fb (F.HH_THETA_STALE j) || c.fb (F.HH_THETA_SUSPECT j) then c.headTheta j else c

/-- An input's value, or whether it counts, has changed: the inputs that name it as a neighbour are judged anew with it. -/
def Core.tsJudged (c : Core) (n : Nat) : Core :=
  c.each 16 fun j c => if j = n ∨ (c.nbrInputs j).contains n then c.tsCheck j else c

/-- A head's own value delivered. -/
def Core.headDeliver (c : Core) (h : Nat) (v : Int) : Core :=
  let c := c.setHead h { c.head h with own := v, delivered := some c.now }
  (c.setB (F.HH_THETA_STALE h) false).headJudged h

/-- A head's comparison with its LIMIT (R304), and the time from which its blank may clear (R305). The lines for stroke `s` are those
whose transmission starts next. -/
def Core.limitCheck (c : Core) (s h : Nat) : Core :=
  match c.newest.headBar h with
  | none => c
  | some b =>
    let th := c.theta h
    let lim := c.fs (F.HH_BAR_TEMP_LIMIT b)
    let u := c.head h
    let secNo := c.now / sec + 1
    let c := if lim ≤ th ∧ u.valid ∧ u.hotSec ≠ secNo then c.setHead h { u with hotS := u.hotS + 1, hotSec := secNo } else c
    let u := c.head h
    let c := if u.blankTemp then
        let low := th ≤ lim - c.f (F.HH_BAR_CFG_HYST b) && !(u.heldFrom.isSome)
        c.setHead h { u with lowFrom := if low then some (u.lowFrom.getD c.now) else none }
      else c
    if lim ≤ th then c.blankHead h 0 s else c

/-- The heads that the map names. -/
def Gen.heads (g : Gen) : List Nat := (g.tabs.map.map (·.head)).eraseDups

def Core.limitCheckAll (c : Core) (s : Nat) : Core :=
  { c with ticks := { c.ticks with limit := c.now + msec } }.eachOf c.newest.heads fun h c => c.limitCheck s h

/-- Blanks whose clearing is due at a stroke event (R305). -/
def Core.blankClears (c : Core) : Core :=
  c.eachOf c.newest.heads fun h c => if (c.head h).clearing then c.unblankHead h 0 c.web.s else c

/-! ### Versions and temperature updates (R176-R179) -/

/-- The present temperatures of an ink's heads. -/
def Core.thetas (c : Core) (g : Gen) (k : Nat) : Tab Int :=
  (g.headsOf k).foldl (fun t h => Tab.set (fun _ => 0) t h (c.theta h)) []

/-- A version of an ink created by a generation (R177). -/
def Core.addVer (c : Core) (g : Gen) (k le : Nat) : Core :=
  let th := if g.fb F.NZ_CFG_TSET_EN then c.thetas g k else []
  let c := if g.fb F.NZ_CFG_TSET_EN then c.eachOf (g.headsOf k) fun h c => c.clampNote g k h (c.theta h) else c
  let v := { c.mkVer g k le th with clears := (le : Int) - 1 + c.dInk k }
  let u := c.ink k
  c.setInk k { u with vers := v :: u.vers.filter (fun w => w.le < le) }

/-- An ink has a pending version (R177). -/
def Core.pendingVer (c : Core) (k : Nat) : Bool := bit (c.f F.NZ_STAT_PENDING) k

def Core.setPendingVer (c : Core) (k : Nat) (v : Bool) : Core :=
  c.setF F.NZ_STAT_PENDING (setBits (c.f F.NZ_STAT_PENDING) k 1 (b2n v))

/-- The heads of an ink that have moved 0.25 C from the applied temperature (R178). -/
def Core.movedHeads (c : Core) (k : Nat) : List Nat :=
  let g := c.newest
  if g.fb F.NZ_CFG_TSET_EN then
    match (c.ink k).vers with
    | v :: _ => (g.headsOf k).filter fun h => 16 ≤ (c.theta h - Tab.get (fun _ => 0) v.theta h).natAbs
    | [] => []
  else []

/-- An update that has waited more than 1 s for a pending version: 0x0444, once (R178). -/
def Core.waitNote (c : Core) (k : Nat) : Core :=
  let u := c.ink k
  match u.waitFrom with
  | some w =>
    if w + sec < c.now ∧ ¬ u.waitPosted then
      (c.setInk k { u with waitPosted := true }).post 0x0444 k (c.movedHeads k).length
    else c
  | none => c

/-- The pending versions whose line before L_e has been transmitted clear (R177): those of stroke event L_e - 1 + D_k, an L_e of an
update before line 0 as it is (R178). -/
def Core.versionClears (c : Core) : Core :=
  c.each 8 fun k c =>
    if c.pendingVer k then
      match (c.ink k).vers with
      | v :: _ =>
        if v.clears ≤ c.web.s then
          let c := c.waitNote k
          (c.setInk k { c.ink k with vers := [v], waitFrom := none, waitPosted := false }).setPendingVer k false
        else c
      | [] => c.setPendingVer k false
    else c

/-- No version of an ink is pending and none has a line to wait for: a job has ended (R177). -/
def Core.versionsIdle (c : Core) : Core :=
  c.each 8 fun k c =>
    let v := (c.ink k).vers.take 1
    (c.setInk k { vers := v.map fun (x : Ver) => { x with le := 0 } }).setPendingVer k false

/-- A temperature update of an ink (R178), of the heads that moved: in a job from a line not yet in the window, outside a job at once. -/
def Core.tempUpdate (c : Core) (k : Nat) (inJob : Bool) : Core :=
  let moved := c.movedHeads k
  if moved = [] then
    (if (c.ink k).waitFrom.isSome then c.setInk k { c.ink k with waitFrom := none, waitPosted := false } else c)
  else if inJob && c.pendingVer k then
    let u := c.ink k
    (c.setInk k { u with waitFrom := some (u.waitFrom.getD c.now) }).waitNote k
  else
    let g := c.newest
    let u := c.ink k
    let base := (u.vers.headD {}).theta
    let th := moved.foldl (fun t h => Tab.set (fun _ => 0) t h (c.theta h)) base
    let at_ : Int := c.web.s + c.job.w + c.n R.NZ_LEAD
    let le := if inJob then (at_ - c.dInk k + 1).toNat else 0
    let c := c.eachOf moved fun h c => c.clampNote g k h (c.theta h)
    let old := u.vers.headD {}
    let runs := g.tabs.map.filter fun r => r.start / 262144 = k && moved.contains r.head
    let v := { old with le := le, nz := c.interpRuns g runs th old.nz, theta := th, temp := true, clears := at_ }
    let c := c.setInk k { vers := if inJob then v :: u.vers else [v] }
    let c := c.logRec 0x0C (leBytes 1 k ++ leBytes 6 le ++
      (g.headsOf k).flatMap fun h => leBytes 2 h ++ leBytes 2 (wrap 16 (Tab.get (fun _ => 0) th h)))
    let c := if inJob then c.setPendingVer k true else c
    let c := c.eachOf moved fun h c => c.post 0x0440 h (k * 65536 + wrap 16 (c.theta h))
    c.inc R.NZ_TEMP_UPD_CNT

/-! ### Conversions (R302) -/

/-- What a conversion gives: a temperature in 1/64 C, none where the formula has no value; or OPEN (high) or SHORT. -/
inductive TsResult where
  | temp (t : Option Int)
  | high
  | low
  deriving DecidableEq, Repr

/-- A quotient to the nearest integer. -/
def nearest (a b : Int) : Int := (2 * a + b) / (2 * b)

/-- Diode mode: T = q x dV / (eta x k x ln 4), where three times dV is four times the first difference less the second, which
takes out the series resistance; q / k is 11,604.518121 K/V and ln 4 is 1.386294361120. -/
def diodeTemp (eta : Nat) (m : TsSample) : TsResult :=
  let v := [m.v6.toNat, m.v24.toNat, m.v96.toNat]
  if v.any (900000000 < ·) then .high
  else if v.any (· < 200000000) then .low
  else if eta = 0 then .temp none
  else
    let dv3 : Int := 4 * ((m.v24.toNat : Int) - m.v6.toNat) - ((m.v96.toNat : Int) - m.v24.toNat)
    let num := 64 * dv3 * 11604518121 * 32768
    let den : Int := 3 * 1000 * eta * 1386294361120
    .temp (some (nearest (10 * num - 174816 * den) (10 * den)))

/-- The base-2 logarithm of a positive number in 2^-32, bit by bit. -/
def log2Bits : Nat → Nat → Nat
  | 0, _ => 0
  | k + 1, m => let q := m * m / 2 ^ 40; if 2 ^ 41 ≤ q then 2 ^ k + log2Bits k (q / 2) else log2Bits k q

def log2Fix (x : Nat) : Nat := Nat.log2 x * 2 ^ 32 + log2Bits 32 (x * 2 ^ 40 / 2 ^ Nat.log2 x)

/-- NTC mode: 1 / T = 1 / 298.15 K + ln (R / R26) / B, with ln 2 as 0.693147180560. -/
def ntcTemp (b r26 : Nat) (m : TsSample) : TsResult :=
  let r := m.r.toNat
  if 400000000 < r then .high
  else if r < 100000 then .low
  else
    let l : Int := ((log2Fix r : Int) - log2Fix (r26 * 10000)) * 693147180560
    let s : Int := 2 ^ 32 * 10 ^ 12
    let den := 100 * (b : Int) * s + 29815 * l
    if b = 0 ∨ r26 = 0 ∨ den ≤ 0 then .temp none
    else .temp (some (nearest (64 * (29815 * (b : Int) * s * 100 - 27315 * den)) (100 * den)))

/-- What an input's conversion gives in its mode. -/
def Core.tsResult (c : Core) (n : Nat) (m : TsSample) : TsResult :=
  let p := c.f (F.TS_PARAM_ETA_B n)
  if c.fb (F.TS_CFG_MODE n) then ntcTemp p (c.f (F.TS_PARAM_R26 n)) m else diodeTemp p m

/-! ### The commands of head temperatures -/

/-- A conversion's temperature; a free value where its formula has none, within the range of the register (log entry 60). -/
def Core.tsTemp (c : Core) : Option Int → Int × Core
  | some t => (max (-32768) (min 32767 t), c)
  | none => let (v, c) := c.free; (sext 16 v, c)

/-- STALE_HEAD_BLANK: a value held without a median for 1 s while PRINTING (R300). -/
def execStaleHeadBlank (h : Fin 1024) (s : State) : Host.Outcome State Fault Refusal :=
  let c := s.core
  let due := c.st == stPrinting && (match (c.head h).heldFrom with
    | some t => decide (t + sec ≤ c.now)
    | none => false)
  .next { s with core := if due then c.blankHead h 0 (c.web.s + 2) else c }

/-- The SUSPECT flag of a head or an input set or cleared, with event 0x0803 and the median (R301); a head that the input serves
takes its replacement value. -/
def Core.suspect (c : Core) (h : Nat) (on : Bool) : Core :=
  if h < 1024 then
    let m := (c.headMedian h).getD 0
    ((c.setB (F.HH_THETA_SUSPECT h) on).headJudged h).post 0x0803 h (b2n on * 2 ^ 31 + wrap 16 m)
  else
    let n := h - 1024
    let m := (c.tsMedian n).getD 0
    let c := ((c.setB (F.TS_STAT_SUSPECT n) on).tsJudged n).post 0x0803 h (b2n on * 2 ^ 31 + wrap 16 m)
    let d := c.f (F.TS_CFG_HEAD n)
    if c.fb (F.TS_CFG_HEAD_EN n) && c.tsOf d == some n then (c.setHead d { c.head d with own := c.tsValue n }).headJudged d else c

/-- A head or an input judged as its neighbours count now (R301). -/
def Core.nbrCheck (c : Core) (h : Nat) : Core := if h < 1024 then c.headCheck h else c.tsCheck (h - 1024)

/-- HEAD_LIMIT_TICK: every head compared with its LIMIT, 1 ms after the last comparison (R304). -/
def execHeadLimitTick (s : State) : Host.Outcome State Fault Refusal :=
  .next { s with core := if s.core.ticks.limit ≤ s.core.now then s.core.limitCheckAll (s.core.web.s + 2) else s.core }

/-- HEAD_BLANK_CLEAR: with AUTO_CLR, 1 s at or below LIMIT - HYST lets the blank clear at the next stroke event (R305). -/
def execHeadBlankClear (h : Fin 1024) (s : State) : Host.Outcome State Fault Refusal :=
  let c := s.core
  let u := c.head h
  let auto := match c.newest.headBar h with
    | some b => c.fb (F.HH_BAR_CFG_AUTO_CLR b)
    | none => false
  let due := auto && u.blankTemp && (match u.lowFrom with
    | some t => decide (t + sec ≤ c.now)
    | none => false)
  .next { s with core := if due then c.setHead h { u with clearing := true } else c }

/-- TEMP_CHECK_TICK: outside a job, each 1 ms, heads that moved 0.25 C are re-interpolated at once; in one, an update that waits too long is
reported (R178). -/
def execTempCheckTick (s : State) : Host.Outcome State Fault Refusal :=
  let c := s.core
  .next { s with core :=
    if c.job.tof then c.each 8 fun k c => c.waitNote k
    else if c.ticks.temp ≤ c.now then
      { c with ticks := { c.ticks with temp := nextDue c.ticks.temp msec c.now } }.each 8 fun k c => c.tempUpdate k false
    else c }

end Sys2Proof.Machine
end

