-- ==== Sys2Proof/Machine/Lines.lean ====
section
/-!
DEFINITION. What a stroke event does to the lines (spec/07_run_ahead_pipeline.md R194-R203): deadline misses, the
transmission of a line with its substitutes, signatures and freezes, and forecasts; layer decisions, panels and
protected regions (spec/04_surfaces_and_layers.md R121-R136).
-/

namespace Sys2Proof.Machine

/-! ### Lines of a bar (R80, R94) -/

/-- The line that bar `b` has for stroke `s`: image line, the ink in use that the bar carries and the generation
(R80, R94, R128). -/
def Core.barLine (c : Core) (b s : Nat) : Option (Nat × Option Nat × Gen) :=
  let l := (s : Int) - (c.bar b).d
  if l < 0 then none
  else
    let g := c.genAt l.toNat
    if g.jobLast < l.toNat then none
    else match g.barInk b with
      | none => some (l.toNat, none, g)
      | some k =>
        if g.fb (F.NZ_INK_INTERLEAVE k) && !bit g.fullOk k && g.twoBar k &&
            l.toNat % 2 ≠ (if g.bar0 k = b then 0 else 1) then none
        else some (l.toNat, some k, g)

/-- The parity that pairs lines of a bar: of the line under row interleave, else 0 (R200, R203). -/
def Gen.parity (g : Gen) (k : Option Nat) (l : Nat) : Nat :=
  match k with
  | some k => if g.fb (F.NZ_INK_INTERLEAVE k) then l % 2 else 0
  | none => 0

/-- The line of a bar is complete in its slot (R196, R198); a bar with no ink in use has nothing to compute. -/
def Core.barDone (c : Core) (b s : Nat) (k : Option Nat) (g : Gen) : Bool :=
  match k with
  | none => true
  | some k =>
    if c.compBar g k = b then c.inkDone s k
    else Tab.get (fun _ => false) c.pipe.done2 (s % 24 * 16 + b)

/-- The codes of a head group in the slot of a stroke, by nozzle-in-group: of the nozzles that the head map names. -/
def Core.slotCodes (c : Core) (s hg : Nat) : Tab Code :=
  ((c.pipe.codes.filter fun e => e.1 / 32768 = s % 24 * 64 + hg).map fun e => (e.1 % 32768, e.2)).filter fun e =>
    (c.newest.headAt hg e.1).isSome

/-- The codes with those of blanked heads masked to 0 (R193). -/
def Core.maskCodes (c : Core) (hg : Nat) (t : Tab Code) : Tab Code :=
  let g := c.newest
  t.filter fun e => match g.headAt hg e.1 with
    | some h => !(c.head h).blanked
    | none => true

/-- A head group's 16,384 bytes (R24). -/
def groupBytes (t : Tab Code) : List Byte :=
  (List.range 16384).map fun j =>
    BitVec.ofNat 8 ((Tab.get (fun _ => 0) t (2 * j)).toNat + 16 * (Tab.get (fun _ => 0) t (2 * j + 1)).toNat)

/-- A line as sent by a bar: its codes by head group, ascending. -/
abbrev BarCodes := List (Nat × Tab Code)

/-- The signature of a bar's line (R202). -/
def lineSig (l : BarCodes) : Word := crc32c (l.flatMap fun x => groupBytes x.2)

/-! ### The freeze detector (R203) -/

/-- A line of a bar compared with the previous one of its parity. -/
def Core.freezeCheck (c : Core) (b l : Nat) (k : Option Nat) (g : Gen) (codes : BarCodes) (sig : Word) : Core :=
  let n := g.f F.NIB_FRZ_CFG_N_FREEZE
  if codes.all (fun x => x.2 = []) then c
  else
    let z := Tab.get (fun _ => ({} : Freeze)) c.pipe.freeze b
    let par := g.parity k l
    let last := if par = 0 then z.last0 else z.last1
    let z' := if par = 0 then { z with last0 := some sig } else { z with last1 := some sig }
    let setZ := fun (z : Freeze) (c : Core) =>
      { c with pipe := { c.pipe with freeze := Tab.set (fun _ => {}) c.pipe.freeze b z } }
    if bit (g.f F.NIB_FRZ_CFG_VARY) b && n ≠ 0 then
      let run := c.n (R.NIB_FRZ_RUN b)
      if last = some sig then
        let first := if run = 0 then l else z.firstLine
        let c := (setZ { z' with firstLine := first } c).setN (R.NIB_FRZ_RUN b) (run + 1)
        if run + 1 = n then
          let c := c.setF F.NIB_FREEZE_FROZEN (setBits (c.f F.NIB_FREEZE_FROZEN) b 1 1)
          c.defectLines 0x0405 b first l
        else c
      else
        let c := (setZ z' c).setN (R.NIB_FRZ_RUN b) 0
        if bit (c.f F.NIB_FREEZE_FROZEN) b then
          (c.setF F.NIB_FREEZE_FROZEN (setBits (c.f F.NIB_FREEZE_FROZEN) b 1 0)).post 0x0406 b run
        else c
    else setZ z' c

/-! ### Transmission (R30, R200-R202, spec/10_quill_head_link.md R273) -/

/-- RECIP, u8.24: 3.2 over the speed in m/s, to the nearest (spec/03_firing.md R89, log entry 14). -/
def Core.recip (c : Core) : Nat :=
  let v := (c.i R.WEB_SPEED).natAbs
  if v = 0 then 2 ^ 32 - 1 else min (2 ^ 32 - 1) ((2 * 16 * 2 ^ 40 + 5 * v) / (10 * v))

/-- The segments whose effective trim is clamped on a line of a bar (R89, R91). -/
def Core.clampedSegs (c : Core) (b l : Nat) (g : Gen) : Nat :=
  let span : Int := g.f (F.FIRE_TRIM_SPAN b)
  if span = 0 then 0
  else
    let segs := (((g.tabs.map.filter fun r => g.runBar r = b).flatMap MapRun.nozzles).map (· / 64)).eraseDups
    segs.countP fun s =>
      let e := (g.f (F.FIRE_TRIM_BIAS b) : Int) + sext 16 (bits ((c.verAt (s / 4096) l).segE s) 16 16)
      e < 0 || span < e

/-- In a replay, the substitution that the recording has for a bar and a stroke (spec/19_observation_and_test.md R507): blank or not. -/
def Core.recSubst (c : Core) (b s : Nat) : Option Bool :=
  (c.rpl.recs.find? fun r => r.ty == 0x11 && le r.body 0 1 == b && le r.body 2 6 == s % 2 ^ 48).map fun r => le r.body 1 1 != 0

/-- The substitute of an underrun (R200): blank, or the last line sent with the needed parity if there is one. -/
def Core.substitute (c : Core) (blank : Bool) (l : Nat) (k : Option Nat) (g : Gen) (hg : Nat) : Tab Code :=
  if blank then []
  else match (c.sentOf hg).find? (fun v => g.parity k v.line = g.parity k l) with
    | some v => v.codes
    | none => []

/-- The line of bar `b` for stroke `s` sent (R200-R203). In a replay a line is substituted where the recording has it so, and the device's
own decision is kept to be compared (spec/19_observation_and_test.md R507). -/
def Core.sendBar (c : Core) (b s : Nat) : Core :=
  match c.barLine b s with
  | none => c
  | some (l, k, g) =>
    let groups := g.barGroups b
    if groups = [] then c else
    let own := fun hg => if k.isNone then [] else c.slotCodes s hg
    let done := c.barDone b s k g
    let words := fun (t : Tab (List Nat)) =>
      if done then (t.filter fun e => e.1 / 512 = s % 24).flatMap fun e => e.2.filter groups.contains else []
    let badW := words c.pipe.bad
    let c := c.addN R.LS_CE_CNT (words c.pipe.weak).length
    let c := if badW = [] then c
      else (c.addN R.LS_UE_CNT badW.length).post 0x0407 31 (s % 24 * 65536 + badW.foldl min 63)
    let late := !done || badW ≠ []
    let pol := bit (g.f F.NIB_UNDERRUN_POL_BLANK) b
    let rec_ := c.recSubst b s
    let under := if c.replay then rec_.isSome else late
    let blank := if c.replay then rec_.getD pol else pol
    let codes : BarCodes := groups.map fun hg =>
      (hg, c.maskCodes hg (if under then c.substitute blank l k g hg else own hg))
    let masked := !under && groups.any fun hg => decide (c.maskCodes hg (own hg) ≠ own hg)
    let c := if masked then c.unsampled b l l else c
    let c := c.eachOf codes fun x c => c.keepSent x.1 ⟨l, s, x.2⟩
    let sig := lineSig codes
    let c := ((c.setR (R.NIB_SIG b) sig).perf (16 + b)).freezeCheck b l k g codes sig
    let c := if late then c.logRec 0x11 (leBytes 1 b ++ leBytes 1 (b2n pol) ++ leBytes 6 s) else c
    let c := if under then ((c.inc (R.NIB_UNDERRUN_CNT b)).perf 74).defectLines 0x0402 b l l else c
    let clamped := c.clampedSegs b l g
    let c := if clamped = 0 then c
      else (c.setB (F.FIRE_STATUS_TRIM_CLAMP b) true).postLim msec 0x0207 b clamped
    { c with log := { c.log with sigMask := setBits c.log.sigMask b 1 1
                                 sigFold := Tab.set (fun _ => 0xFFFFFFFF) c.log.sigFold b
                                   (crcRun (Tab.get (fun _ => 0xFFFFFFFF) c.log.sigFold b) (leBytes 4 sig.toNat)) } }

/-! ### Deadline misses (R197) -/

/-- A slice-line that missed its deadline. -/
def Core.missPart (c : Core) (s : Nat) (p : Part) (solo : Bool) : Core :=
  let owner := c.owner p.slice
  let src := owner.getD 31
  let c := { c with pipe := { c.pipe with late := Tab.set (fun _ => false) c.pipe.late (s % 24 * 64 + p.id) true } }
  let c := c.eachOf (c.partTodo s p.id) fun k c =>
    match c.lineDue s k with
    | some l =>
      let x := c.inkCtx k l
      let c := c.fillCov x p.c0 p.c1
      match c.computeInk x p.c0 p.c1 with
      | some (b0, rs) => c.writeCov x b0 rs
      | none => c
    | none => c
  let c := (c.inc R.NIB_MISS_CNT).perf 73
  let c := c.post 0x0401 src (b2n solo * 2 ^ 31 + s % 2 ^ 31)
  match owner with
  | none => c
  | some n =>
    let v := c.nib n
    let here := v.cur.any fun x => x.1 = s ∧ x.2.1 = p.id
    let c := c.setNib n { v with
      cur := if here then none else v.cur
      lastInk := v.lastInk && !here
      flight := v.flight.filter (· ≠ (s, p.id))
      solos := if solo then s :: v.solos.take 3 else v.solos }
    let c := c.inc (R.NIBN_MISS n)
    if solo then
      let c := c.inc (R.NIBN_SOLO n)
      match v.solos with
      | t :: _ => if s < t + 256 then c.isolateNib n 4 else c
      | [] => c
    else c

/-- The slice-lines for stroke S_now + 1 that are not complete; a miss is solitary where every other active nib completed. -/
def Core.misses (c : Core) : Core :=
  if c.printing && !c.job.aborting then
    let s := c.web.s + 1
    if c.inksDue s = [] then c
    else
      let bad := (c.parts s).filter fun p => !c.partDone s p.id
      let late := (bad.filterMap fun p => c.owner p.slice).eraseDups
      c.eachOf bad fun p c => c.missPart s p (match c.owner p.slice with
        | some n => late == [n]
        | none => false)
  else c

/-! ### The stroke-time forecast (R194) -/

/-- The forecast judged and made anew at a stroke event. -/
def Core.forecast (c : Core) : Core :=
  if c.st = stPrinting then
    let c := match c.web.forecast with
      | some (f, per) =>
        let err : Int := (c.now : Int) - f
        if per < 2 * err.natAbs then
          let ns := err * 5 / 4
          let c := (c.setI R.NIB_FORECAST ns).postLim msec 0x0404 31 (wrap 32 ns)
          c.squash 3 fun s p _ _ => !c.partDone s p.id && (match c.owner p.slice with
            | some n => (c.nib n).flight.contains (s, p.id)
            | none => false)
        else c
      | none => c
    let v := (c.i R.WEB_SPEED).natAbs
    let per := if v = 0 then 0 else c.web.pitch * 4 / (5 * v * 65536)
    { c with web := { c.web with forecast := if v = 0 then none else some (c.now + per, per) } }
  else { c with web := { c.web with forecast := none } }

/-! ### Layer decisions (R129-R131) and panels (R121, R122) -/

/-- Bound panels that await their decision. -/
def Layer.depth (y : Layer) : Nat := y.panels.countP fun p => !p.decided

/-- LAYn_QSTAT.DEPTH as the bound panels stand; a fall below QLOW posts 0x0308 (R122). -/
def Core.depthSync (c : Core) (n : Nat) : Core :=
  let d := (c.layer n).depth
  let was := c.f (F.LAY_QSTAT_DEPTH n)
  let c := c.setF (F.LAY_QSTAT_DEPTH n) d
  if d < was ∧ d < c.f (F.LAY_QSTAT_QLOW n) then c.post 0x0308 n d else c

/-- The next repeat boundary after line `l` in a generation. -/
def Gen.nextRpt (g : Gen) (l : Nat) : Option Nat := if g.rpt = 0 then none else some (g.lk (g.rptOf l + 1))

/-- A not-ready decision reported (R131): a boundary past JOB_LAST has a span of length 0. -/
def Core.notReady (c : Core) (n line : Nat) : Core :=
  let g := c.genAt line
  let c := c.inc (R.LAY_NOTREADY_CNT n)
  let open_ := g.jobLast = 2 ^ 48 - 1
  let last : Option Nat := match g.nextRpt line with
    | some b => some (if open_ then b - 1 else min (b - 1) g.jobLast)
    | none => if open_ then none else some g.jobLast
  match last with
  | some l1 => c.defectLines 0x0301 n line (max (line - 1) l1)
  | none => c.defect 0x0301 n line (c.lineSpan line line).1 0xFFFFFFFF

/-- A layer's content for the lines from a boundary on, and the panels whose decision event has come: those of a layer that is
not enabled as well. -/
def Core.layerTakes (c : Core) (n line : Nat) (d : LayerDec) : Core :=
  let y := c.layer n
  let k := (c.genAt line).rptOf line
  let y := { y with decs := d :: y.decs.filter (fun e => e.line ≠ line)
                    panels := y.panels.map fun p => if p.k ≤ k then { p with decided := true } else p }
  (c.setLayer n y).depthSync n

/-- The decision of each enabled layer for the lines from a boundary on (R129); a layer that is not enabled draws nothing. -/
def Core.decideLayers (c : Core) (line : Nat) : Core :=
  let g := c.genAt line
  let c := c.eachOf g.layerOrder fun n c =>
    let d := c.decideNow n line
    let c := (c.layerTakes n line d).logRec 0x0D (leBytes 1 n ++ leBytes 6 line ++ leBytes 1 d.kind)
    if d.kind = 0 then c else c.notReady n line
  c.each 8 fun n c => if g.fb (F.LAY_CFG_EN n) then c else c.layerTakes n line ⟨line, 2, 0, none, g.regs⟩

/-- Is a line a boundary of decisions: a repeat boundary or an effective line (R129)? -/
def Core.boundary (c : Core) (line : Nat) : Bool :=
  let g := c.genAt line
  line = 0 || (g.rpt ≠ 0 && g.lk (g.rptOf line) = line) || c.job.gens.any (fun h => h.le = line)

/-- The decisions kept, newest first: those whose successor begins at or after `x`, and the last that draws. -/
def keepDecs (x : Int) : List LayerDec → Option Nat → Bool → List LayerDec
  | [], _, _ => []
  | d :: ds, succ, kept =>
    let live := match succ with
      | none => true
      | some l => decide (x < l)
    if live then d :: keepDecs x ds (some d.line) (kept || d.kind ≠ 2)
    else if !kept && d.kind ≠ 2 then [d] else keepDecs x ds (some d.line) kept

/-- Decisions that no line to be printed needs are forgotten; the last one in which a layer was drawn stays. -/
def Core.pruneDecs (c : Core) : Core :=
  let x : Int := (c.web.s : Int) - c.dMax
  c.each 8 fun n c =>
    let y := c.layer n
    if y.decs.length ≤ 1 then c else c.setLayer n { y with decs := keepDecs x y.decs none false }

/-- The decisions, newest first, that lines at or after `x` still draw by. -/
def liveDecs (x : Int) : List LayerDec → Option Nat → List LayerDec
  | [], _ => []
  | d :: ds, succ => if succ.all fun l => decide (x < l) then d :: liveDecs x ds (some d.line) else []

/-- The decisions of a layer that still draw under HOLD (R111). -/
def Core.holds (c : Core) (n : Nat) : List LayerDec :=
  (liveDecs ((c.web.s : Int) - c.dMax) (c.layer n).decs none).filter fun d => d.kind = 1

/-- Panels whose repeat the last bar has printed are released, one that HOLD repeats once a later decision no longer
holds it (R122). -/
def Core.releasePanels (c : Core) : Core :=
  c.each 8 fun n c =>
    let y := c.layer n
    let g := c.newest
    let done := y.panels.filter fun p =>
      p.decided && decide ((g.lk (p.k + 1) : Int) + c.dMax ≤ c.web.s) &&
        !((c.holds n).any fun d => d.panel = some p.k)
    if done = [] then c
    else
      let c := c.setLayer n { y with panels := y.panels.filter fun p => !done.contains p }
      c.eachOf done fun p c => c.post 0x0305 n p.k

/-! ### Protected regions (R133-R136) -/

/-- A region occurrence begins: it is taken from the generation of its first line (R133, R136). -/
def Core.occBegin (c : Core) (n line : Nat) (g : Gen) (k : Option Nat) : Core :=
  let lay := g.f (F.PR_CFG_LAYER n)
  let inks := Nat.land (g.f (F.PR_CFG_INK_MASK n)) (g.f F.JOB_CFG_INKS)
  let expect : Option Nat := match k with
    | none => some (g.n (R.PR_EXPECT n))
    | some _ =>
      let idx := (List.range n).countP fun m =>
        g.fb (F.PR_CFG_EN m) && g.fb (F.PR_CFG_PANEL m) && g.f (F.PR_CFG_LAYER m) == lay
      let d := c.decAt lay line
      if d.kind = 2 then none
      else match d.panel with
        | some pk => match (c.layer lay).panels.find? (fun p => p.k = pk) with
          | some p => if bit p.valid idx then some (p.exps.getD idx 0) else none
          | none => none
        | none => none
  let c := if expect.isNone || inks = 0 then
      (c.inc R.PROT_UNCHECKED_CNT).post 0x0304 (16 + n) (match k with
        | some k => k
        | none => 0xFFFFFFFF)
    else c
  if inks = 0 then c
  else
    let o : RegionOcc :=
      { n := n, k := k, l0 := line, lines := g.n (R.PR_LINES n), c0 := g.f (F.PR_C0_C0 n), c1 := g.f (F.PR_C1_C1 n)
        inks := inks, expect := expect, next := line, crc := BitVec.ofNat 32 0xFFFFFFFF }
    { c with job := { c.job with occs := c.job.occs ++ [o] } }

/-- The occurrences whose first line is `line`, where that line is printed (R128). -/
def Core.occStart (c : Core) (line : Nat) : Core :=
  let g := c.genAt line
  c.each 64 fun n c =>
    if g.fb (F.PR_CFG_EN n) && decide (line ≤ g.jobLast) then
      let l0 := g.n (R.PR_L0_LO n) + g.f (F.PR_L0_HI_L0 n) * 2 ^ 32
      if g.fb (F.PR_CFG_PANEL n) then
        let k := g.rptOf line
        if g.rpt ≠ 0 && g.lk k + l0 = line then c.occBegin n line g (some k) else c
      else if l0 = line then c.occBegin n line g none else c
    else c

/-- The tone bytes of a region's line (R134); none for poison. -/
def Core.occBytes (c : Core) (o : RegionOcc) (l : Nat) : Option (List Byte) :=
  (List.range (o.c1 + 1 - o.c0)).foldl (fun acc i =>
    (List.range 8).foldl (fun acc k => do
      let bs ← acc
      if bit o.inks k then
        let (t, _) ← c.tone4 l ((o.c0 + i : Nat) : Int) k
        return bs ++ leBytes 2 t
      else return bs) acc) (some [])

/-- A region's check at its last line (R135). -/
def Core.occEnd (c : Core) (o : RegionOcc) : Core :=
  let v := BitVec.ofNat 32 0xFFFFFFFF ^^^ o.crc
  let c := c.setR (R.PR_ACTUAL o.n) v
  match o.expect with
  | some e =>
    if v.toNat = e then c
    else
      let fail := if o.n < 32 then R.PR_FAIL_LO else R.PR_FAIL_HI
      let c := c.setN fail (setBits (c.n fail) (o.n % 32) 1 1)
      (c.inc R.PROT_MISMATCH_CNT).defectLines 0x0303 (16 + o.n) o.l0 (o.l0 + o.lines - 1)
  | none => c

/-- The lines of a region that are final on their last ink contribute (R135), with fuel. A line past JOB_LAST is never final, and
a region that reaches beyond it is never checked. -/
def Core.occStep : Nat → Core → RegionOcc → Core × Option RegionOcc
  | 0, c, o => (c, some o)
  | f + 1, c, o =>
    if o.lines = 0 ∨ o.l0 + o.lines ≤ o.next then (c.occEnd o, none)
    else
      let dk := (List.range 8).foldl (fun m k => if bit o.inks k then max m (c.dInk k) else m) (c.dMin)
      if (o.next : Int) + dk ≤ (c.web.s : Int) + c.job.catchN ∧ o.next ≤ (c.genAt o.next).jobLast then
        let (crc, c) := match c.occBytes o o.next with
          | some bs => (crcRun o.crc bs, c)
          | none => let (w, c) := c.free; (BitVec.ofNat 32 w, c)
        Core.occStep f c { o with next := o.next + 1, crc := crc }
      else (c, some o)

/-- Every region occurrence under way. -/
def Core.occsStroke (c : Core) : Core :=
  let occs := c.job.occs
  let (c, rest) := occs.foldl (fun (c, rest) o =>
    let (c, o') := Core.occStep (o.lines + 1) c o
    (c, rest ++ o'.toList)) ({ c with job := { c.job with occs := [] } }, [])
  { c with job := { c.job with occs := rest } }

end Sys2Proof.Machine
end

