-- ==== Sys2Proof/Machine/Limits.lean ====
section
/-!
DEFINITION. What a configuration allows: P_min and the limits that form it (spec/01_print_architecture.md R20, R33,
spec/03_firing.md R94, R95, spec/10_quill_head_link.md R276), the scaler demand and the layer fetch of a slice
(spec/05_scaling_and_colour.md R150, spec/01_print_architecture.md R35) and the degraded map
(spec/07_run_ahead_pipeline.md R207).
-/

namespace Sys2Proof.Machine

/-! ### Registers of a generation -/

/-- The registers that hold RWC fields. -/
def rwcRegs (t : Tab Word) : Tab Word :=
  t.filter fun p => match regRow p.1 with
    | some r => r.flds.any fun f => f.acc == .rwc
    | none => false

/-- The shadow as a generation would take it (spec/04_surfaces_and_layers.md R123). -/
def Core.shadowGen (c : Core) : Gen := { regs := rwcRegs c.regs, tabs := c.job.shadow }

def Gen.inks (g : Gen) : List Nat := (List.range 8).filter fun k => bit (g.f F.JOB_CFG_INKS) k

/-- A bar's ink prints with row interleave. -/
def Gen.barInter (g : Gen) (b : Nat) : Bool :=
  match g.barInk b with
  | some k => g.fb (F.NZ_INK_INTERLEAVE k)
  | none => false

def Gen.barsOn (g : Gen) : List Nat := (List.range 16).filter fun b => g.fb (F.FIRE_CFG_EN b)

/-- FIRE_MIN_PERIOD of a bar, in ns. -/
def Gen.fmp (g : Gen) (b : Nat) : Nat := g.f (F.FIRE_MIN_PERIOD_PERIOD b)

/-! ### The quill limit (R276) -/

/-- Time of a frame at a RATE, in 1/11 ns (R268). -/
def frameTime (rate : Nat) : Nat :=
  match rate with
  | 0 => 880
  | 1 => 960
  | 2 => 1760
  | _ => 2400

/-- The groups whose copies a lane carries (R266): its own, and its partner's where the pair is mirrored. -/
def Gen.carried (g : Gen) (n : Nat) : List Nat :=
  let used := fun hg => g.tabs.map.any fun r => r.hg == hg
  let m := Nat.xor n 32
  (if used n then [n] else []) ++ (if bit (g.n R.QL_MIRROR) (n % 32) && used m then [m] else [])

/-- Frames of a copy of a group (R275). -/
def Gen.frames (g : Gen) (hg : Nat) : Nat :=
  let n := g.f (F.QLN_CFG_NFR_M1 hg) + 1
  match g.groupBar hg with
  | some b => if bit (g.f F.NZ_PACK_EN_EN) b then ceilDiv n 2 else n
  | none => n

/-- A group's bar uses trims. -/
def Gen.trims (g : Gen) (hg : Nat) : Bool :=
  match g.groupBar hg with
  | some b => g.f (F.FIRE_TRIM_SPAN b) != 0
  | none => false

/-- Usable blocks of a lane's transfer. -/
def Gen.laneBlocks (g : Gen) (n : Nat) : Nat :=
  let l := g.carried n
  2 + 34 * (l.map g.frames).sum + (if l.any g.trims then 148 * l.length else 0)

def Core.lane (c : Core) (n : Nat) : Lane := Tab.get (fun _ => {}) c.lanes n
def Core.setLane (c : Core) (n : Nat) (v : Lane) : Core := { c with lanes := Tab.set (fun _ => {}) c.lanes n v }

/-- A lane's limit in strokes/s, at the RATE in force: a new one counts from the lane's next training (R268). -/
def Core.laneLimit (c : Core) (g : Gen) (n : Nat) : Nat :=
  min 160000 (374000000000 / (frameTime (c.lane n).rate * g.laneBlocks n) / 100 * 100)

/-- QL_LIMIT: the lowest limit over the lanes in use. -/
def Core.qlLimit (c : Core) (g : Gen) : Nat :=
  ((List.range 64).filter fun n => g.carried n ≠ []).foldl (fun m n => min m (c.laneLimit g n)) 160000

/-! ### P_min (R20, R94, R95) -/

/-- Pixel-inks of a stroke (R33). -/
def Gen.pixelInks (g : Gen) : Nat := (g.lastCol - g.firstCol) * g.inks.length

/-- P_min in ps, with k = 2 for every interleaved ink. -/
def Core.pMinPs (c : Core) (g : Gen) : Nat :=
  let bars := g.barsOn.map fun b => ceilDiv (g.fmp b * 1000) (if g.barInter b then 2 else 1)
  let ql := c.qlLimit g
  bars.foldl max (max 6250000 (max (ceilDiv (g.pixelInks * 1000) 192) (ceilDiv 1000000000000 (max 1 ql))))

/-- FULL_OK: the inks of coverage factor 2 whose partner's bar sustains every line at P_min (R170). The partner of a pixel is
of row 1, under row interleave of either row. -/
def Gen.fullOkAt (g : Gen) (p : Nat) : Nat :=
  (List.range 8).foldl (fun m k =>
    if g.fb (F.NZ_INK_CF2 k) && (!g.fb (F.NZ_INK_INTERLEAVE k) || decide (g.fmp (g.bar0 k) * 1000 ≤ p)) &&
        g.fmp (g.bar1 k) * 1000 ≤ p then m + 2 ^ k
    else m) 0

/-- FIRE_RATE_LIMIT (R94, R95). -/
def Gen.fireLimit (g : Gen) (fullOk : Nat) : Nat :=
  g.barsOn.foldl (fun m b =>
    if g.fmp b = 0 then m
    else
      let two := match g.barInk b with
        | some k => g.fb (F.NZ_INK_INTERLEAVE k) && !bit fullOk k
        | none => false
      min m ((if two then 2 else 1) * 1000000000 / g.fmp b)) 160000

/-- The least W of R20 at a CATCH. -/
def wMin (catchN p : Nat) : Nat := max 4 (max (catchN + 2) (catchN + ceilDiv 60000000 p + 1))

/-- NZ_LEAD of a P_min (spec/06_screening_and_nozzles.md R179). -/
def nzLead (p : Nat) : Nat := ceilDiv 40000000 p

/-! ### Slices -/

/-- The slices of the map as column bounds. -/
def Gen.slices (g : Gen) : List (Nat × Nat) :=
  (List.range 16).map fun i => (g.f (F.SL_BOUND_COL i), g.f (F.SL_BOUND_COL (i + 1)))

/-- The fifteen slices of the degraded map (spec/07_run_ahead_pipeline.md R206). -/
def Gen.degSlices (g : Gen) : List (Nat × Nat) :=
  let d := g.lastCol - g.firstCol
  (List.range 15).map fun j => (g.firstCol + j * d / 15, g.firstCol + (j + 1) * d / 15)

/-! ### The scaler demand (R150) -/

/-- Channel windows of an ink. -/
def Gen.windows (g : Gen) (k : Nat) : Nat :=
  let others := if g.fb F.SC_CFG_TIL_EN && g.tilInks.contains k then g.tilInks.filter (· ≠ k) else []
  if g.fb F.JOB_CFG_SPACE then 3 + (g.addChans k).length + (others.map fun j => (g.addChans j).length).sum
  else 1 + others.length

/-- Integer part of the grid position of a column. -/
def Gen.ui (g : Gen) (col : Nat) : Int := g.u col / 2 ^ 28

/-- D of a slice. -/
def Gen.demand (g : Gen) (s : Nat × Nat) : Nat :=
  let tx : Int := if g.fb F.SC_CFG_BYPASS_X then 1 else 8
  let ty := if g.fb F.SC_CFG_BYPASS_Y then 1 else 6
  let w := g.ui (s.2 - 1) - g.ui s.1 + tx + 1
  (if g.distEn then ty + 1 else ty) * w.toNat * (g.inks.map g.windows).sum

/-- The largest demand and its slice. -/
def Gen.maxDemand (g : Gen) (l : List (Nat × Nat)) : Nat × Nat :=
  ((List.range l.length).foldl (fun m i =>
    let d := g.demand (l.getD i (0, 0))
    if m.1 < d then (d, i) else m) (0, 0))

def scalerLimit : Nat := 786432

/-! ### The layer fetch (R35) -/

/-- Bits of a pixel per line of a surface, as a fraction. -/
def Surf.lineBits (s : Surf) : Nat × Nat :=
  if s.tiled ∧ s.state = 2 then (8 * s.maxRow, max 1 (s.width * s.tileH))
  else
    ((match s.fmt with
      | 0 => 64
      | 1 => 128
      | 2 => 24
      | 3 => 1
      | _ => 32) + (if s.cov then 8 else 0), 1)

/-- Grid columns (DROP4: output columns) of a slice within a layer's extent. -/
def Gen.reach (g : Gen) (n : Nat) (drop : Bool) (s : Nat × Nat) : Nat :=
  let x0 : Int := sext 32 (g.n (R.LAY_X0 n))
  let x1 : Int := x0 + g.n (R.LAY_W n)
  if drop then (min (s.2 : Int) x1 - max (s.1 : Int) x0).toNat
  else
    let l := ((List.range (s.2 - s.1)).map fun i => g.ui (s.1 + i)).filter fun x => x0 ≤ x && x < x1
    match l with
    | [] => 0
    | a :: _ => (l.getLastD a - a + 1).toNat

/-- The surface whose figures a layer is counted with: a surface layer's, or its first panel's. -/
def Core.fetchSurf (c : Core) (g : Gen) (n : Nat) : Option Surf :=
  if g.fb (F.LAY_CFG_SRC n) then (c.layer n).first.map (·.2) else some (c.surf (g.f (F.LAY_SURF_ID n)))

/-- Bytes a stroke of a slice, as a fraction of bits; `repl` replaces a layer's surface. -/
def Core.fetchOf (c : Core) (g : Gen) (repl : Nat → Option Surf) (s : Nat × Nat) : Nat × Nat :=
  ((List.range 8).filter fun n => g.fb (F.LAY_CFG_EN n)).foldl (fun acc n =>
    match repl n <|> c.fetchSurf g n with
    | none => acc
    | some f =>
      let (b, d) := f.lineBits
      let y := if f.fmt = 4 then 1 else ceilDiv (g.n R.SC_STEP_Y) (2 ^ 28)
      let v := b * g.reach n (decide (f.fmt = 4)) s * y
      (acc.1 * d + v * acc.2, acc.2 * d)) (0, 1)

/-- Some slice's fetch exceeds 4 GB/s at 1 / P_min. -/
def Core.fetchOver (c : Core) (g : Gen) (p : Nat) (repl : Nat → Option Surf) (l : List (Nat × Nat)) : Bool :=
  l.any fun s =>
    let (a, d) := c.fetchOf g repl s
    a * 250 > 8 * p * d

/-! ### DEGRADE_OK (R207) -/

def Core.degradeOk (c : Core) (g : Gen) (p : Nat) : Bool :=
  (g.maxDemand g.degSlices).1 ≤ scalerLimit && !c.fetchOver g p (fun _ => none) g.degSlices &&
    1000 * g.pixelInks ≤ 180 * p

end Sys2Proof.Machine
end

