-- ==== Sys2Proof/Machine/QuillCode.lean ====
section
/-!
DEFINITION. The quill's blocks and line coding (spec/10_quill_head_link.md R269-R278): 66-bit blocks, frames, bank loads,
transcoding, scrambling and the RS(528,514) code.
-/

namespace Sys2Proof.Machine

/-- A control block of a TYPE with its 56 bits of fields. -/
def ctlBlk (ty fields : Nat) : Blk := ⟨true, ty * 2 ^ 56 + fields % 2 ^ 56⟩

def dataBlk (w : Nat) : Blk := ⟨false, w % 2 ^ 64⟩

def idleBlk : Blk := ctlBlk 0xF0 0

/-- An alignment marker (R272). -/
def amBlk (index lane : Nat) (up : Bool) : Blk :=
  ctlBlk 0xF1 (index * 2 ^ 52 + lane * 2 ^ 46 + b2n up * 2 ^ 45 + 0x963CA55AC3)

/-- A line start (R273). -/
def lsBlk (s16 recip : Nat) (p m : Bool) : Blk :=
  ctlBlk 0xF2 (s16 % 65536 * 2 ^ 40 + recip % 2 ^ 32 * 256 + b2n p * 128 + b2n m * 64)

/-- A management message (R278). -/
def mgmtBlk (op arg : Nat) : Blk := ctlBlk 0xF4 (op * 2 ^ 48 + arg % 2 ^ 48)

/-- The bytes that a CRC covers: each word little-endian (R274). -/
def blkBytes (l : List Blk) : List Byte := l.flatMap fun b => leBytes 8 b.w

/-- The FT-form block over blocks (R274). -/
def ftBlk (l : List Blk) : Blk := dataBlk (crc32c (blkBytes l)).toNat

/-- A frame header (R274). -/
def fhBlk (group : Nat) (mirror : Bool) (frame : Nat) (pack : Bool) (bank s16 : Nat) : Blk :=
  ctlBlk 0xF5 (group * 2 ^ 50 + b2n mirror * 2 ^ 49 + frame * 2 ^ 43 + b2n pack * 2 ^ 42 + bank * 2 ^ 41 +
    s16 % 65536 * 2 ^ 25)

/-- A payload block: codes from nozzle-in-group `i` on, 16 of 4 bits or 32 of 2 bits (R275). -/
def payloadBlk (pack : Bool) (code : Nat → Nat) (i : Nat) : Blk :=
  dataBlk (if pack then ((List.range 32).map fun m => code (i + m) % 4 * 4 ^ m).sum
    else ((List.range 16).map fun m => code (i + m) % 16 * 16 ^ m).sum)

/-- A frame: FH, 32 payload blocks and FT (R274, R275). -/
def frameBlks (group : Nat) (mirror : Bool) (frame : Nat) (pack : Bool) (bank s16 : Nat) (code : Nat → Nat) : List Blk :=
  let fh := fhBlk group mirror frame pack bank s16
  let pay := (List.range 32).map fun j =>
    if pack then payloadBlk true code (1024 * frame + 32 * j) else payloadBlk false code (512 * frame + 16 * j)
  let l := fh :: pay
  l ++ [ftBlk l]

/-- A bank load: BANK, 128 data blocks of four entries, CRC and 18 IDLE (R277). -/
def bankBlks (group : Nat) (mirror : Bool) (bank : Nat) (entry : Nat → Nat) : List Blk :=
  let h := ctlBlk 0xF3 (group * 2 ^ 50 + b2n mirror * 2 ^ 49 + bank * 2 ^ 48)
  let d := (List.range 128).map fun j =>
    dataBlk ((List.range 4).map fun m => entry (4 * j + m) % 65536 * 65536 ^ m).sum
  let l := h :: d
  l ++ [ftBlk l] ++ List.replicate 18 idleBlk

/-- A message with 8 data blocks of 64 bytes and an FT-form CRC: REC_WRITE and RECORD (R278, R282). -/
def recBlks (head : Blk) (bytes : List Byte) : List Blk :=
  let l := head :: (List.range 8).map fun j => dataBlk (le bytes (8 * j) 8)
  l ++ [ftBlk l]

/-! ### The coding stack (R269, R270) -/

/-- The bits of a number, least significant first. -/
def bitsOf (n v : Nat) : List Bool := (List.range n).map fun i => bit v i

def ofBits (l : List Bool) : Nat := l.foldr (fun b v => b2n b + 2 * v) 0

/-- Blocks of a group of four, the first control block without TYPE[7:4]: each bit with whether it is scrambled, which those of
the marker are not. -/
def transTail (am : Option Nat) : Bool → Nat → List Blk → List (Bool × Bool)
  | _, _, [] => []
  | first, i, b :: l =>
    (bitsOf (if b.ctl && first then 60 else 64) b.w).map (fun v => (v, am != some i)) ++ transTail am (first && !b.ctl) (i + 1) l

/-- Four blocks as one of 257 bits, with the marker, if any, in slot `am`. -/
def transcode (am : Option Nat) (l : List Blk) : List (Bool × Bool) :=
  if l.all (fun b => !b.ctl) then (true, false) :: l.flatMap fun b => (bitsOf 64 b.w).map fun v => (v, true)
  else (false, false) :: l.map (fun b => (b.ctl, true)) ++ transTail am true 0 l

/-- The self-synchronous scrambler x^58 + x^39 + 1: `st` the last 58 bits sent, newest first. -/
def scramble : List Bool → List (Bool × Bool) → List Bool × List Bool
  | st, [] => ([], st)
  | st, (b, on) :: l =>
    let o := if on then xor b (xor (st.getD 38 false) (st.getD 57 false)) else b
    let (r, st') := scramble (if on then o :: st.take 57 else st) l
    (o :: r, st')

/-- A product in GF(2^10) with x^10 + x^3 + 1, from the top bit of `b` down, with fuel. -/
def gfMulGo : Nat → Nat → Nat → Nat → Nat
  | 0, _, _, acc => acc
  | k + 1, a, b, acc =>
    let d := acc * 2
    let d := if d ≥ 1024 then Nat.xor d 0x409 else d
    gfMulGo k a b (if bit b k then Nat.xor d a else d)

def gfMul (a b : Nat) : Nat := if a = 0 ∨ b = 0 then 0 else gfMulGo 10 a b 0

def gfPow : Nat → Nat
  | 0 => 1
  | k + 1 => gfMul 2 (gfPow k)

/-- The inverse: the power 1022, of 2 + 4 + ... + 512. -/
def gfInv (a : Nat) : Nat :=
  ((List.range 9).foldl (fun (r : Nat × Nat) _ => let q := gfMul r.1 r.1; (q, gfMul r.2 q)) (a, 1)).2

/-- The generator with roots alpha^0 to alpha^13, highest coefficient (1) left out, highest first. -/
def rsGen : List Nat :=
  let mul := fun (g : List Nat) (r : Nat) =>
    List.zipWith Nat.xor (g ++ [0]) (0 :: g.map (gfMul r))
  ((List.range 14).foldl (fun g i => mul g (gfPow i)) [1]).drop 1

/-- The 14 parity symbols of 514 message symbols, highest first. -/
def rsParity (m : List Nat) : List Nat :=
  m.foldl (fun r s =>
    let f := Nat.xor s (r.getD 0 0)
    List.zipWith Nat.xor (r.drop 1 ++ [0]) (rsGen.map (gfMul f))) (List.replicate 14 0)

/-- Symbols of 10 bits. -/
def symbols : Nat → List Bool → List Nat
  | 0, _ => []
  | k + 1, l => ofBits (l.take 10) :: symbols k (l.drop 10)

/-- The slot among the 80 blocks from block `pos` of a superframe on that a marker takes: every 375th block is one (R270). -/
def amSlot (pos : Nat) : Option Nat :=
  let a := (375 - pos % 375) % 375
  if a < 80 then some a else none

/-- A codeword of 80 blocks from block `pos` of the superframe on: 528 symbols, and the scrambler's state after it. -/
def codeword (st : List Bool) (pos : Nat) (blks : List Blk) : List Nat × List Bool :=
  let groups := (List.range 20).flatMap fun i =>
    transcode ((amSlot pos).bind fun a => if a / 4 = i then some (a % 4) else none) ((blks.drop (4 * i)).take 4)
  let (sc, st') := scramble st groups
  let msg := symbols 514 sc
  (msg ++ rsParity msg, st')

/-! ### Receiving a codeword (R271) -/

/-- A polynomial, lowest coefficient first, at a point. -/
def gfEval (p : List Nat) (x : Nat) : Nat := p.foldr (fun v acc => Nat.xor v (gfMul x acc)) 0

def gfMulPoly : List Nat → List Nat → List Nat
  | [], _ => []
  | a :: p, q =>
    let r := 0 :: gfMulPoly p q
    let s := q.map (gfMul a)
    (List.range (max r.length s.length)).map fun i => Nat.xor (r.getD i 0) (s.getD i 0)

/-- The 14 syndromes of received symbols, the first the highest coefficient. -/
def syndromes (r : List Nat) : List Nat :=
  (List.range 14).map fun j => let x := gfPow j; r.foldl (fun acc v => Nat.xor (gfMul x acc) v) 0

/-- The error locator of the syndromes: the shortest recurrence that they follow (Berlekamp and Massey). -/
def locator (s : List Nat) : List Nat :=
  let step := fun (v : List Nat × List Nat × Nat × Nat × Nat) (n : Nat) =>
    let (c, b, len, m, d0) := v
    let d := (List.range (len + 1)).foldl (fun acc i => Nat.xor acc (gfMul (c.getD i 0) (s.getD (n - i) 0))) 0
    if d = 0 then (c, b, len, m + 1, d0)
    else
      let t := List.replicate m 0 ++ b.map (gfMul (gfMul d (gfInv d0)))
      let c' := (List.range (max c.length t.length)).map fun i => Nat.xor (c.getD i 0) (t.getD i 0)
      if 2 * len ≤ n then (c', c, n + 1 - len, 1, d) else (c', b, len, m + 1, d0)
  let (c, _, len, _, _) := (List.range 14).foldl step ([1], [1], 0, 1, 1)
  c.take (len + 1)

/-- Received symbols decoded: those corrected where at most seven are wrong. -/
def rsDecode (r : List Nat) : Codeword × List Nat :=
  let s := syndromes r
  if s.all (· = 0) then (.clean, r)
  else
    let l := locator s
    let om := (gfMulPoly s l).take 14
    let dl := (List.range l.length).map fun i => if i % 2 = 0 then l.getD (i + 1) 0 else 0
    let fixed := (List.range 528).map fun i =>
      let x := gfPow (527 - i)
      let xi := gfInv x
      if gfEval l xi = 0 then Nat.xor (r.getD i 0) (gfMul x (gfMul (gfEval om xi) (gfInv (gfEval dl xi)))) else r.getD i 0
    if l.length ≤ 8 ∧ (syndromes fixed).all (· = 0) then (.corrected, fixed) else (.uncorrectable, r)

/-- The message of a codeword as its receiver reads it: the bits received, the last scrambled bits before it, newest first, and the
slot where a marker is expected. -/
structure RxWord where
  msg : List Nat
  hist : List Bool
  am : Option Nat
  deriving DecidableEq, Repr

def RxWord.raw (r : RxWord) (i : Nat) : Bool := bit (r.msg.getD (i / 10) 0) (i % 10)

/-- Bit `t` of the scrambled stream from this codeword on, where the first `skip` bits after stream index `from_` are a marker. -/
def RxWord.stream (r : RxWord) (from_ skip : Nat) (t : Int) : Bool :=
  if t < 0 then r.hist.getD (-1 - t).toNat false
  else
    let k := t.toNat + if from_ ≤ t.toNat then skip else 0
    r.raw (k / 256 * 257 + 1 + k % 256)

/-- A descrambled bit. -/
def RxWord.clear (r : RxWord) (from_ skip : Nat) (t : Int) : Bool :=
  xor (r.stream from_ skip t) (xor (r.stream from_ skip (t - 39)) (r.stream from_ skip (t - 58)))

/-- Where the marker lies: its stream index and its length, from the mask of the blocks before it in its group. -/
def RxWord.amAt (r : RxWord) : Nat × Nat :=
  match r.am with
  | none => (5200, 0)
  | some a =>
    let g := a / 4
    let before := (List.range (a % 4)).any fun b => r.clear 5200 0 ((256 * g + b : Nat) : Int)
    (256 * g + 4 + 64 * (a % 4) - (if before then 4 else 0), if before then 64 else 60)

/-- Bit `i` of the message, descrambled. -/
def RxWord.plain (r : RxWord) (i : Nat) : Bool :=
  let (at_, len) := r.amAt
  let k := 256 * (i / 257) + (i % 257 - 1)
  if i % 257 = 0 ∨ (at_ ≤ k ∧ k < at_ + len) then r.raw i
  else r.clear at_ len ((k - if at_ + len ≤ k then len else 0 : Nat) : Int)

def RxWord.field (r : RxWord) (i n : Nat) : Nat := (List.range n).foldl (fun v j => v + 2 ^ j * b2n (r.plain (i + j))) 0

/-- The block in the marker's slot is the marker of this index. -/
def RxWord.amOk (r : RxWord) (index lane : Nat) (up : Bool) : Bool :=
  let (at_, len) := r.amAt
  let lo := at_ / 256 * 257 + 1 + at_ % 256
  match r.am with
  | some a => !r.raw (a / 4 * 257) && r.plain (a / 4 * 257 + 1 + a % 4) && r.field lo len == (amBlk index lane up).w % 2 ^ len
  | none => false

/-- The blocks of a group from bit `i` on, by the mask of control blocks left. -/
def RxWord.groupBlks (r : RxWord) : List Bool → Bool → Nat → List Blk
  | [], _, _ => []
  | c :: l, first, i =>
    if c && first then ⟨true, 15 * 2 ^ 60 + r.field i 60⟩ :: r.groupBlks l false (i + 60)
    else ⟨c, r.field i 64⟩ :: r.groupBlks l first (i + 64)

/-- The 80 blocks of a codeword. -/
def RxWord.blks (r : RxWord) : List Blk :=
  (List.range 20).flatMap fun g =>
    let i := 257 * g
    if r.raw i then r.groupBlks (List.replicate 4 false) true (i + 1)
    else r.groupBlks ((List.range 4).map fun b => r.plain (i + 1 + b)) true (i + 5)

/-- The last scrambled bits, newest first. -/
def RxWord.tail (r : RxWord) : List Bool :=
  let (at_, len) := r.amAt
  (List.range 58).map fun (i : Nat) => r.stream at_ len (((5119 - len - i : Nat) : Nat) : Int)

/-- What a codeword brings a receiver: how it decodes, whether the marker expected in it was seen, and its blocks. -/
structure RxOut where
  cw : Codeword
  am : Option Bool
  blks : List Blk
  hist : List Bool
  pos : Option Nat
  deriving DecidableEq, Repr

/-- A codeword decoded. While no place in the superframe is known, one of the sixteen that hold a marker is looked for. -/
def LaneRx.decode (r : LaneRx) (lane : Nat) (up : Bool) (sym : List Nat) : RxOut :=
  let (cw, fixed) := rsDecode sym
  let word := fun (p : Nat) => (⟨fixed.take 514, r.hist, amSlot p⟩ : RxWord)
  let seen := fun (p : Nat) => cw != .uncorrectable && (word p).amOk ((p + 79) / 375 % 16) lane up
  let hunt := ((List.range 16).map fun k => 375 * k / 80 * 80).find? seen
  let p := match r.pos with
    | some p => some p
    | none => hunt
  let am := match p with
    | some p => if (amSlot p).isSome then some (seen p) else none
    | none => none
  let w := word (p.getD 80)
  { cw := cw, am := am, blks := if cw = .uncorrectable then [] else w.blks, hist := w.tail
    pos := if am = some false ∧ !r.lock then none else p.map fun p => (p + 80) % 6000 }

/-- The first symbols of a list, in the number that a codeword has them: missing ones read 0. -/
def rsSymbols (k : Nat) (l : List (BitVec 10)) : List Nat := (List.range k).map fun i => (l.getD i 0).toNat

/-- The lock after a codeword (R271): three good markers in a row give it; four uncorrectable codewords or three missing markers
in a row take it. Reserved TYPEs are counted (R272). -/
def LaneRx.step (r : LaneRx) (o : RxOut) : LaneRx :=
  let bad := decide (o.cw = .uncorrectable)
  let badRun := if bad then r.badRun + 1 else 0
  let (amRun, missRun) := match o.am with
    | some true => (r.amRun + 1, 0)
    | some false => (0, r.missRun + 1)
    | none => (r.amRun, r.missRun)
  let lost := r.lock && (decide (4 ≤ badRun) || decide (3 ≤ missRun))
  let lock := (r.lock || decide (3 ≤ amRun)) && !lost
  { r with hist := o.hist, pos := if lost then none else o.pos, lock := lock
           badRun := badRun, amRun := if lost then 0 else min amRun 3, missRun := min missRun 3
           discards := r.discards + (if r.lock then o.blks else []).countP fun b => b.ctl && !(decide (0xF0 ≤ b.w / 2 ^ 56) && decide (b.w / 2 ^ 56 ≤ 0xF5)) }

end Sys2Proof.Machine
end

