-- ==== Sys2Proof/Machine/Commit.lean ====
section
/-!
DEFINITION. The COMMIT (spec/04_surfaces_and_layers.md R123-R128): its checks in the order of R125, lateness, and the
acceptance of a generation by the host, a loop, a derate or the crew.
-/

namespace Sys2Proof.Machine

/-! ### Lanes and groups -/

def Core.group (c : Core) (n : Nat) : Group := Tab.get (fun _ => {}) c.groups n
def Core.setGroup (c : Core) (n : Nat) (v : Group) : Core := { c with groups := Tab.set (fun _ => {}) c.groups n v }

def Core.laneActive (c : Core) (n : Nat) : Bool := c.f (F.QLN_STATE_STATE n) == 4

/-- What is sent of a management message: its ARG; a REC_WRITE with the record that its head is being written, as blocks (R278). -/
def Core.mgmtFields (c : Core) (m : Mgmt) : List Int :=
  match if m.op = 6 then (c.head (m.arg / 2 ^ 38)).writing else none with
  | some bytes => (recBlks (mgmtBlk 6 m.arg) bytes).map fun b => (b.w : Int)
  | none => [(m.arg : Int)]

/-- A management message sent on a lane; it awaits its ACK (spec/10_quill_head_link.md R278). -/
def Core.mgmtSend (c : Core) (n : Nat) (m : Mgmt) : Core :=
  let u := c.lane n
  (c.setLane n { u with mgmt := u.mgmt ++ [m] }).laneEmit n m.op (c.mgmtFields m)

/-- The groups that a head's runs lie in. -/
def Gen.headGroups (g : Gen) (h : Nat) : List Nat :=
  ((g.tabs.map.filter fun r => r.head = h).map (·.hg)).eraseDups

/-- The lanes that carry a copy of a group. -/
def Gen.lanesOf (g : Gen) (hg : Nat) : List Nat := (List.range 64).filter fun n => (g.carried n).contains hg

def Gen.wave (g : Gen) (h : Nat) : Nat := bits (g.n (R.QL_WAVE (h / 8))) (4 * (h % 8)) 4

/-- WAVE_SEL of a head, naming a stroke (R278, R286). -/
def waveSel (h table s : Nat) : Mgmt :=
  { op := 3, arg := h * 2 ^ 38 + table * 2 ^ 34 + s % 65536 * 2 ^ 18, stroke := some s }

/-! ### BAD_PARAM -/

/-- A surface format fits a layer's blend mode and channel mask (spec/04_surfaces_and_layers.md R114). -/
def fits (lab : Bool) (fmt mode mask : Nat) : Bool :=
  let low := mask % 8 = mask
  let high := mask % 8 = 0
  let three := mode == 0 || mode == 2 || mode == 3
  match fmt with
  | 0 | 1 => if lab then high && mode == 4 else mode ≤ 4
  | 2 => lab && low && three
  | 3 => if lab then (low && three) || (high && mode == 4) else three || mode == 4
  | _ => mode == 0 || mode == 2

def Gen.layersOn (g : Gen) : List Nat := (List.range 8).filter fun n => g.fb (F.LAY_CFG_EN n)

/-- The format of a layer's pixels, where it is known: its surface's, or its first panel's. -/
def Core.layerFmt (c : Core) (g : Gen) (n : Nat) : Option Nat :=
  if g.fb (F.LAY_CFG_SRC n) then (c.layer n).first.map (·.2.fmt) else some (c.surf (g.f (F.LAY_SURF_ID n))).fmt

/-- A DROP4 layer is not the topmost, or not the only one (R114). -/
def Gen.badDrop (g : Gen) (fmt : Nat → Option Nat) : Bool :=
  let on := g.layersOn
  let drop := on.filter fun n => fmt n == some 4
  decide (1 < drop.length) || drop.any fun n => on.any fun m => decide (g.f (F.LAY_CFG_ORDER n) < g.f (F.LAY_CFG_ORDER m))

/-- The layers that break R114, R115, R119, R130, R572 or R573. -/
def Core.badLayers (c : Core) (g : Gen) : Bool :=
  let on := g.layersOn
  let ord := fun n => g.f (F.LAY_CFG_ORDER n)
  on.any (fun n =>
    let src := g.fb (F.LAY_CFG_SRC n)
    (!src && (c.surf (g.f (F.LAY_SURF_ID n))).state == 0) ||
    (c.layerFmt g n).any (fun m => !fits (g.fb F.JOB_CFG_SPACE) m (g.f (F.LAY_CFG_MODE n)) (g.f (F.LAY_CFG_CH_MASK n))) ||
    on.any (fun m => m != n && ord m == ord n) ||
    (g.fb (F.LAY_CFG_HALF_DROP n) && !(g.fb (F.LAY_CFG_TILE_X n) && g.fb (F.LAY_CFG_TILE_Y n))) ||
    g.f (F.LAY_CFG_POLICY n) == 3 ||
    (src && (g.n (R.LAY_Y0_LO n) != 0 || g.f (F.LAY_Y0_HI_Y0 n) != 0 || !g.fb (F.LAY_CFG_TILE_Y n) ||
      g.n (R.LAY_TILE_H n) == 0 || g.rpt == 0))) ||
  g.badDrop (c.layerFmt g)

/-- The filter coefficients do not all sum to 16,384 (spec/05_scaling_and_colour.md R145). -/
def Gen.badCoefs (g : Gen) : Bool :=
  (List.range 64).any fun ph =>
    ((List.range 8).map (g.coefX ph)).sum != 16384 || ((List.range 6).map (g.coefY ph)).sum != 16384

def MapRun.last (r : MapRun) : Nat := r.start + (r.count - 1) * (if r.cstep2 then 2 else 1)

/-- A run reaches a global nozzle. -/
def MapRun.reaches (r : MapRun) (n : Nat) : Bool :=
  let st := if r.cstep2 then 2 else 1
  r.start ≤ n && n ≤ r.last && (n - r.start) % st == 0

/-- First and last nozzle-in-group of a run. -/
def MapRun.iLow (r : MapRun) : Int := if r.idir then (r.iStart : Int) - (r.count - 1 : Nat) else r.iStart
def MapRun.iHigh (r : MapRun) : Int := if r.idir then r.iStart else r.iStart + (r.count - 1 : Nat)

/-- Pairs of distinct places of a list. -/
def anyPair {α : Type} (p : α → α → Bool) : List α → Bool
  | [] => false
  | a :: l => l.any (p a) || anyPair p l

/-- The head map breaks R165, or R279. -/
def Gen.badMap (g : Gen) : Bool :=
  let m := g.tabs.map
  m.any (fun r => r.rsv || r.start / 131072 != r.last / 131072 || decide (r.iLow < 0) || decide (32767 < r.iHigh)) ||
  anyPair (fun a b => b.nozzles.any a.reaches) m ||
  anyPair (fun a b => a.hg == b.hg && decide (a.iLow ≤ b.iHigh) && decide (b.iLow ≤ a.iHigh)) m ||
  anyPair (fun a b => a.hg == b.hg && g.runBar a != g.runBar b) m ||
  g.tabs.nz.any (fun e => e.2.toNat / 2 ^ 30 != 3 && !m.any (·.reaches e.1)) ||
  (List.range 64).any fun hg => decide (32 < (((m.filter (·.hg == hg)).map (·.head)).eraseDups).length)

/-- NZ_INK breaks R166, or HALF of a row-0 segment breaks R169 (R162: ignored in row-1 entries). -/
def Gen.badInks (g : Gen) : Bool :=
  (List.range 8).any (fun k =>
    let cf2 := g.fb (F.NZ_INK_CF2 k)
    !cf2 && (g.fb (F.NZ_INK_INTERLEAVE k) || g.fb (F.NZ_INK_STAGGER k) || g.twoBar k ||
      (g.inks.contains k && g.tabs.nz.any fun e =>
        e.1 / 262144 == k && e.1 / 131072 % 2 == 1 && e.2.toNat / 2 ^ 30 != 3))) ||
  g.tabs.seg.any fun e =>
    let k := e.1 / 4096
    let half := fun s => bits (Tab.get (fun _ => 0) g.tabs.seg s).toNat 2 2
    let h := half e.1
    let ok := g.fb (F.NZ_INK_CF2 k) && g.fb (F.NZ_INK_STAGGER k) && !g.fb (F.NZ_INK_INTERLEAVE k)
    e.1 / 2048 % 2 == 0 &&
      (h == 3 || (h != 0 && !ok) || (h == 1 && (e.1 + 1) / 2048 == e.1 / 2048 && half (e.1 + 1) == 2))

/-- The calibration sets (R176), the ladders and screens (R182) or the packing maps (R183) break their rules. -/
def Gen.badScreens (g : Gen) : Bool :=
  (g.fb F.NZ_CFG_TSET_EN && (g.sets.isEmpty || anyPair (fun a b => decide (b.2 ≤ a.2)) g.sets)) ||
  (List.range 8).any (fun k =>
    let m := g.f (F.SCR_LEVELS_M k)
    let t := fun j => g.f (F.LADDER_T k (j - 1))
    (List.range m).any (fun i => g.f (F.LADDER_C k i) == 0 || (i != 0 && decide (t (i + 1) ≤ t i))) || (m != 0 && t 1 == 0) ||
    (g.inks.contains k && (Tab.get (fun _ => ({} : Screen)) g.tabs.screens k).w == 0)) ||
  (List.range 16).any fun b => g.n (R.NZ_PACK b) % 4 != 0

/-- BAD_PARAM of a COMMIT. -/
def Core.commitBad (c : Core) (g : Gen) (kind n : Nat) : Bool :=
  (kind < 2 && n != 0) || (kind == 1 && g.rpt == 0) || c.badLayers g || g.badCoefs || g.badMap || g.badInks ||
    g.badScreens

/-! ### RANGE -/

/-- The tiles and panel regions break R119 or R133. -/
def Core.rangeLayers (c : Core) (g : Gen) : Bool :=
  g.layersOn.any (fun n =>
    let s := c.surf (g.f (F.LAY_SURF_ID n))
    !g.fb (F.LAY_CFG_SRC n) && (decide (s.width < g.n (R.LAY_TILE_W n)) || decide (s.height < g.n (R.LAY_TILE_H n)))) ||
  (List.range 64).any fun n =>
    g.fb (F.PR_CFG_EN n) && g.fb (F.PR_CFG_PANEL n) &&
      (g.rpt == 0 ||
        decide (g.rpt / 65536 < g.n (R.PR_L0_LO n) + g.f (F.PR_L0_HI_L0 n) * 2 ^ 32 + g.n (R.PR_LINES n)))

/-- The geometry breaks R143, R147, R155 or the range of SC_ZONE_W. -/
def Gen.rangeScale (g : Gen) : Bool :=
  let bad := fun (x : Int) => decide (x < 0x02000000) || decide (0x40000000 < x)
  bad g.stepX || bad g.stepY || decide (g.zoneW < 16) || decide (2048 < g.zoneW) ||
  (g.distEn && (List.range 64).any fun z => bad (g.stepXz z)) ||
  (g.distEn && (List.range 63).any fun z =>
    decide (64 * g.zoneW * min (g.stepXz z) (g.stepXz (z + 1)) < (g.shift (z + 1) - g.shift z).natAbs * g.stepY * 8)) ||
  (g.fb F.SC_CFG_TIL_EN && (decide (g.f F.SC_TIL_LIMIT < 65535) || decide (524280 < g.f F.SC_TIL_LIMIT)))

/-- The fire unit's settings break R87 or R90; a width outside 32 to 4,095 is refused with them (log entry 24). -/
def Core.rangeFire (c : Core) (g : Gen) (p : Nat) : Bool :=
  g.barsOn.any fun b =>
    let w := g.f (F.FIRE_WIDTH_WIDTH b)
    let lim := max 25 (min 500 (c.f (F.FIRE_WD_LIMIT b)))
    decide (w < 32) || decide (lim * 40000 ≤ w * 1250) || decide (p < 2 * w * 1250) ||
      decide (g.n64 R.WEB_PITCH_LO < 2 * (g.f (F.FIRE_TRIM_SPAN b) * 4) * 2 ^ 32)

/-- The slice map breaks R189, or the seams R467. -/
def Core.rangeSlices (c : Core) (g : Gen) : Bool :=
  g.slices.any (fun s => decide (s.2 ≤ s.1) || decide (8192 < s.2 - s.1)) || decide (131072 < g.lastCol) ||
  g.tabs.map.any (fun r => decide (r.start % 131072 < g.firstCol) || decide (g.lastCol ≤ r.last % 131072)) ||
  (c.fb F.CREW_STAT_FORMED &&
    ((g.fb F.CREW_CFG_RIGHT_EN && g.lastCol % 64 != 0) || (g.fb F.CREW_CFG_LEFT_EN && g.firstCol != 0)))

/-- The lines from PB0 to a camera, rounded up (R214). -/
def Gen.lines (g : Gen) (nm : Nat) : Nat := ceilDiv (nm * 2 ^ 32) (max 1 (g.n64 R.WEB_PITCH_LO))

def Core.pfCams (c : Core) : List Nat := (List.range 4).filter fun n => c.fb (F.PF_CAM_CFG_EN n)

/-- The loops' settings break R213 (a traversing camera's WIN outside its values, log entry 54), R214, R216, R220 or R227; calibration-set bases R176 or R125. -/
def Core.rangeLoops (c : Core) (g : Gen) : Bool :=
  let outside := fun a => decide (c.mirTop < a + 8 * 2 ^ 20)
  let cams := c.pfCams
  let align := g.barsOn.foldl (fun m b => max m (max (c.i64 (R.FIRE_ALIGN_FWD_LO b)).natAbs
    (c.i64 (R.FIRE_ALIGN_REV_LO b)).natAbs)) 0
  (List.range 4).any (fun j => g.n64 (R.NZ_TSET_BASE_LO j) % 64 != 0 || c.n64 (R.PF_TSET_ALT_LO j) % 64 != 0) ||
  (g.fb F.NZ_CFG_TSET_EN && g.sets.any fun s => outside (g.n64 (R.NZ_TSET_BASE_LO s.1))) ||
  g.n64 R.PF_ACC_BASE_LO % 64 != 0 ||
  cams.any (fun n => decide (c.i64 (R.PF_CAM_DIST_LO n) ≤ align)) ||
  (((List.range 8).any fun k => let m := c.f (F.PF_INK_MODE k); (m == 1 || m == 2)) &&
    (List.range 4).any fun j => outside (c.n64 (R.PF_TSET_ALT_LO j))) ||
  cams.any (fun n => c.fb (F.PF_CAM_CFG_TYPE n) &&
    (let w := g.f (F.PF_CAM_WIN_WIN n); decide (w < 64) || decide (4096 < w) || w % 64 != 0)) ||
  (cams != [] &&
    (let far := cams.foldl (fun m n => max m (g.lines (c.i64 (R.PF_CAM_DIST_LO n)).toNat)) 0
     let tall := cams.foldl (fun m n =>
       max m (g.lines (ceilDiv (c.f (F.CAM_SIZE_HEIGHT n) * c.n (R.PF_CAM_PXH n)) 256))) 0
     decide (g.n R.PF_RING_LINES < far + 2 * tall)))

/-- Offsets of the registers that R120, R148, R167 and R189 fix from top-of-form to the end of the job. -/
def fixedRegs : List Nat :=
  [R.JOB_REPEAT_INT, R.JOB_REPEAT_FRAC, R.SC_STEP_X, R.SC_STEP_Y, R.SC_U0_LO, R.SC_U0_HI, R.SC_V0_LO, R.SC_V0_HI,
   R.SC_ZONE_X0, R.SC_ZONE_W, R.NZ_PACK_EN, R.NIB_CFG] ++
  (List.range 16).map R.NZ_PACK ++ (List.range 17).map R.SL_BOUND

/-- NZ_INK without RAND. -/
def Gen.inkFix (g : Gen) (k : Nat) : List Nat :=
  [g.f (F.NZ_INK_CF2 k), g.f (F.NZ_INK_INTERLEAVE k), g.f (F.NZ_INK_STAGGER k), g.bar0 k, g.bar1 k]

/-- The distortion moves a column by more than one grid pixel at a line (R148); `chained` leaves u out. -/
def Gen.jumps (g h : Gen) (le : Nat) (chained : Bool := false) : Bool :=
  if g.distEn || h.distEn then
    (List.range (g.lastCol - g.firstCol)).any fun i =>
      let col : Int := (g.firstCol + i : Nat)
      (!chained && decide (2 ^ 28 < (g.u col - h.u col).natAbs)) || decide (2 ^ 28 < (g.v col le - h.v col le).natAbs)
  else false

/-- The values of SC_U0 with which u moves by at most one grid pixel from that of another generation at every column (R148). -/
def Gen.u0Range (g h : Gen) : Int × Int :=
  (List.range (g.lastCol - g.firstCol)).foldl (fun r i =>
    let col : Int := (g.firstCol + i : Nat)
    let x := sext 64 (g.n64 R.SC_U0_LO) + h.u col - g.u col
    (max r.1 (x - 2 ^ 28), min r.2 (x + 2 ^ 28))) (-(2 ^ 63), 2 ^ 63)

/-- A generation's SC_U0 is taken from the neighbour's chain, so that R148 applies to the u that results (spec/17_time_and_crew.md
R468). -/
def Core.chained (c : Core) (g : Gen) : Bool :=
  c.fb F.CREW_STAT_FORMED && !c.replay && g.fb F.CREW_CFG_LEFT_EN && g.fb F.CREW_CFG_U0_CHAIN

/-- A generation after top-of-form changes what the job fixes (R20, R120, R148, R167, R189); a chained SC_U0 is judged at the
decision. -/
def Gen.rangeFixed (g h : Gen) (le : Nat) (chained : Bool := false) : Bool :=
  fixedRegs.any (fun o => g.n o != h.n o && !(chained && (o == R.SC_U0_LO || o == R.SC_U0_HI))) || decide (g.tabs.map ≠ h.tabs.map) ||
  (List.range 8).any (fun k => decide (g.inkFix k ≠ h.inkFix k)) ||
  g.f F.SC_CFG_BYPASS_X != h.f F.SC_CFG_BYPASS_X || g.f F.SC_CFG_BYPASS_Y != h.f F.SC_CFG_BYPASS_Y || g.jumps h le chained

/-- Trims, as the head boards hold them, differ (R92). -/
def Gen.trimsDiffer (g h : Gen) : Bool :=
  (List.range 16).any (fun b => g.n (R.FIRE_TRIM b) != h.n (R.FIRE_TRIM b)) ||
  (g.tabs.seg ++ h.tabs.seg).any fun e =>
    (Tab.get (fun _ => 0) g.tabs.seg e.1).toNat / 65536 != (Tab.get (fun _ => 0) h.tabs.seg e.1).toNat / 65536

/-- The trim banks are too close (spec/03_firing.md R93). -/
def Core.trimsClose (c : Core) (g : Gen) (le : Nat) : Bool :=
  c.job.tof && g.trimsDiffer c.newest && (match c.job.lastTrimLe with
    | some l => decide (le < l + 4)
    | none => false)

/-- The generation in force: that of the line which the bar with the smallest D_b prints at S_now (log entry 51). -/
def Core.inForce (c : Core) : Gen := c.genAt ((c.web.s : Int) - c.dMin).toNat

/-- RANGE of a COMMIT with an effective line. -/
def Core.commitRange (c : Core) (g : Gen) (kind n le : Nat) : Bool :=
  let p := c.pMinPs g
  let ct := g.f F.NIB_CFG_CATCH
  let w := g.f F.NIB_CFG_W
  decide (2 < kind) || (kind == 2 && n == 0) || decide (ct < 1) || decide (8 < ct) || decide (w < 4) || decide (24 < w) ||
    decide (w < wMin ct p) ||
    (List.range 8).any (fun k => g.f (F.SCR_LEVELS_M k) == 0) || c.rangeLayers g || g.rangeScale || c.rangeFire g p || c.rangeSlices g || c.rangeLoops g ||
    decide (g.jobLast + 1 < le) || (c.job.tof && g.rangeFixed c.inForce le (c.chained g)) || c.trimsClose g le

/-! ### CAPACITY -/

/-- PF_RING_NEED in KiB (spec/08_density_and_placement_loops.md R212, R214, log entry 25): nothing while no camera is enabled for
the loops. -/
def Core.ringNeed (c : Core) (g : Gen) : Nat :=
  if c.pfCams = [] then 0 else
  let cols := g.lastCol - g.firstCol
  let wins := ((c.pfCams.filter fun n => c.fb (F.PF_CAM_CFG_TYPE n)).map fun n => g.f (F.PF_CAM_WIN_WIN n)).sum
  let lines := g.n R.PF_RING_LINES
  ceilDiv (g.inks.length * (ceilDiv cols 8 * 2 * ceilDiv lines 8 + wins * 3 * lines)) 1024

/-- CAPACITY of a COMMIT (R125, R35, R150, R214). -/
def Core.commitCap (c : Core) (g : Gen) : Bool :=
  let p := c.pMinPs g
  decide (scalerLimit < (g.maxDemand g.slices).1) || c.fetchOver g p (fun _ => none) g.slices ||
    decide (g.n R.PF_RING_SIZE < c.ringNeed g)

/-! ### Lateness (R27, R126, R179) -/

/-- The generation changes nozzle or segment entries, or what R177 counts as such. -/
def Gen.changedInks (g h : Gen) : List Nat :=
  let all := g.f F.NZ_CFG_TSET_EN != h.f F.NZ_CFG_TSET_EN ||
    (List.range 4).any fun j => g.n64 (R.NZ_TSET_BASE_LO j) != h.n64 (R.NZ_TSET_BASE_LO j) ||
      g.n (R.NZ_TSET_TEMP j) != h.n (R.NZ_TSET_TEMP j)
  (List.range 8).filter fun k =>
    all || decide (g.tabs.nz.filter (fun e => e.1 / 262144 = k) ≠ h.tabs.nz.filter (fun e => e.1 / 262144 = k)) ||
      decide (g.tabs.seg.filter (fun e => e.1 / 4096 = k) ≠ h.tabs.seg.filter (fun e => e.1 / 4096 = k))

/-- The strokes by which a generation's cut-off comes earlier (R179). -/
def Core.leadOf (c : Core) (g : Gen) : Nat :=
  if g.changedInks c.newest = [] then 0 else max (c.n R.NZ_LEAD) (nzLead (c.pMinPs g))

/-- The smallest line whose cut-off event, earlier by `lead` strokes, has not occurred. -/
def Core.firstAhead (c : Core) (lead : Nat) : Nat := ((c.web.s : Int) - c.dMin + c.job.catchN + lead + 1).toNat

/-- The smallest line whose cut-off event has not occurred for a generation. -/
def Core.firstOnTime (c : Core) (g : Gen) : Nat := c.firstAhead (c.leadOf g)

/-- The smallest eligible boundary of a kind at or after line `x` (R124). -/
def Gen.eligible (g : Gen) (kind l n x : Nat) : Nat :=
  match kind with
  | 0 => max l x
  | 1 =>
    let y := max l x
    let k := if g.rpt = 0 then 0 else y * 65536 / g.rpt
    if g.lk k ≥ y then g.lk k else g.lk (k + 1)
  | _ => if x ≤ l then l else l + ceilDiv (x - l) (max 1 n) * max 1 n

/-- L_e and whether the COMMIT is late, its cut-off earlier by `lead` strokes: outside a running job L_e is 0 and never late (R391). -/
def Core.effAhead (c : Core) (g : Gen) (kind l n lead : Nat) : Nat × Bool :=
  if c.job.tof then
    let le := g.eligible kind l n 0
    let x := c.firstAhead lead
    if x ≤ le then (le, false) else (g.eligible kind l n x, true)
  else (0, false)

/-- L_e and whether the COMMIT is late. -/
def Core.effLine (c : Core) (g : Gen) (kind l n : Nat) : Nat × Bool := c.effAhead g kind l n (c.leadOf g)

/-- A COMMIT is refused with BUSY and without side effect: eight generations are live (R29), or an ink that it would change has a
pending version (R177). -/
def Core.commitHeld (c : Core) (g : Gen) : Bool :=
  decide (8 ≤ c.job.gens.length ∧ c.job.tof) || (g.changedInks c.newest).any c.pendingVer

/-- BUSY of a COMMIT (R29, R177, R386). -/
def Core.commitBusy (c : Core) (g : Gen) : Bool := c.commitHeld g || (c.asyncOf 0x12).isSome

/-- SC_CAP_STAT and PF_RING_NEED as a COMMIT evaluates them, accepted or refused (R150), but where a BUSY has no side effect. OVER is
set where the status is CAPACITY. -/
def Core.capStat (c : Core) (g : Gen) (st : Nat) : Core :=
  if st = rBusy ∧ c.commitHeld g then c else
  let (d, i) := g.maxDemand g.slices
  let c := ((c.setF F.SC_CAP_STAT_DEMAND (min 0xFFFFF d)).setF F.SC_CAP_STAT_SLICE i).setB F.SC_CAP_STAT_OVER (st = rCapacity)
  c.setN R.PF_RING_NEED (c.ringNeed g)

/-- The status of a COMMIT in the order of R125, with its effective line; 0x00 or 0x02 where it is accepted. -/
def Core.commitJudge (c : Core) (g : Gen) (kind l n : Nat) (strict : Bool) : Nat × Nat :=
  let (le, late) := c.effLine g kind l n
  let st := if c.commitBusy g then rBusy
    else if c.commitBad g kind n then rBadParam
    else if c.commitRange g kind n le then rRange
    else if c.commitCap g then rCapacity
    else if late then (if strict then rRange else rDeferred)
    else rDone
  (st, le)

/-! ### Acceptance (R123, R26, R28, R29) -/

/-- The live generations become `keep`; those of `old` stop being live, with 0x0306 for each (R29). -/
def Core.retireTo (c : Core) (keep old : List Gen) : Core :=
  let c := { c with job := { c.job with gens := keep } }.setF F.CMT_STATUS_LIVE keep.length
  c.eachOf old fun g c => c.post 0x0306 31 g.num

/-- A fresh list of unstated bytes. -/
def Core.freeBytes (c : Core) (words : Nat) : List Byte × Core :=
  (List.range words).foldl (fun (l, c) _ => let (w, c) := c.free; (l ++ leBytes 8 w, c)) ([], c)

/-- The registers that report the limits of the configuration in force. -/
def Core.limitRegs (c : Core) (g : Gen) : Core :=
  let p := g.pMin
  let c := (c.setF F.NZ_LEAD_LEAD g.lead).setN R.NIB_P_MIN (p / 1000)
  let c := c.setF F.NIB_W_MIN_WMIN (wMin (g.f F.NIB_CFG_CATCH) p)
  let c := (c.setF F.FIRE_RATE_LIMIT_RATE (g.fireLimit g.fullOk)).setF F.QL_LIMIT_RATE (c.qlLimit g)
  let c := (c.setF F.NZ_STAT_FULL_OK g.fullOk).setF F.NZ_STAT_MAP_RUNS g.tabs.map.length
  c.setB F.NIB_STAT_DEGRADE_OK (c.degradeOk g p)

/-- The versions that a generation creates (spec/06_screening_and_nozzles.md R177): of the inks it changes, outside a
job under TSET_EN of every ink; and the heads' temperatures to the logbook. -/
def Core.newVersions (c : Core) (g : Gen) (changed : List Nat) : Core :=
  let tset := g.fb F.NZ_CFG_TSET_EN
  let inks := if !c.job.tof && tset then List.range 8 else changed
  c.eachOf inks fun k c =>
    let c := c.addVer g k g.le
    let c := if c.job.tof then c.setPendingVer k true
      else (c.setInk k { vers := (c.ink k).vers.take 1 }).setPendingVer k false
    if tset then
      c.logRec 0x0C (leBytes 1 k ++ leBytes 6 g.le ++
        (g.headsOf k).flatMap fun h => leBytes 2 h ++ leBytes 2 (wrap 16 (c.theta h)))
    else c

/-- A new encoder factor in force from the next count (spec/02_web_motion.md R49). -/
def Core.takeScales (c : Core) (g : Gen) : Core :=
  Core.cmpErrSyncAll <| c.each 4 fun n c =>
    let v := g.n64 (R.ENC_SCALE_LO n)
    if (c.enc n).scale = v then c
    else
      let c := c.setEnc n { c.enc n with scale := v }
      if c.f F.WEB_SRC_ACTIVE = n then
        c.logRec 3 (leBytes 1 n ++ leBytes 8 v ++ leBytes 12 (wrap 96 c.web.offset))
      else c

/-- WEB_PITCH and PRINT_DIR: pending to the first stroke event after, or in force at once from a pitch of 0 (R53). -/
def Core.takePitch (c : Core) (g : Gen) : Core :=
  let p := g.n64 R.WEB_PITCH_LO
  let rev := g.fb F.WEB_CTRL_PRINT_DIR
  if c.web.pitch = 0 then
    if p = 0 then c
    else
      let x := c.webPosRaw
      { c with web := { c.web with pitch := p, rev := rev, pend := none, furthest := x
                                   bNext := if rev then x - p else x + p } }
  else if p = c.web.pitch ∧ rev = c.web.rev then { c with web := { c.web with pend := none } }
  else { c with web := { c.web with pend := some (p, rev) } }

/-- WAVE_SEL of heads, naming S16 = L_e + D_b, on the ACTIVE lanes that carry them (spec/10_quill_head_link.md R286). -/
def Core.sendWaves (c : Core) (g : Gen) (heads : List Nat) : Core :=
  c.eachOf heads fun x c =>
    let s := ((g.le : Int) + (c.bar ((g.headBar x).getD 0)).d).toNat
    c.eachOf ((g.headGroups x).flatMap g.lanesOf).eraseDups fun n c =>
      if c.laneActive n then c.mgmtSend n (waveSel x (g.wave x) s) else c

/-- WAVE_SEL for every head whose table a generation changes, against the one whose lines go before it or one that it supersedes and whose
changes it carries (R286, spec/01_print_architecture.md R26). Outside a job D_b is not known yet, and the messages are
sent again at the top-of-form (log entry 59). -/
def Core.takeWaves (c : Core) (g : Gen) (hs : List Gen) : Core :=
  let heads := g.heads.filter fun x => hs.any fun h => g.wave x != h.wave x
  let c := if c.job.tof then c else { c with job := { c.job with waves := (c.job.waves ++ heads).eraseDups } }
  c.sendWaves g heads

/-- The tables taken before the top-of-form, with the tag of the job's first line. -/
def Core.tofWaves (c : Core) : Core :=
  let c := c.each 64 fun n c => c.setLane n { c.lane n with gone := [] }
  { c.sendWaves c.newest c.job.waves with job := { c.job with waves := [] } }

/-- The trims of a head group differ: its bar's SPAN or BIAS, a segment that its runs reach, or the runs themselves. -/
def Gen.trimsMoved (g h : Gen) (hg : Nat) : Bool :=
  let runs := g.tabs.map.filter fun r => r.hg = hg
  let trim := fun (x : Gen) s => (Tab.get (fun _ => 0) x.tabs.seg s).toNat / 65536
  decide (runs ≠ h.tabs.map.filter fun r => r.hg = hg) ||
  (match g.groupBar hg with
   | some b => g.n (R.FIRE_TRIM b) != h.n (R.FIRE_TRIM b)
   | none => false) ||
  (g.tabs.seg ++ h.tabs.seg).any fun e =>
    trim g e.1 != trim h e.1 && runs.any fun r => r.start / 64 ≤ e.1 && e.1 ≤ r.last / 64

/-- The trims of an accepted generation wait for the inactive banks of the groups in which they differ from those of `h`, the
generation that it takes over from; loads of those that it replaces wait no more, and the bank of one already loaded is free
again (spec/03_firing.md R92, R93; log entry 61). -/
def Core.takeBanks (c : Core) (g h : Gen) : Core :=
  c.each 64 fun hg c =>
    let u := c.group hg
    let d := match g.groupBar hg with
      | some b => (c.bar b).d
      | none => 0
    let dead := match u.next with
      | some t => !c.job.tof || decide ((g.le : Int) + d ≤ t)
      | none => false
    let owed := !c.job.tof && (decide (u.want ≠ []) || dead)
    let moved := (g.tabs.map.any fun r => r.hg == hg) && g.trimsMoved h hg
    let keep := if c.job.tof then u.want.filter (· < g.le) else []
    c.setGroup hg { u with next := if dead then none else u.next, want := if moved || owed then keep ++ [g.le] else keep }

/-- The segments whose TRIM an accepted generation changes give no placement sample before its first line
(spec/08_density_and_placement_loops.md R224), and its trims wait for their banks. -/
def Core.takeTrims (c : Core) (g prev h : Gen) : Core :=
  let trim := fun (t : Tab Word) s => (Tab.get (fun _ => 0) t s).toNat / 65536
  let c := if g.trimsDiffer prev then
      { c with job := { c.job with lastTrimLe := if c.job.tof then some g.le else none } }
    else c
  let c := c.eachOf (g.tabs.seg ++ h.tabs.seg) fun e c =>
    if trim g.tabs.seg e.1 = trim h.tabs.seg e.1 then c
    else { c with pf := { c.pf with trimFrom := Tab.set (fun _ => 0) c.pf.trimFrom e.1 g.le
                                    plc := Tab.set (fun _ => []) (Tab.set (fun _ => []) c.pf.plc (2 * e.1) []) (2 * e.1 + 1) [] } }
  c.takeBanks g h

/-! ### Groups and their lanes (R266, R279, R293) -/

def Core.pairMirrored (c : Core) (g : Nat) : Bool := bit (c.newest.n R.QL_MIRROR) (g % 32)

def Core.groupUsed (c : Core) (g : Nat) : Bool := c.newest.tabs.map.any fun r => r.hg == g

/-- The heads of a group in order of SLOT: by the lowest nozzle-in-group of their runs (R279). -/
def Gen.slotHeads (g : Gen) (hg : Nat) : List Nat :=
  (sortBy (fun a b => decide (a.iLow ≤ b.iLow)) (g.tabs.map.filter (fun r => r.hg = hg))).map (·.head) |>.eraseDups

/-- A pair of 32-bit registers with bit `n` set or cleared. -/
def Core.setPairBit (c : Core) (lo n : Nat) (v : Bool) : Core :=
  let off := lo + 4 * (n / 32)
  c.setN off (setBits (c.n off) (n % 32) 1 (b2n v))

def Core.pairBit (c : Core) (lo n : Nat) : Bool := bit (c.n (lo + 4 * (n / 32))) (n % 32)

/-- A group blanked for want of a lane, from the first line whose transmission starts after this (R293). -/
def Core.blankGroup (c : Core) (g : Nat) : Core :=
  let bar := (c.newest.groupBar g).getD 0
  let span := c.spanBegin bar (c.web.s + 2)
  let c := c.setGroup g { c.group g with blanked := true, span := span }
  let c := (c.setF (F.QLN_STATE_MODE g) 3).setF F.QL_STAT_BLANKED (c.f F.QL_STAT_BLANKED + 1)
  let c := c.eachOf (c.newest.slotHeads g) fun h c => c.blankHead h 1 (c.web.s + 2)
  c.spanFirst 0x0707 bar span

/-- The blanks of groups and heads where a job begins (`on`) or ends (R293, R306). -/
def Core.blankSpans (c : Core) (on : Bool) : Core :=
  let c := c.each 64 fun g c =>
    let u := c.group g
    let v := if on then c.spanOpen u.span else c.spanClose ((c.newest.groupBar g).getD 0) u.span
    if u.blanked then c.setGroup g { u with span := v } else c
  c.headSpans on

/-- The blank of a group cleared once a copy is carried again, with the record of its full span. -/
def Core.unblankGroup (c : Core) (g : Nat) : Core :=
  let u := c.group g
  let c := c.setGroup g { u with blanked := false, span := {} }
  let c := (c.setF (F.QLN_STATE_MODE g) u.mode).setF F.QL_STAT_BLANKED (c.f F.QL_STAT_BLANKED - 1)
  let other := fun h => (List.range 64).any fun k => (c.group k).blanked && (c.newest.slotHeads k).contains h
  let c := c.eachOf ((c.newest.slotHeads g).filter fun h => !other h) fun h c => c.unblankHead h 1 (c.web.s + 1)
  let bar := (c.newest.groupBar g).getD 0
  c.spanRecord 0x0707 bar bar (c.web.s + 1) u.span

/-- A group's protection as its lanes stand: unprotected where it prints from its own lane alone (R297), blanked while no lane that carries a copy of it is ACTIVE. -/
def Core.groupSync (c : Core) (g : Nat) : Core :=
  let own := c.laneActive g
  let mir := c.pairMirrored g && c.laneActive (Nat.xor g 32)
  let used := c.groupUsed g
  let unprot := used && c.pairMirrored g && own && !mir && !c.pairBit R.QL_MIRRONLY_LO g
  let was := c.pairBit R.QL_UNPROT_LO g
  let c := c.setPairBit R.QL_UNPROT_LO g unprot
  let dark := used && !own && !mir
  let c := if (c.group g).blanked && !dark then c.unblankGroup g else c
  let c := if unprot && !was then c.post 0x0706 g g else c
  if dark && !(c.group g).blanked then c.blankGroup g else c

/-- The groups as an accepted generation has them: a head it moves into or out of a blanked group takes or loses that
blank. -/
def Core.groupsJudged (c : Core) (prev : Gen) : Core :=
  let dark := (List.range 64).filter fun g => (c.group g).blanked
  let old := (dark.flatMap prev.slotHeads).eraseDups
  let now := (dark.flatMap c.newest.slotHeads).eraseDups
  let c := c.eachOf (old.filter fun h => !now.contains h) fun h c => c.unblankHead h 1 (c.web.s + 1)
  let c := c.eachOf (now.filter fun h => !old.contains h) fun h c => c.blankHead h 1 (c.web.s + 2)
  c.each 64 fun g c => c.groupSync g

/-! ### Acceptance -/

/-- A generation accepted: `origin` 0 host, 1 loop, 2 derate, 3 crew; `status` as replied; `changed` its changed
fields for the logbook. -/
def Core.accept (c : Core) (g0 : Gen) (le origin status : Nat) (changed : List Byte) : Core :=
  let prev := c.newest
  let p := c.pMinPs g0
  let num := (c.job.genNum + 1) % 256
  let g := { g0 with num := num, le := le, pMin := p, lead := nzLead p, fullOk := g0.fullOkAt p }
  let inks := g.changedInks prev
  let c := if c.job.tof then c.squash 0 fun _ _ _ l => le ≤ l else c
  let old := if c.job.tof then c.job.gens.filter fun h => le ≤ h.le else c.job.gens
  let keep := if c.job.tof then c.job.gens.filter fun h => h.le < le else []
  let before := if c.job.tof then (keep ++ old.reverse).headD prev else prev
  let c := { c with pipe := { c.pipe with unhid := c.pipe.unhid.filter fun e => e.1 / 1048576 ≠ num } }
  let c := { c with job := { c.job with genNum := num, committed := true
                                        catchN := if c.job.tof then c.job.catchN else g.f F.NIB_CFG_CATCH
                                        w := if c.job.tof then c.job.w else g.f F.NIB_CFG_W } }
  let c := (c.retireTo (g :: keep) old).setF F.CMT_STATUS_GEN num
  let c := (c.setN R.CMT_LAST_LE_LO le).setF F.CMT_LAST_LE_HI_LE (le / 2 ^ 32)
  let c := if status = rDeferred then c.inc R.CMT_DEFER_CNT else c
  let c := if origin = 1 then c.perf 78 else c
  let c := (c.limitRegs g).newVersions g inks
  let c := (((c.takeScales g).takePitch g).takeWaves g (before :: old)).takeTrims g prev before
  let c := if c.job.tof then c else c.each 16 fun b c => if g.fb (F.FIRE_CFG_EN b) then c else c.fireOff b
  let (sha, c) := c.freeBytes 4
  let c := c.logRec 0x0B (leBytes 1 num ++ leBytes 1 origin ++ leBytes 6 le ++ leBytes 1 status ++ sha ++ changed)
  (c.nibFillAll.inflightSync).groupsJudged prev

end Sys2Proof.Machine
end

