-- ==== Sys2Proof/Machine/Fire.lean ====
section
/-!
DEFINITION. The fire unit (spec/03_firing.md): predicted edges and their locks, the fire-rate rule, SLOW_REQ, and the
strobe watchdogs.
-/

namespace Sys2Proof.Machine

/-! ### Pending lines (R79, R80) -/

/-- FIRE_STATUS.PENDING as the lines stand. -/
def Core.pendSync (c : Core) (b : Nat) : Core := c.setB (F.FIRE_STATUS_PENDING b) ((c.bar b).pend ≠ [])

/-- The fire position of bar `b` for the line it prints at stroke `s` (R79). -/
def Core.firePos (c : Core) (b s : Nat) : Int := c.strokePos s + (c.bar b).f * c.step / p32

/-- Every bar's line for stroke S awaits its edge (R79, R80), once; after an abort only lines whose transmission
had started (R370). A bar whose EN is 0 from here on has its output inactive (R86). -/
def Core.pendStroke (c : Core) (s : Nat) : Core :=
  if c.printing && (!c.job.aborting || s ≤ c.job.abortLast) && decide (c.web.ahead < s) then
    let c : Core := { c with web := { c.web with ahead := s } }
    c.each 16 fun b c =>
      match c.barLine b s with
      | some (l, _, g) =>
        if g.fb (F.FIRE_CFG_EN b) then
          (c.setBar b { c.bar b with pend := (c.bar b).pend ++ [⟨l, s, c.firePos b s, none⟩] }).pendSync b
        else c.fireOff b
      | none => c
  else c

/-- At stroke event S the lines for S await their edges. -/
def Core.pendLines (c : Core) : Core := c.pendStroke c.web.s

/-- The lines of the strokes whose boundaries a position reaches or passes await their edges before the stroke events (spec/17_time_and_crew.md
R462), with fuel. -/
def Core.pendAhead : Nat → Core → Int → Core
  | 0, c, _ => c
  | f + 1, c, x =>
    let s := max c.web.s c.web.ahead + 1
    let b := c.strokePos s
    if c.printing && c.web.pitch ≠ 0 && (if c.web.rev then decide (x ≤ b) else decide (b ≤ x)) then Core.pendAhead f (c.pendStroke s) x
    else c

/-! ### Edges due (R84, R96, R97, R101) -/

/-- Rows of the bar fire apart: row interleave with FULL_OK clear (R94, R96). -/
def Gen.apart (g : Gen) (b : Nat) : Bool :=
  match g.barInk b with
  | some k => g.fb (F.NZ_INK_INTERLEAVE k) && !bit g.fullOk k
  | none => false

/-- An edge at this instant comes too soon (R96). -/
def Core.tooSoon (c : Core) (b line : Nat) : Bool :=
  let u := c.bar b
  let g := c.genAt line
  let row := if g.apart b then (if line % 2 = 0 then u.lastEven else u.lastOdd) else u.lastEdge
  (match row with
   | some t => decide ((c.now - t) * 5 < g.fmp b * 4)
   | none => false) || c.pulseNear b

/-- A line skipped (R97). -/
def Core.skipLine (c : Core) (b line : Nat) : Core := (c.inc (R.FIRE_SKIP_CNT b)).defectLines 0x0203 b line line

/-- A line blocked (R101); it gives the loops no sample (spec/08_density_and_placement_loops.md R219). -/
def Core.blockLine (c : Core) (b line : Nat) : Core :=
  let u := c.bar b
  let s := line + c.sTof
  let r := match u.blocked with
    | some (l0, s0, _) => (l0, s0, s)
    | none => (line, s, s)
  let c := (c.setBar b { u with blocked := some r, blockedCnt := u.blockedCnt + 1 }).inc (R.FIRE_BLOCK_CNT b)
  c.unsampled b line line

/-- The edge of a pending line falls due (R84, R86, R96, R101). -/
def Core.edgeDue (c : Core) (b : Nat) (p : PendLine) : Core :=
  let u := c.bar b
  let c := (c.setBar b { u with pend := u.pend.filter (fun q => q.s ≠ p.s), fresh := false }).pendSync b
  if !c.printing then c
  else if c.latched b then c.blockLine b p.line
  else if !u.fresh && c.tooSoon b p.line then c.skipLine b p.line
  else c.issueEdge b p.line p.s

/-! ### Prediction (R81-R83) -/

/-- The instant predicted for a fire position, to the nearest 1.25 ns, from the time of the update (R81); none at no speed, or when the last count
ran against PRINT_DIR (R83). -/
def Core.predict (c : Core) (x : Int) : Option Nat :=
  let v := (c.i R.WEB_SPEED).natAbs
  let d := (x - c.webPosRaw).natAbs
  if v = 0 ∨ c.webNeg ≠ c.web.rev then none
  else some (c.web.upd + (8 * d + 5 * 65536 * v) / (10 * 65536 * v))

/-- Predictions that are not locked withdrawn: the speed is zero (R83). -/
def Core.unpredict (c : Core) : Core :=
  c.each 16 fun b c =>
    let u := c.bar b
    c.setBar b { u with pend := u.pend.map fun q => match q.pred with
      | some t => if c.now + 16 < t then { q with pred := none } else q
      | none => q }

/-- The line of a bar that stands before stroke `s` and still awaits its edge. -/
def Core.pendBefore (c : Core) (b s : Nat) : Option PendLine := (c.bar b).pend.find? fun q => q.s < s

/-- The instant at which a pending line's edge is placed. -/
def Core.place (c : Core) (b : Nat) (p : PendLine) (t : Option Nat) : Core :=
  let u := c.bar b
  c.setBar b { u with pend := u.pend.map fun q => if q.s = p.s then { q with pred := t } else q }

/-- A pending line at a position update: a locked edge stays (R82), a position reached or passed issues (R83), else
the instant is predicted anew (R81). While an earlier line of the bar awaits a locked edge, one whose position is passed
is placed at that edge's instant, and falls due after it (R84). -/
def Core.pendUpdate (c : Core) (b : Nat) (p : PendLine) : Core :=
  let due := match p.pred with
    | some t => decide (t ≤ c.now)
    | none => false
  let locked := match p.pred with
    | some t => decide (t ≤ c.now + 16)
    | none => false
  let x := c.webPosRaw
  let passed := if c.web.rev then decide (x ≤ p.x) else decide (p.x ≤ x)
  if due then c.edgeDue b p
  else if locked then c
  else if passed then
    match c.pendBefore b p.s with
    | some q => c.place b p q.pred
    | none => c.edgeDue b p
  else c.place b p (c.predict p.x)

/-- The fire unit at a position update of the active web source: each bar's lines in order (R84). -/
def Core.fireUpdate (c : Core) : Core :=
  c.each 16 fun b c => c.eachOf (c.bar b).pend fun p c => c.pendUpdate b p

/-! ### SLOW_REQ (R98) -/

/-- r_b of an enabled bar as a fraction. -/
def Core.barRatio (c : Core) (b : Nat) : Option (Nat × Nat) :=
  let g := if c.job.tof then c.genAt ((c.web.s : Int) - (c.bar b).d).toNat else c.newest
  if g.fb (F.FIRE_CFG_EN b) then
    some (g.fmp b * (c.i R.WEB_SPEED).natAbs * 65536, (if g.apart b then 2 else 1) * max 1 c.web.pitch)
  else none

/-- The bar with the largest ratio, the lowest such bar, and its ratio. -/
def Core.maxRatio (c : Core) : Nat × Nat × Nat :=
  (List.range 16).foldl (fun m b =>
    match c.barRatio b with
    | some (n, d) => if m.2.1 * d < n * m.2.2 then (b, n, d) else m
    | none => m) (0, 0, 1)

/-- The largest ratio at a stroke event, and SLOW_REQ, which stays inactive in SAFE. A SLOW_PCT outside 50-100 is used as written (R98;
log entry 61). -/
def Core.slowCheck (c : Core) : Core :=
  let (b, n, d) := c.maxRatio
  let pct := c.f F.FIRE_CTRL_SLOW_PCT
  let ratio := min 255 (n * 100 / d)
  let low := decide (n * 100 < (pct - c.f F.FIRE_CTRL_SLOW_HYST) * d)
  let c := { c with web := { c.web with slowLow := if low then some (c.web.slowLow.getD c.now) else none } }
  let c := (c.setF F.FIRE_SLOW_STAT_BAR b).setF F.FIRE_SLOW_STAT_RATIO ratio
  if pct * d ≤ n * 100 ∧ ¬ c.fb F.FIRE_SLOW_STAT_SLOW_REQ ∧ c.st ≠ stSafe then
    (c.setB F.FIRE_SLOW_STAT_SLOW_REQ true).post 0x0201 31 (b * 65536 + ratio)
  else c

/-! ### The strobe watchdog (R100-R103) -/

/-- The watchdogs run (R103). -/
def Core.wdRuns (c : Core) : Bool :=
  c.fb F.FIRE_CTRL_WD_EN || c.st == stArmed || c.running || c.replay

/-- The limit of a bar's watchdog in 1.25 ns units, clamped (R100). -/
def Core.wdLimit (c : Core) (b : Nat) : Nat := max 25 (min 500 (c.f (F.FIRE_WD_LIMIT b))) * 32

/-- A watchdog acts. In test firing no job's line is affected: record 0x0204 names none and carries WEB_POS (log entry 46). -/
def Core.wdTrip (c : Core) (b : Nat) : Core :=
  let u := c.bar b
  let c := (c.setBar b { u with active := false, genStuck := true }).setB (F.FIRE_STATUS_WD_TRIPPED b) true
  let c := c.decision 7 5 b
  let c := if c.job.tof then c.defectLines 0x0204 b u.curLine u.curLine
    else c.defect 0x0204 b noLine c.webPos 0xFFFFFFFF
  match c.test with
  | some t => if bit t.bars b then c.testStop else c
  | none => c

/-- One bar's latch cleared, where its strobe generator is inactive (R101, R102). -/
def Core.wdClearBar (c : Core) (b : Nat) : Core :=
  let u := c.bar b
  if c.latched b ∧ ¬ u.genStuck then
    let c := (c.setB (F.FIRE_STATUS_WD_TRIPPED b) false).setBar b { u with blocked := none, blockedCnt := 0 }
    let c := c.post 0x0206 b u.blockedCnt
    match u.blocked with
    | some (l0, s0, s1) => c.defect 0x0205 b l0 (c.strokeSpan s0 s1).1 (c.strokeSpan s0 s1).2
    | none => c
  else c

/-- The latches of the bars of a mask cleared; the bars still latched. -/
def Core.wdClear (c : Core) (mask : Nat) : Core × Nat :=
  let c := c.each 16 fun b c => if bit mask b then c.wdClearBar b else c
  (c, (List.range 16).foldl (fun m b => if bit mask b && c.latched b then m + 2 ^ b else m) 0)

/-! ### The commands -/

/-- FIRE_EDGE: the instant predicted for the bar's oldest pending line has come (R79, R81). -/
def execFireEdge (b : Fin 16) (s : State) : Host.Outcome State Fault Refusal :=
  let c := s.core
  let c := match (c.bar b).pend with
    | p :: _ => (match p.pred with
      | some t => if t ≤ c.now then c.edgeDue b p else c
      | none => c)
    | [] => c
  .next { s with core := c }

/-- FIRE_PULSE_END: after FIRE_WIDTH the output returns inactive, unless the generator holds it (R85, R100). -/
def execFirePulseEnd (b : Fin 16) (genStuck : Bool) (s : State) : Host.Outcome State Fault Refusal :=
  let c := s.core
  let u := c.bar b
  let c := if u.active then
      if u.lastEdge.getD 0 + u.width ≤ c.now then
        c.setBar b { u with active := genStuck, genStuck := genStuck }
      else c
    else if c.latched b then c.setBar b { u with genStuck := genStuck }
    else c
  .next { s with core := c }

/-- SLOW_REQ_OFF: the largest ratio below SLOW_PCT - SLOW_HYST for 1 ms (R98). -/
def execSlowReqOff (s : State) : Host.Outcome State Fault Refusal :=
  let c := s.core
  let due := c.fb F.FIRE_SLOW_STAT_SLOW_REQ && (match c.web.slowLow with
    | some t => decide (t + msec ≤ c.now)
    | none => false)
  .next { s with core := if due then (c.setB F.FIRE_SLOW_STAT_SLOW_REQ false).post 0x0202 31 0 else c }

/-- WD_TRIP: a FIRE output active for FIRE_WD.LIMIT x 40 ns (R100). -/
def execWdTrip (b : Fin 16) (s : State) : Host.Outcome State Fault Refusal :=
  let c := s.core
  let u := c.bar b
  .next { s with core := if u.active && c.wdRuns && u.activeSince + c.wdLimit b ≤ c.now then c.wdTrip b else c }

/-- WD_CLEAR_WRITE: a write of FIRE_WD_CLEAR (R102). -/
def execWdClearWrite (v : Word) (s : State) : Host.Outcome State Fault Refusal :=
  .next { s with core := s.core.hostReg .host0 R.FIRE_WD_CLEAR v fun c => (c.wdClear v.toNat).1 }

end Sys2Proof.Machine
end

