-- ==== Sys2Proof/Machine/Operands.lean ====
section
/-!
DEFINITION. The operands of a host command: the parameter bytes of its packet read at their offsets, and the order in
which its checks are applied (spec/13_host_and_command_protocol.md R355, spec/14_command_reference.md R378).
-/

namespace Sys2Proof.Machine

/-- A command's parameters and identity: the bridge is queue 255 (spec/15_lh460_compatibility.md). -/
structure CmdIn where
  sq : Nat
  seq : Nat
  flags : Nat
  par : List Byte
  hostFail : Bool := false

def CmdIn.u8 (q : CmdIn) (p : Nat) : Nat := le q.par p 1
def CmdIn.u16 (q : CmdIn) (p : Nat) : Nat := le q.par p 2
def CmdIn.u32 (q : CmdIn) (p : Nat) : Nat := le q.par p 4
def CmdIn.u64 (q : CmdIn) (p : Nat) : Nat := le q.par p 8
/-- FLAGS.STRICT (R126). -/
def CmdIn.strict (q : CmdIn) : Bool := bit q.flags 1

/-- The first check that applies gives the status (R378). -/
def checks (l : List (Bool × Nat)) : Option Nat := (l.find? (·.1)).map (·.2)

end Sys2Proof.Machine
end

