-- ==== Sys2Proof/Machine/HostIf.lean ====
section
/-!
DEFINITION. The host interface (spec/13_host_and_command_protocol.md) but for its replies (Replies.lean): doorbells,
interrupts, the header checks and the state table of commands, and how a command is taken.
-/

namespace Sys2Proof.Machine

/-! ### Commands as taken (R355-R366) -/

/-- What a command's own rule gives: the core, and the status and RESULT bytes of its reply; none where the reply
waits (R399). -/
abbrev CmdOut := Core × Option (Nat × List Byte)

/-- A command refused by its checks, else run. -/
def Core.judge (c : Core) (l : List (Bool × Nat)) (run : Core → CmdOut) : CmdOut :=
  match checks l with
  | some st => (c, some (st, []))
  | none => run c

/-- The reply DONE without a result. -/
def done (c : Core) : CmdOut := (c, some (rDone, []))
def accepted (c : Core) : CmdOut := (c, some (rAccepted, []))

/-- The opcodes with their PLEN and the states in which they are legal, a bit a state code (R382 to R400). -/
def opTable : List (Nat × Nat × Nat) :=
  let all := 0x1FE
  let cfg := 0x07E
  let idle := 0x002
  [(0x00, 8, all), (0x01, 0, all), (0x02, 4, 0x1C6), (0x03, 0, 0x100), (0x04, 16, 0x17E), (0x05, 0, cfg),
   (0x10, 8, cfg), (0x11, 16, cfg), (0x12, 0, cfg), (0x20, 4, idle), (0x21, 0, 0x004), (0x22, 48, cfg), (0x23, 2, cfg),
   (0x24, 2, 0x17E), (0x25, 20, 0x03C), (0x30, 12, cfg), (0x31, 16, 0x004), (0x32, 0, 0x008), (0x33, 0, 0x008),
   (0x34, 0, 0x038), (0x40, 12, 0x046), (0x41, 0, idle), (0x42, 0, 0x040), (0x43, 16, 0x040), (0x44, 12, 0x040),
   (0x45, 0, 0x040), (0x46, 4, cfg), (0x47, 2, cfg), (0x48, 2, all), (0x49, 2, cfg)] ++
  [(0x50, 4, cfg), (0x51, 4, cfg), (0x60, 16, cfg), (0x61, 2, cfg), (0x62, 6, cfg), (0x63, 16, cfg), (0x64, 16, cfg),
   (0x70, 0, idle), (0x71, 2, cfg), (0x72, 16, all), (0x73, 2, all), (0x74, 2, all), (0x75, 16, cfg),
   (0x80, 8, 0x146), (0x81, 4, 0x146), (0x90, 8, 0x17E), (0x91, 24, 0x17E), (0x92, 16, idle), (0x93, 0, 0x080),
   (0x94, 4, 0x17E), (0xA0, 4, 0x17E), (0xA1, 0, cfg), (0xA2, 8, 0x17E), (0xB0, 4, idle), (0xB1, 0, idle),
   (0xF0, 12, idle), (0xF1, 0, idle), (0xF2, 0, 0x106)]

/-- The length and the states of an opcode. -/
def opRow (op : Nat) : Option (Nat × Nat) := (opTable.find? (fun r => r.1 = op)).map (·.2)

/-- The state of the device lets an opcode run (spec/14_command_reference.md R382). -/
def Core.opLegal (c : Core) (op : Nat) : Bool :=
  match opRow op with
  | some (_, states) => bit states c.st
  | none => false

/-- A cox takes commands: not in BOOT (R381), not while the token moves (R364), not once the last cox is lost (R488),
and not while a command waits for its answer or the reply of one with BARRIER is held (R361). -/
def Core.coxRuns (c : Core) : Bool :=
  c.st != stBoot && !c.fb F.COX_EPOCH_SWITCHING && !(c.st == stSafe && c.f F.UMP_STAT_SAFE_CAUSE == 3) &&
    c.hi.waiting.isNone && c.hi.barrier.isNone

/-- Every command has replied but for its mark: no queue holds a reply back (R359, R361). -/
def Core.allReplied (c : Core) : Bool := (List.range 8).all fun m => !c.fb (F.CQ_CFG_EN m) || (c.cq m).held.all fun e => isMark e.1

/-- A command with these FLAGS may start: the cox runs, and with BARRIER every command before it has replied (R361). -/
def Core.mayStart (c : Core) (flags : Nat) : Bool := c.coxRuns && (!bit flags 0 || c.allReplied)

/-- The header and state checks in the order of R363. -/
def Core.header (c : Core) (op : Nat) (p : Packet) : Option Nat :=
  let ep := c.f F.COX_EPOCH_EPOCH
  let fresh := p.epoch.toNat == ep || ((p.epoch.toNat + 1) % 256 == ep && decide (0 < (c.sq p.sq).oldLeft))
  match opRow op with
  | none => some (if fresh then rBadOpcode else rStaleEpoch)
  | some (len, states) =>
    checks [(!fresh, rStaleEpoch), (p.flags.toNat / 8 != 0 || p.rsv != 0 || p.plen.toNat != len, rBadParam),
      (!bit states c.devState, rNotNow)]

/-- The packet bytes (R355). -/
def packetBytes (op : Nat) (p : Packet) : List Byte :=
  leBytes 1 op ++ leBytes 1 p.flags.toNat ++ leBytes 2 p.seq.toNat ++ leBytes 1 p.epoch.toNat ++
    leBytes 1 p.plen.toNat ++ leBytes 2 p.rsv.toNat ++ (p.par ++ List.replicate 56 0).take 56

/-- SEQ against the previous of the queue (R362), and the head past the packet. -/
def Core.takeHead (c : Core) (p : Packet) : Core :=
  let n := p.sq.val
  let u := c.sq n
  let want := (c.f (F.SQ_LAST_SEQ_SEQ n) + 1) % 65536
  let c := if u.seqValid ∧ p.seq.toNat ≠ want then
      (c.inc R.HI_SEQ_GAP_CNT).post 0x0A06 31 (n * 2 ^ 29 + want % 2 ^ 13 * 65536 + p.seq.toNat)
    else c
  let c := c.setF (F.SQ_LAST_SEQ_SEQ n) p.seq.toNat
  let c := c.setSq n { c.sq n with seqValid := true, oldLeft := u.oldLeft - 1 }
  c.setF (F.SQ_HEAD_HEAD n) ((c.f (F.SQ_HEAD_HEAD n) + 1) % c.sqSize n)

/-- What the legacy bridge keeps to itself while it owns the job (spec/15_lh460_compatibility.md R423). -/
def Core.bridgeBusy (c : Core) (op : Nat) (par : List Byte) : Bool :=
  c.fb F.LG_STAT_OWNER && ([0x20, 0x21, 0x31, 0x32, 0x33, 0x34].contains op ||
    (op == 0x25 && decide (le par 0 1 < 8) && c.fb (F.LG_LP_MAP_EN (le par 0 1))) ||
    (op == 0x24 && (List.range 8).any fun n => c.fb (F.LG_LP_MAP_EN n) && (List.range (c.f F.LG_CFG_POOL + 1)).any fun q =>
      c.lpId n q == le par 0 2))

/-- The core once a packet is taken: the queue's head and SEQ, the count of commands, the CMD record and the journal's entry (R362,
R366). -/
def Core.taken (c : Core) (op : Nat) (p : Packet) : Core :=
  let d := (c.takeHead p).perf (192 + p.sq.val)
  (d.logRec 5 (leBytes 1 p.sq.val ++ leBytes 1 (d.f F.COX_EPOCH_EPOCH) ++ packetBytes op p)).begun op p.sq.val p.seq.toNat

/-- A packet as its command's rule reads it. -/
def packetInput (p : Packet) : CmdIn := { sq := p.sq.val, seq := p.seq.toNat, flags := p.flags.toNat, par := p.par, hostFail := p.hostFail }

/-- The status that refuses a packet before its command's own rule, if any (R363; BUSY by R423). -/
def Core.refusal (c : Core) (op : Nat) (p : Packet) : Option Nat :=
  match c.header op p with
  | some st => some st
  | none => if (c.taken op p).bridgeBusy op p.par then some rBusy else none

/-- The reply to a command that its rule has carried out, or the wait for what answers it. -/
def Core.reply (op : Nat) (p : Packet) : CmdOut → Core
  | (c, some (st, res)) => c.answer op p.sq.val p.seq.toNat p.flags.toNat st res
  | (c, none) => { c with hi := { c.hi with waiting := some (op, p.sq.val, p.seq.toNat, p.flags.toNat) } }

/-- A command taken by the cox: header checks, its own rule, its reply. One that may not start yet waits at its queue's head. -/
def Core.command (c : Core) (op : Nat) (p : Packet) (rule : Core → CmdIn → CmdOut) : Core :=
  if c.mayStart p.flags.toNat then
    match c.refusal op p with
    | some st => Core.reply op p (c.taken op p, some (st, []))
    | none => Core.reply op p (rule (c.taken op p) (packetInput p))
  else c

/-- The work of an ACCEPTED command begun under its queue and SEQ. -/
def Core.start (c : Core) (op : Nat) (q : CmdIn) (a : Nat := 0) (b : Nat := 0) (d : Nat := 0) : Core :=
  c.asyncStart { op := op, sq := q.sq, seq := q.seq, a := a, b := b, c := d }

/-! ### Doorbells and queue settings (R354, R358) -/

/-- A doorbell ignored (R358). -/
def Core.dbErr (c : Core) (src v : Nat) : Core := (c.inc R.HI_DB_ERR_CNT).post 0x0A03 src v

/-- A write of SQn_TAIL. -/
def Core.sqTail (c : Core) (n v : Nat) : Core :=
  let c := c.perf 206
  let t := v % 4096
  if t < c.sqSize n then c.setSq n { c.sq n with tail := t } else c.dbErr n v

/-- SQ_DOORBELL. -/
def execSqDoorbell (n : Fin 8) (v : Word) (s : State) : Host.Outcome State Fault Refusal :=
  .next { s with core := s.core.hostReg .host0 (R.SQ_TAIL n) v fun c => c.sqTail n v.toNat }

/-- A write of CQm_HEAD: the slots before the new head are free, and held replies follow (R358, R359). -/
def Core.cqHead (c : Core) (m v : Nat) : Core :=
  let c := c.perf 206
  let h := v % 4096
  let size := c.cqSize m
  let u := c.cq m
  let adv := (h + size - u.head % size) % size
  if h < size ∧ adv ≤ u.used then
    let c := c.setCq m { u with head := h, used := u.used - adv }
    Core.cqFlush (u.held.length + 1) c m
  else c.dbErr (8 + m) v

/-- CQ_DOORBELL. -/
def execCqDoorbell (m : Fin 8) (v : Word) (s : State) : Host.Outcome State Fault Refusal :=
  .next { s with core := s.core.hostReg .host0 (R.CQ_HEAD m) v fun c => c.cqHead m v.toNat }

/-- A write of EV_HEAD: records before the new head are free; when space returns 0x0A05 reports the drops (R373). -/
def Core.evHeadWr (c : Core) (v : Nat) : Core :=
  let c := c.perf 206
  let h := v % 65536
  let size := max 1 (c.f F.EV_SIZE_ENTRIES)
  if h < size then
    let used := if h = c.hi.evHead then c.hi.evUsed else (c.f F.EV_TAIL_TAIL + size - h) % size
    let c := { c with hi := { c.hi with evHead := h, evUsed := used } }
    let d := c.hi.evDropped
    if d ≠ 0 ∧ used < size ∧ c.fb F.EV_CFG_EN then
      { c with hi := { c.hi with evDropped := 0 } }.post 0x0A05 31 d
    else c
  else c.dbErr 16 v

/-- EV_HEAD_WRITE. -/
def execEvHeadWrite (v : Word) (s : State) : Host.Outcome State Fault Refusal :=
  .next { s with core := s.core.hostReg .host0 R.EV_HEAD v fun c => c.evHeadWr v.toNat }

/-- A write of SQn_CFG (R354). -/
def Core.sqCfg (c : Core) (n : Nat) (v : Nat) : Core :=
  let on := bit v 0
  if c.fb (F.SQ_CFG_EN n) then
    if on then c else c.setB (F.SQ_CFG_EN n) false
  else
    let c := (c.setF (F.SQ_CFG_SIZE_M1 n) (bits v 1 12)).setF (F.SQ_CFG_CQ n) (bits v 13 3)
    if on then
      if c.fb (F.CQ_CFG_EN (bits v 13 3)) then
        ((c.setB (F.SQ_CFG_EN n) true).setF (F.SQ_HEAD_HEAD n) 0).setSq n {}
      else c.dbErr n v
    else c

/-- SQ_CFG_WRITE. -/
def execSqCfgWrite (n : Fin 8) (v : Word) (s : State) : Host.Outcome State Fault Refusal :=
  .next { s with core := s.core.hostReg .host0 (R.SQ_CFG n) v fun c => c.sqCfg n v.toNat }

/-- A write of CQm_CFG (R354): BASE, SIZE_M1 keep while EN is set; EN of a queue with enabled SQs stays. -/
def Core.cqCfg (c : Core) (m : Nat) (v : Nat) : Core :=
  let on := bit v 0
  let was := c.fb (F.CQ_CFG_EN m)
  let c := if was then c else c.setF (F.CQ_CFG_SIZE_M1 m) (bits v 1 12)
  let c := ((c.setF (F.CQ_CFG_VEC m) (bits v 13 6)).setF (F.CQ_CFG_IRQ_EN m) (bits v 19 1)).setF (F.CQ_CFG_COUNT m) (bits v 20 8)
  if on && !was then
    (((c.setB (F.CQ_CFG_EN m) true).setF (F.CQ_TAIL_TAIL m) 0).setF (F.CQ_TAIL_PHASE m) 1).setCq m {}
  else if !on && was && !((List.range 8).any fun n => c.fb (F.SQ_CFG_EN n) && c.f (F.SQ_CFG_CQ n) == m) then
    (c.setB (F.CQ_CFG_EN m) false).barrierPast m
  else c

/-- CQ_CFG_WRITE. -/
def execCqCfgWrite (m : Fin 8) (v : Word) (s : State) : Host.Outcome State Fault Refusal :=
  .next { s with core := s.core.hostReg .host0 (R.CQ_CFG m) v fun c => c.cqCfg m v.toNat }

/-! ### 64-bit writes (spec/21_register_map.md R550) -/

/-- The number of a requester's window. -/
def winIx : Win → Nat
  | .host0 => 0
  | .host2 => 1
  | .cox => 2

/-- The low word for a write of a high word: as staged in the window, or the register's own (spec/21_register_map.md
R550). -/
def Core.lowOf (c : Core) (w : Win) (lo : Nat) : Word :=
  let e := Tab.get (fun _ => (0, 0)) c.hi.wrStage (winIx w)
  if e.1 = lo then e.2 else c.r lo

/-- A stage used up. -/
def Core.stageUsed (c : Core) (w : Win) (lo : Nat) : Core :=
  let e := Tab.get (fun _ => (0, 0)) c.hi.wrStage (winIx w)
  if e.1 = lo then { c with hi := { c.hi with wrStage := Tab.set (fun _ => (0, 0)) c.hi.wrStage (winIx w) (0, 0) } } else c

/-! ### Interrupt timers and errors (R352, R374) -/

/-- IRQ_TIMER: IRQ_TIME after the first unsignalled entry the source fires; source 8 is the event ring. -/
def execIrqTimer (src : Fin 9) (s : State) : Host.Outcome State Fault Refusal :=
  let c := s.core
  let m := src.val
  let r :=
    if m < 8 then
      let u := c.cq m
      if c.fb (F.CQ_CFG_IRQ_EN m) && decide (u.unsig ≠ 0) && decide (u.firstUnsig + c.f (F.CQ_IRQ_TIME_US m) * usec ≤ c.now) then
        (c.setCq m { u with unsig := 0 }).fireVec (c.f (F.CQ_CFG_VEC m))
      else c
    else if c.fb F.EV_CFG_IRQ_EN && decide (c.hi.evUnsig ≠ 0) &&
        decide (c.hi.evFirst + c.f F.EV_IRQ_TIME_US * usec ≤ c.now) then
      { c with hi := { c.hi with evUnsig := 0 } }.fireVec (c.f F.EV_CFG_VEC)
    else c
  .next { s with core := r }

/-- PCIE_POISONED_WRITE: discarded, reported through AER and counted by its class, uncorrectable (R352). -/
def execPciePoisonedWrite (s : State) : Host.Outcome State Fault Refusal :=
  .next { s with core := s.core.inc R.HI_PCIE_UE_CNT }

end Sys2Proof.Machine
end

