-- ==== Sys2Proof/Machine/Cox.lean ====
section
/-!
DEFINITION. Nib work and faults, the cox switch-over, standby tests, the umpire's own checks, returns to service and
the hitless firmware update (spec/18_fault_tolerance.md, spec/07_run_ahead_pipeline.md R187-R208).
-/

namespace Sys2Proof.Machine

/-! ### Cox switch-over (R364-R366, R482-R485) -/

/-- The active cox: 0 COX-A, 1 COX-B. -/
def Core.activeCox (c : Core) : Nat := c.f F.UMP_STAT_ACTIVE_COX

/-- The token revoked: the epoch advances, every enabled queue gets its mark, and event 0x0A02 follows (R364). Replies that the old
cox still held are not before the mark: the journal has them (R366). -/
def Core.revoke (c : Core) (mech : Nat) (planned : Bool) : Core :=
  let old := c.activeCox
  let new := 1 - old
  let ep := (c.f F.COX_EPOCH_EPOCH + 1) % 256
  let c := c.decision mech 1 old
  let c := ((c.setF F.COX_EPOCH_EPOCH ep).setF F.COX_EPOCH_ACTIVE new).setB F.COX_EPOCH_SWITCHING true
  let c := c.setF F.UMP_STAT_ACTIVE_COX new
  let c := if planned then c else c.setB F.UMP_STAT_STBY_READY false
  let c := c.each 8 fun n c =>
    if c.fb (F.SQ_CFG_EN n) then
      let u := c.sq n
      let size := c.sqSize n
      (c.setF (F.SQ_MARK_TAIL n) u.tail).setSq n { u with oldLeft := (u.tail + size - c.f (F.SQ_HEAD_HEAD n)) % size }
    else c
  let c := c.each 8 fun m c =>
    let c := c.setCq m { c.cq m with held := (c.cq m).held.filter fun e => isMark e.1 }
    if c.fb (F.CQ_CFG_EN m) then c.cqPost m (replyBytes 0 16 rDone (leBytes 1 ep) ep 0 0) false else c
  let c := c.post 0x0A02 31 (new * 256 + ep)
  let c := c.post 0x0D06 31 (b2n planned * 256 + mech)
  { c with ump := { c.ump with drain := if planned then none else some mech, planned := planned } }

/-- The active cox fails (R483): switch-over, or SAFE with cause 3 when no standby is ready; in SAFE of another cause that becomes the
cause, for no cox runs from then on (R488; log entry 70). A firmware update stops (R492). -/
def Core.coxFail (c : Core) (mech : Nat) : Core :=
  if c.st = stBoot then c
  else
    let c := c.fwAbort
    if c.fb F.UMP_STAT_STBY_READY then c.revoke mech false
    else
      let n := c.activeCox
      let c := c.setF F.UMP_ISOL_COX_COX (setBits (c.f F.UMP_ISOL_COX_COX) n 1 1)
      let c := c.isolated mech 1 n
      if c.st = stSafe then (c.setF F.UMP_STAT_SAFE_CAUSE 3).failWaiting 3 else c.enterSafe 3

/-- The old cox's writes have drained: its switch opens (R483). -/
def Core.coxDrained (c : Core) : Core :=
  match c.ump.drain with
  | some mech =>
    let old := 1 - c.activeCox
    let c := { c with ump := { c.ump with drain := none } }
    let c := c.setF F.UMP_ISOL_COX_COX (setBits (c.f F.UMP_ISOL_COX_COX) old 1 1)
    (c.inc R.UMP_DECISION_CNT).post 0x0D01 31 (mech * 65536 + 256 + old)
  | none => c

/-- A command begun and not effected is executed from the start (R366): its packet is the next of its queue again, under the epoch it
has, and what it asked of the crew is withdrawn. -/
def Core.redo (c : Core) (j : JEntry) : Core :=
  let n := j.sq
  let size := c.sqSize n
  let c := c.setF (F.SQ_HEAD_HEAD n) ((c.f (F.SQ_HEAD_HEAD n) + size - 1) % size)
  let c := c.setF (F.SQ_LAST_SEQ_SEQ n) ((j.seq + 65535) % 65536)
  let c := c.setSq n { c.sq n with oldLeft := (c.sq n).oldLeft + 1 }
  { c with hi := { c.hi with waiting := none } }.withdrawHost

/-- The journal applied by the new cox (R366): the reply of an effected command that its queue had not got before the mark is posted
with REPLAYED and the new epoch, and a command not effected is executed again. -/
def Core.journalApply (c : Core) : Core :=
  let ep := c.f F.COX_EPOCH_EPOCH
  let todo := c.hi.journal.filter fun j => j.effected && !j.posted
  let c := c.eachOf todo fun j c =>
    let e := j.reply.take 2 ++ [BitVec.ofNat 8 (j.sq + 8)] ++ slice j.reply 3 9 ++ leBytes 1 ep ++ j.reply.drop 13
    c.cqPost (c.f (F.SQ_CFG_CQ j.sq)) e j.noIrq
  let c := match c.hi.barrier with
    | some m => if (c.cq m).held = [] then c.barrierPast m else c
    | none => c
  let c := c.eachOf (c.hi.journal.filter fun j => !j.effected) fun j c => c.redo j
  { c with hi := { c.hi with journal := (c.hi.journal.filter fun j => j.effected).map fun j => { j with posted := true } } }

/-- The running image and its digest copied to the device area, from PA M - 64 MiB (spec/20_power_clocks_boot.md R539); the layout is the
model's (log entry 74). -/
def Core.areaImage (c : Core) : Core :=
  if c.ump.nibImage ∧ c.pwr.image ≠ [] then
    let a := c.mirTop - 2 ^ 26
    (c.byCox.put a c.pwr.image).put (a + 2 ^ 24) (sha256 c.pwr.image)
  else c

/-- The staged image kept in the device area (R539). -/
def Core.areaStaged (c : Core) : Core :=
  if c.ump.nibImage then c.byCox.put (c.mirTop - 2 ^ 26 + 2 ^ 25) c.ump.fw.image else c

/-- A firmware update ends once the cox runs the new image (R491). -/
def Core.fwFinish (c : Core) : Core :=
  if c.f F.UMP_FW_STAT_STATE = 2 then
    let n := c.activeCox
    let c := (c.setF F.UMP_FW_STAT_STEP (c.f F.UMP_FW_STAT_STEP + 1)).post 0x0D0D 31 (256 + n)
    let c := (c.setF F.UMP_FW_STAT_STEP (c.f F.UMP_FW_STAT_STEP + 1)).post 0x0D0D 31 (256 + (1 - n))
    let c := c.setF F.UMP_FW_STAT_STATE 3
    let c := match c.ump.fw.staged with
      | some (v, out) =>
        let c := ((c.setN R.DEV_COX_VER v).setN R.DEV_NIB_VER v).setN R.DEV_NIB_OUT out
        { c with pwr := { c.pwr with image := c.ump.fw.image } }.areaImage
      | none => c
    match c.asyncOf 0x05 with
    | some a => c.asyncEnd a rDone
    | none => c
  else c

/-- The new cox runs (R366, R483, R484). -/
def Core.coxResume (c : Core) : Core :=
  if c.fb F.COX_EPOCH_SWITCHING ∧ c.ump.drain = none then
    let c := (c.setB F.COX_EPOCH_SWITCHING false).journalApply
    let c := { c with ump := { c.ump with ckptAt := c.now } }
    (if c.ump.planned then c.fwFinish else c).health
  else c

/-- A checkpoint (R482): the journal before it is no longer needed, but for a command that is begun and a reply that its queue has
not got. It goes to the device area of R539. -/
def Core.checkpoint (c : Core) : Core :=
  { c with ump := { c.ump with ckptAt := c.now }
           hi := { c.hi with journal := c.hi.journal.filter fun j => !j.effected || !j.posted } }

/-- COX_SWITCH (R399): BUSY when the standby is not ready, or under a self-test (R379). -/
def Core.cmdCoxSwitch (c : Core) (q : CmdIn) : CmdOut :=
  c.judge [(!c.fb F.UMP_STAT_STBY_READY || (c.asyncOf 0xA1).isSome || c.f F.UMP_FW_STAT_STATE == 2 ||
      c.selfTesting 1 (1 - c.activeCox) 0, rBusy)] fun c =>
    accepted (c.start 0xA1 q)

/-- The standby of the planned switch-over has booted and loaded a fresh checkpoint (R484). -/
def Core.plannedSwitch (c : Core) : Core :=
  let due := ((c.asyncOf 0xA1).isSome || (c.f F.UMP_FW_STAT_STATE == 2 && (c.asyncOf 0x05).isSome)) &&
    c.fb F.UMP_STAT_STBY_READY && !c.fb F.COX_EPOCH_SWITCHING && c.hi.waiting.isNone
  if due then
    let c := match c.asyncOf 0xA1 with
      | some a => c.asyncDrop a
      | none => c
    c.checkpoint.revoke 12 true
  else c

/-! ### Firmware (R384, R491, R492) -/

/-- The bytes that commands, DMA and the aperture may reach: below C - M and outside the device area (R324, R539). -/
def Core.mayReach (c : Core) (pa n : Nat) : Bool :=
  let m := c.mirTop
  decide (pa + n ≤ c.dramTop) && !(c.ump.nibImage && decide (pa < m) && decide (m < pa + n + 2 ^ 26))

/-- The first address of a range that a reader or writer may not use: in the device's own part of the mirrored region or at C - M
(spec/12_memory.md R324, spec/20_power_clocks_boot.md R539). -/
def Core.overAt (c : Core) (pa n : Nat) : Nat :=
  let m := c.mirTop
  if c.ump.nibImage ∧ pa < m ∧ m < pa + n + 2 ^ 26 then max pa (m - 2 ^ 26) else max pa c.dramTop

/-- A read that brings poison, delivered and counted. -/
def Core.readBad (c : Core) (pa n : Nat) : Core :=
  if c.mayReach pa n then
    let bad := (bursts pa n).find? fun b => c.dramTop < b + 64 || c.isPoison (b / 64)
    c.deliverBad (bad.getD pa)
  else c.decodePoison (c.overAt pa n)

/-- Bytes read for a requester; poison is delivered and counted. -/
def Core.fetch (c : Core) (pa n : Nat) : Core × Option (List Byte) :=
  if c.mayReach pa n then
    match c.rd pa n with
    | some l => (c.touch pa n false, some l)
    | none => ((c.touch pa n false).readBad pa n, none)
  else (c.readBad pa n, none)

/-- FW_STAGE (R383, R384). -/
def Core.cmdFwStage (c : Core) (q : CmdIn) : CmdOut :=
  let a := q.u64 0
  let len := q.u32 8
  c.judge [((c.asyncOf 0x04).isSome || (c.asyncOf 0x05).isSome, rBusy), (le q.par 13 3 != 0, rBadParam),
    (decide (2 < q.u8 12) || decide (2 ^ 24 < len) , rRange),
    (a % 64 != 0 || len % 64 != 0, rAlign)] fun c => accepted (c.start 0x04 q a len (q.u8 12))

/-- The image read, checked under R536, and staged or written (R384): its header gives VERSION and the output version. Poison, counted as
delivered (spec/12_memory.md R333), ends it with HW_FAULT, as its end event's statuses have it; a flash write that fails leaves the image
that it was writing unbootable (log entry 74). -/
def Core.fwStageDone (c : Core) (sigOk hwOk : Bool) : Core :=
  match c.asyncOf 0x04 with
  | none => c
  | some a =>
    match (c.byReq (50 + c.activeCox)).fetch a.a a.b with
    | (c, none) => c.asyncEnd a rHwFault
    | (c, some h) =>
      if !c.imagePasses h sigOk then c.asyncEnd a rAuthFail
      else if !hwOk then (c.flashTorn a).asyncEnd a rHwFault
      else
        let c := if a.c = 0 then (c.setFw { c.ump.fw with staged := some (le h 4 4, le h 8 4), image := h }).areaStaged
          else c.flashStage (a.c - 1) h
        c.asyncEnd a rDone

/-- FW_ACTIVATE (R384, R492). -/
def Core.cmdFwActivate (c : Core) (q : CmdIn) : CmdOut :=
  let inJob := c.st == stArmed || c.running
  let differs := match c.ump.fw.staged with
    | some (_, out) => out != c.n R.DEV_NIB_OUT
    | none => false
  c.judge [(c.f F.NIB_STAT_SPARES == 0 || !c.fb F.UMP_STAT_STBY_READY || (c.asyncOf 0x05).isSome || (inJob && differs) ||
      c.fb F.COX_EPOCH_SWITCHING || (c.asyncOf 0x04).isSome || c.selfTesting 1 (1 - c.activeCox) 0 ||
      (List.range 18).all (fun n => c.nibState n != 0 || c.selfTesting 0 n 0), rBusy),
    (c.ump.fw.staged.isNone, rBadParam)] fun c =>
    let c := (c.setF F.UMP_FW_STAT_STATE 1).setF F.UMP_FW_STAT_STEP 0
    accepted ({ c with ump := { c.ump with fwTodo := c.activeNibs, fwDone := [] } }.start 0x05 q)

/-- One nib step of the update (R491): the lowest spare holds the new image, and takes the slice of the next active nib at a stroke event,
while no job prints at once (log entry 70). After the last, the spares not updated are loaded. -/
def Core.fwNibStep (c : Core) : Core :=
  if c.f F.UMP_FW_STAT_STATE = 1 then
    match c.ump.fwTodo, c.ump.fwHand with
    | _, some _ => if c.printing then c else c.fwHandover
    | n :: _, none =>
      (match (List.range 18).find? (fun m => c.nibState m = 0) with
      | none => c.fwAbort
      | some m =>
        let c := { c with ump := { c.ump with fwHand := some (n, m) } }
        if c.printing then c else c.fwHandover)
    | [], none =>
      let left := (List.range 18).filter fun m => c.nibState m = 0 && !c.ump.fwDone.contains m
      let c := c.eachOf left fun m c =>
        let did := m :: c.ump.fwDone
        ({ c with ump := { c.ump with fwDone := did } }.setF F.UMP_FW_STAT_STEP did.length).post 0x0D0D 31 m
      c.setF F.UMP_FW_STAT_STATE 2
  else c

/-! ### Returns to service (R489) -/

/-- SWITCH_BACK of a nib or a cox whose switch is open: the spare start of R480 shows in a nib's STATE. -/
def Core.returnUnit (c : Core) (cls idx : Nat) : Core :=
  let c := if cls = 0 then c.setF (F.NIBN_STAT_STATE idx) 1 else c
  { c with ump := { c.ump with returning := c.ump.returning ++ [(cls, idx)] } }

def Core.isOpenUnit (c : Core) (cls idx : Nat) : Bool :=
  if cls = 0 then bit (c.f F.UMP_ISOL_NIB_NIB) idx else bit (c.f F.UMP_ISOL_COX_COX) idx

/-- A returning unit's test ends (R489), with event 0x0D07; a cox's is that of R482, which posts 0x0D0E. A nib that has been isolated
again meanwhile has not passed. -/
def Core.returnEnd (c : Core) (cls idx : Nat) (ok : Bool) : Core :=
  if c.ump.returning.contains (cls, idx) then
    let c := { c with ump := { c.ump with returning := c.ump.returning.erase (cls, idx) } }
    let ok := ok && (cls != 0 || c.nibState idx == 1)
    let c := if cls = 0 then c else c.post 0x0D0E 31 (b2n (!ok))
    let c := if !ok then (if cls = 0 then c.setF (F.NIBN_STAT_STATE idx) 3 else c)
      else if cls = 0 then
        let c := c.setF F.UMP_ISOL_NIB_NIB (setBits (c.f F.UMP_ISOL_NIB_NIB) idx 1 0)
        (((c.setF (F.NIBN_STAT_STATE idx) 0).setF (F.NIBN_STAT_SLICE idx) 31).setNib idx { work := (c.nib idx).work }).spareSync
      else
        let c := c.setF F.UMP_ISOL_COX_COX (setBits (c.f F.UMP_ISOL_COX_COX) idx 1 0)
        if c.ump.nibImage then c.setB F.UMP_STAT_STBY_READY true else c
    (c.post 0x0D07 31 (cls * 256 + (if ok then rDone else rHwFault))).health
  else c

/-- The standby cox isolated after a failed test (R482, R476). -/
def Core.standbyFail (c : Core) : Core :=
  let n := 1 - c.activeCox
  let c := (c.setF F.UMP_ISOL_COX_COX (setBits (c.f F.UMP_ISOL_COX_COX) n 1 1)).setB F.UMP_STAT_STBY_READY false
  ((c.isolated 11 1 n).fwAbort).health

/-! ### Nib work -/

/-- A nib finishes the ink-line under way, an audit's or its own, and takes the next (R188). -/
def Core.inkComplete (c : Core) (n : Nat) (ls : LsErr) (sig : AuditSig) : Core :=
  match (c.nib n).aud, (c.nib n).cur with
  | some t, _ => ((c.auditStep n t sig).nibFill n).inflightSync
  | none, some (s, part, k) => ((c.finishInk n s part k ls).nibFill n).inflightSync
  | none, none => (c.nibFill n).inflightSync

/-- NIB_FAULT. -/
def execNibFault (n : Fin 18) (mech : BitVec 8) (s : State) : Host.Outcome State Fault Refusal :=
  .next { s with core := s.core.isolateNib n mech.toNat }

/-- NIB_HEARTBEAT_MISS: beyond the limit the unit is isolated with MECH 3; index 0 or 1 names a cox. -/
def execNibHeartbeatMiss (cls : Bool) (i : Fin 18) (s : State) : Host.Outcome State Fault Refusal :=
  let c := s.core
  let r := if cls then (if i.val = c.activeCox then c.coxFail 3 else c) else c.isolateNib i 3
  .next { s with core := r }

/-- SPARE_START_DONE. -/
def execSpareStartDone (n : Fin 18) (ok : Bool) (s : State) : Host.Outcome State Fault Refusal :=
  .next { s with core := s.core.spareDone n ok }

/-! ### The commands of the umpire -/

/-- LOCKSTEP_MISMATCH: MECH 2, 3 or 6 on the active cox (R483). -/
def execLockstepMismatch (mech : BitVec 8) (s : State) : Host.Outcome State Fault Refusal :=
  .next { s with core := s.core.coxFail mech.toNat }

/-- COX_DRAINED. -/
def execCoxDrained (s : State) : Host.Outcome State Fault Refusal := .next { s with core := s.core.coxDrained }

/-- COX_RESUME. -/
def execCoxResume (s : State) : Host.Outcome State Fault Refusal := .next { s with core := s.core.coxResume }

/-- CKPT_WRITE: by an active cox, once the device area holds one; 1 ms after the last. -/
def execCkptWrite (s : State) : Host.Outcome State Fault Refusal :=
  let c := s.core
  .next { s with core := if c.ump.nibImage && c.st != stBoot && !c.fb F.COX_EPOCH_SWITCHING && decide (c.ump.ckptAt + msec ≤ c.now) then
    c.checkpoint else c }

/-- STBY_TEST: UMP_CFG.STBY_TEST minutes after the last test (R482). -/
def execStbyTest (ok : Bool) (s : State) : Host.Outcome State Fault Refusal :=
  let c := s.core
  let n := c.f F.UMP_CFG_STBY_TEST
  let r := if n ≠ 0 ∧ c.fb F.UMP_STAT_STBY_READY ∧ ¬ c.fb F.COX_EPOCH_SWITCHING ∧ c.ticks.stby + n * 60 * sec ≤ c.now then
      let c := { c with ticks := { c.ticks with stby := c.now } }.post 0x0D0E 31 (b2n (!ok))
      if ok then c else c.standbyFail
    else c
  .next { s with core := r }

/-- PLANNED_SWITCHOVER. -/
def execPlannedSwitchover (s : State) : Host.Outcome State Fault Refusal :=
  .next { s with core := s.core.plannedSwitch }

/-- UMPIRE_TMR: the first disagreeing lane is masked, a second sends the device to SAFE with cause 6 (R476). -/
def execUmpireTmr (lane : Fin 3) (s : State) : Host.Outcome State Fault Refusal :=
  let c := s.core
  let r := match c.ump.tmr with
    | none => ({ c with ump := { c.ump with tmr := some lane.val } }.setB F.UMP_STAT_TMR_MASKED true).post 0x0D0A 31 lane
    | some m => if m = lane.val then c else c.enterSafe 6
  .next { s with core := r }

/-- UMPIRE_OSC, each 100 µs: a deviation beyond 2 %, in 0.1 %; the monitor asserts FAULT_N and SAFE follows (R476). -/
def execUmpireOsc (dev : BitVec 16) (s : State) : Host.Outcome State Fault Refusal :=
  let c := s.core
  let due := decide (c.ticks.osc ≤ c.now)
  let c := if due then { c with ticks := { c.ticks with osc := nextDue c.ticks.osc (100 * usec) c.now } } else c
  let r := if due && decide (20 < dev.toNat) && !c.fb F.UMP_STAT_OSC_FAULT then
      let c := (c.setB F.UMP_STAT_OSC_FAULT true).post 0x0D0B 31 dev.toNat
      { c with ump := { c.ump with faultN := true } }.enterSafe 6
    else c
  .next { s with core := r }

/-- SWITCH_BACK_END: a returning nib, or (`cox`) COX-A or COX-B. -/
def execSwitchBackEnd (cox : Bool) (i : Fin 18) (ok : Bool) (s : State) : Host.Outcome State Fault Refusal :=
  .next { s with core := s.core.returnEnd (b2n cox) i ok }

/-- FW_STAGE_DONE. -/
def execFwStageDone (sigOk hwOk : Bool) (s : State) : Host.Outcome State Fault Refusal :=
  .next { s with core := s.core.fwStageDone sigOk hwOk }

/-- FW_NIB_STEP. -/
def execFwNibStep (s : State) : Host.Outcome State Fault Refusal := .next { s with core := s.core.fwNibStep }

/-- FW_STAGE. -/
def execFwStage (p : Packet) (s : State) : Host.Outcome State Fault Refusal :=
  .next { s with core := s.core.command 0x04 p Core.cmdFwStage }

/-- FW_ACTIVATE. -/
def execFwActivate (p : Packet) (s : State) : Host.Outcome State Fault Refusal :=
  .next { s with core := s.core.command 0x05 p Core.cmdFwActivate }

/-- COX_SWITCH. -/
def execCoxSwitch (p : Packet) (s : State) : Host.Outcome State Fault Refusal :=
  .next { s with core := s.core.command 0xA1 p Core.cmdCoxSwitch }

end Sys2Proof.Machine
end

