-- ==== Sys2Proof/Machine/Memory.lean ====
section
/-!
DEFINITION. The DDR5 memory subsystem (spec/12_memory.md): the address mapping, ECC, poison and the two copies,
refresh and row activation, retirement and migration, training and loopback.
-/

namespace Sys2Proof.Machine

/-! ### Rank states -/

/-- SPARES, and the bits of UMP_ISOL_RANK for ranks in state 4 (R474). -/
def Core.rankSync (c : Core) : Core :=
  let isol := (List.range 16).foldl (fun m i => if c.rankState i = 4 then m + 2 ^ i else m) 0
  let used := (c.mem.migs ++ c.mem.migQueue).map (·.spare)
  let free := (List.range 16).countP fun i => c.rankState i = 2 && !used.contains i
  let c := ((c.setF F.UMP_ISOL_RANK_RANK isol).setF F.MEM_STAT_SPARES free).setB F.MEM_STAT_MIGRATING (c.mem.migs ≠ [])
  c.health

def Core.setRank (c : Core) (i state : Nat) : Core := c.setF (F.MEMR_STAT_STATE i) state

/-- The free spare of a channel. -/
def Core.freeSpare (c : Core) (ch : Nat) : Option Nat :=
  let used := (c.mem.migs ++ c.mem.migQueue).map (·.spare)
  ((List.range 4).map (fun r => 4 * ch + r)).find? fun i => c.rankState i == 2 && !used.contains i

/-- The pair of a rank's channel: MC0 with MC2, MC1 with MC3. -/
def memPair (i : Nat) : Nat := i / 4 % 2

/-- A rank is retired (R336, R339). -/
def Core.retireRank (c : Core) (i cause : Nat) : Core :=
  if c.rankState i = 1 then
    let c := c.decision 8 2 (i / 4)
    match c.freeSpare (i / 4) with
    | some sp =>
      let c := (c.setRank i 3).setN (R.MEMR_MIG_PTR i) 0
      let m : Mig := { rank := i, spare := sp }
      let busy := c.mem.migs.any fun x => memPair x.rank = memPair i
      let c := { c with mem := if busy then { c.mem with migQueue := c.mem.migQueue ++ [m] }
                                else { c.mem with migs := c.mem.migs ++ [m] } }
      (c.post 0x0905 i cause).rankSync
    | none => ((c.setRank i 5).post 0x0908 i cause).rankSync
  else c

/-! ### Errors (R331-R335) -/

/-- Occurrences counted over a second: the times kept, with `k` new ones. -/
def Core.recentAdd (c : Core) (key k : Nat) : Nat × Core :=
  let l := List.replicate k c.now ++ (Tab.get (fun _ => []) c.mem.recent key).filter fun t => c.now < t + sec
  (l.length, { c with mem := { c.mem with recent := Tab.set (fun _ => []) c.mem.recent key l } })

def Core.recentNote (c : Core) (key : Nat) : Nat × Core := c.recentAdd key 1

/-- An event of the subsystem as a whole, once a second, with the occurrences of the last second. -/
def Core.memEvent (c : Core) (code k : Nat) : Core :=
  let (m, c) := c.recentAdd (code * 16) k
  c.postLim sec code 31 m

def Core.lastErr (c : Core) (i d : Nat) : Core :=
  (c.setN (R.MEMR_LAST_ERR_LO i) d).setF (F.MEMR_LAST_ERR_HI_D i) (d / 2 ^ 32)

/-- The decode address of the other copy of a mirrored burst (R321, R323). -/
def Core.twinD (c : Core) (d : Nat) : Nat :=
  let h := (memHomes c.mem.cfg).getD 2 0
  if bit d h then d - 2 ^ h else d + 2 ^ h

/-- A corrected burst of a rank (R331, R335). -/
def Core.memCe (c : Core) (i d : Nat) : Core :=
  let c := (((c.inc (R.MEMR_CE_CNT i)).inc R.MEM_CE_CNT).lastErr i d).perf (168 + i / 4)
  let (n, c) := c.recentNote (0x0901 * 16 + i)
  let c := c.postLim sec 0x0901 i n
  let lim := c.f F.MEM_CE_LIMIT_LIMIT
  let l := c.now :: (Tab.get (fun _ => []) c.mem.ceTimes i).filter fun t => c.now < t + 3600 * sec
  let c := { c with mem := { c.mem with ceTimes := Tab.set (fun _ => []) c.mem.ceTimes i l } }
  if lim ≠ 0 ∧ lim < l.length then c.retireRank i 2 else c

/-- An uncorrectable burst of a rank counted, and the rank retired. -/
def Core.memUe (c : Core) (i d cause : Nat) : Core :=
  (((c.inc (R.MEMR_UE_CNT i)).inc R.MEM_UE_CNT).lastErr i d).retireRank i cause

/-- A burst marked poisoned. -/
def Core.mark (c : Core) (pa : Nat) : Core :=
  { c with mem := { c.mem with poison := Tab.set (fun _ => false) c.mem.poison (pa / 64) true } }

/-- A slice of a retraining of a rank is under way (R344). -/
def Core.inSliceAt (c : Core) (i t : Nat) : Bool :=
  let v := Tab.get (fun _ => {}) c.mem.retrain i
  decide (t < v.sliceTo) && v.lastSlice.all fun b => decide (b ≤ t)
def Core.inSlice (c : Core) (i : Nat) : Bool := c.inSliceAt i c.now

/-- A block of a rank has been written during its slice, on the partner alone (R344). -/
def Core.isDirty (c : Core) (i pa : Nat) : Bool := c.mem.dirty.contains (i, pa / 4096)

/-- A mirrored read of a rank goes to the partner: the rank is retired but in service, or in a slice (R336, R339, R344). -/
def Core.redirected (c : Core) (i : Nat) : Bool := c.rankState i != 1 || c.inSlice i

/-- What the ECC finds on a read of a burst served from DRAM (R331-R333, R336, R344): a block that is dirty on the rank can be read
from its partner alone. Each error stands at the decode address of the copy that failed. -/
def Core.eccRead (c : Core) (pa : Nat) (err : MemErr) : Core :=
  let d := c.memD pa
  let i := c.rankOf d
  let j := c.partnerRank i
  let mir := decide (pa < c.mirTop)
  let ((a, da), (b, db)) := if mir && c.redirected i then ((j, c.twinD d), (i, d)) else ((i, d), (j, c.twinD d))
  if c.isPoison (pa / 64) then c.deliverPoison pa
  else match err with
    | .clean => c
    | .corrected => c.memCe a da
    | .ueFirst =>
      if mir && !(c.inSlice i && c.isDirty i pa) then (c.memUe a da 1).post 0x0902 a (da / 128)
      else ((c.mark pa).deliverPoison pa).memUe a da 1
    | .ueBoth =>
      let c := (c.mark pa).deliverPoison pa
      let c := c.memUe a da 1
      if mir then c.memUe b db 1 else c

/-- A read of a burst whose partner copy is uncorrectable waits for the end of the rank's slice and reads the rank then (R344): a dirty
block cannot be read there. -/
def Core.sliceRetry (c : Core) (pa : Nat) (err : MemErr) : Bool :=
  let i := c.rankOf (c.memD pa)
  decide (pa < c.mirTop) && c.inSlice i && !c.isDirty i pa && !c.isPoison (pa / 64) && (err == .ueFirst || err == .ueBoth)

/-- The read of the rank itself after its slice, the partner's copy having failed (R332, R333, R344). -/
def Core.eccSecond (c : Core) (pa : Nat) (err : MemErr) : Core :=
  let d := c.memD pa
  let i := c.rankOf d
  if c.isPoison (pa / 64) then c.deliverPoison pa
  else match err with
    | .clean => c.post 0x0902 (c.partnerRank i) (c.twinD d / 128)
    | .corrected => (c.post 0x0902 (c.partnerRank i) (c.twinD d / 128)).memCe i d
    | _ => ((c.mark pa).deliverPoison pa).memUe i d 1

/-! ### Refresh (R326, R327) -/

/-- The interval of tREFI2 in 1.25 ns units: halved when MR4 reports the rank above 85 C (R326). -/
def Core.tRefi (c : Core) (i : Nat) : Nat := if 3 ≤ c.f (F.MEMR_STAT_MR4_RATE i) then 780 else 1560

/-- tRFCsb: 115 ns for 16 Gb devices and 130 ns for 32 Gb devices (R326). -/
def Core.tRfc (c : Core) : Nat := if c.mcfg F.MEM_CFG_DEVICE = 1 then 104 else 92

/-- The DRAM refreshes itself (R319; log entry 62). -/
def Core.selfRefresh (c : Core) : Bool := c.st == stBoot || c.st == stSafe

/-- `n` REFsb commands of a rank issue, with the delay change that waits for one (R342). -/
def Core.refsb (c : Core) (i n : Nat) : Core :=
  let ba := Tab.get (fun _ => 0) c.mem.refBank i
  let c := c.each n fun k c =>
    let b := (ba + k) % 4
    let raa := c.mem.raa.filterMap fun e =>
      if e.1 / 64 = i ∧ e.1 % 4 = b then (if e.2 ≤ c.mem.raaimt then none else some (e.1, e.2 - c.mem.raaimt))
      else some e
    { c with mem := { c.mem with raa := raa, busy := Tab.set (fun _ => 0) c.mem.busy (4 * i + b) (c.now + c.tRfc) } }
  let c := { c with mem := { c.mem with refBank := Tab.set (fun _ => 0) c.mem.refBank i ((ba + n) % 4) } }
  (c.perfAdd (172 + i / 4) n)

/-- The partner rank, the pair and the region allow a retraining to run (R343). -/
def Core.mayRetrain (c : Core) (i : Nat) : Bool :=
  decide (0 < c.mirTop) && c.rankState (c.partnerRank i) == 1 && !(c.mem.migs.any fun m => memPair m.rank == memPair i) &&
    !((List.range 16).any fun j => j != i && memPair j == memPair i && c.fb (F.MEMR_STAT_RETRAINING j))

def Core.retrainOf (c : Core) (i : Nat) : Retrain := Tab.get (fun _ => {}) c.mem.retrain i

def Core.setRetrain (c : Core) (i : Nat) (v : Retrain) : Core :=
  let c := { c with mem := { c.mem with retrain := Tab.set (fun _ => {}) c.mem.retrain i v } }
  let c := c.setB (F.MEMR_STAT_RETRAINING i) v.running
  c.setB F.MEM_STAT_RETRAINING ((List.range 16).any fun j => c.fb (F.MEMR_STAT_RETRAINING j))

/-- A retraining of a rank is wanted: it runs, or waits (R343). -/
def Core.wantRetrain (c : Core) (i : Nat) : Core :=
  let v := c.retrainOf i
  if v.running ∨ v.waiting ∨ c.rankState i ≠ 1 then c
  else c.setRetrain i { v with slices := 0, running := c.mayRetrain i, waiting := !c.mayRetrain i, asked := false }

/-- The retraining of a rank that MEM_RETRAIN asks for. -/
def Core.askRetrain (c : Core) (i : Nat) : Core :=
  let c := c.wantRetrain i
  c.setRetrain i { c.retrainOf i with asked := true }

/-- A command works on a rank: its return, its self-test, or a retraining asked for (spec/14_command_reference.md R379). -/
def Core.rankTaken (c : Core) (i : Nat) : Bool :=
  let v := c.retrainOf i
  c.mem.testing.contains i || c.selfTesting 2 (i / 4) (i % 4) || (v.asked && (v.running || v.waiting))

/-- The delay change that waits for a REFsb applied (R342). -/
def Core.applyDrift (c : Core) (i : Nat) : Core :=
  let p := Tab.get (fun _ => (0 : Int)) c.mem.driftPend i
  if p = 0 then c
  else
    let v := c.fs (F.MEMR_DRIFT_DRIFT i) + p
    let c := { c with mem := { c.mem with driftPend := Tab.set (fun _ => 0) c.mem.driftPend i 0 } }
    let c := (c.setF (F.MEMR_DRIFT_DRIFT i) (wrap 16 v)).postLim sec 0x090C i (wrap 16 p)
    if c.f F.MEM_DRIFT_RETRAIN ≤ v.natAbs then c.wantRetrain i else c

/-- The REFsb commands of a rank that wait behind bursts. -/
def Core.postponed (c : Core) (i : Nat) : Nat := Tab.get (fun _ => 0) c.mem.postponed i
def Core.setPostponed (c : Core) (i v : Nat) : Core :=
  { c with mem := { c.mem with postponed := Tab.set (fun _ => 0) c.mem.postponed i v } }

/-- A REFsb of a rank falls due: blocked by an RT burst it is postponed, and at four it is forced (R327). -/
def Core.refreshDue (c : Core) (i : Nat) (blocked : Bool) : Core :=
  let p := c.postponed i
  if !blocked then ((c.setPostponed i 0).refsb i (p + 1)).applyDrift i
  else if p + 1 < 4 then c.setPostponed i (p + 1)
  else
    let c := ((c.setPostponed i 3).refsb i 1).applyDrift i
    ((c.inc R.MEM_FORCED_REF_CNT).perf (180 + i / 4)).memEvent 0x0909 1

/-! ### Row activation (R325, R328, R329) -/

/-- The rolling activation count of a bank (rank x 64 + bank). -/
def Core.raaOf (c : Core) (key : Nat) : Nat := Tab.get (fun _ => 0) c.mem.raa key
def Core.setRaa (c : Core) (key v : Nat) : Core := { c with mem := { c.mem with raa := Tab.set (fun _ => 0) c.mem.raa key v } }

/-- The boundary after a burst at whose bank RAA has reached RAAIMT: a REFsb that is due issues first, then the RFMsb that remains due
(R328). -/
def Core.rfmBoundary (c : Core) (i key : Nat) : Core :=
  let p := c.postponed i
  let c := if 0 < p then ((c.setPostponed i (p - 1)).refsb i 1).applyDrift i else c
  if c.mem.raaimt ≤ c.raaOf key then
    (((c.setRaa key (c.raaOf key - c.mem.raaimt)).inc R.MEM_RFM_CNT).perf (176 + i / 4)).memEvent 0x090B 1
  else c

/-- The boundaries after bursts at some banks: those that have reached RAAIMT. -/
def Core.rfmDue (c : Core) (banks : List (Nat × Nat)) : Core :=
  c.eachOf banks.eraseDups fun x c =>
    if c.mem.raaimt ≤ c.raaOf (x.1 * 64 + x.2) then c.rfmBoundary x.1 (x.1 * 64 + x.2) else c

/-- The activations of a bank by a requester in the tREFI2 of an instant (R329). -/
def Core.actsOf (c : Core) (req i bank t : Nat) : Nat :=
  let (slot, k) := Tab.get (fun _ => (0, 0)) c.mem.acts (req * 1024 + i * 64 + bank)
  if slot = t / c.tRefi i then k else 0

/-- An activation of a bank for a requester: RAA counts it, and for a requester of class CTL or BE the count that holds it (R328,
R329). -/
def Core.activate (c : Core) (req : Nat) (cls : MemClass) (t i bank : Nat) : Core :=
  let key := i * 64 + bank
  let k := c.actsOf req i bank t + 1
  let c := c.setRaa key (c.raaOf key + 1)
  if cls = .rt then c
  else
    let c := { c with mem := { c.mem with acts := Tab.set (fun _ => (0, 0)) c.mem.acts (req * 1024 + key) (t / c.tRefi i, k) } }
    if k = c.f F.MEM_ACT_THR_THR + 1 then (c.inc R.MEM_THROTTLE_CNT).postKey (0x090A * 65536) sec 0x090A i req else c

/-- The ranks and banks that an access of a burst activates: both copies of a mirrored write, but none in a slice; of a mirrored read
that it is sent to; the spare of a plain or mirrored block already migrated too (R330, R336, R337, R344). -/
def Core.activated (c : Core) (pa : Nat) (write : Bool) (t : Nat) : List (Nat × Nat) :=
  let d := c.memD pa
  let bank := memBank c.mem.cfg d
  let i := c.rankOf d
  let j := c.partnerRank i
  let mir := decide (pa < c.mirTop)
  let ranks := if !mir then [i] else if write then [i, j].filter fun x => !c.inSliceAt x t
    else [if c.rankState i != 1 || c.inSliceAt i t then j else i]
  let spares := if write then c.mem.migs.filterMap fun m =>
      let below := fun (x : Nat) => decide (memBurstD c.mem.cfg (m.rank / 4) (c.f (F.MEMR_STAT_SERVES m.rank)) (64 * m.ptr) > x)
      if m.rank = i ∧ below d then some m.spare
      else if mir ∧ m.rank = j ∧ below (c.twinD d) then some m.spare else none
    else []
  (ranks ++ spares).map fun x => (x, bank)

/-- The ranks and banks that a burst of an access activates: of a read of the second copy its own (R334). -/
def Core.touched (c : Core) (e : MemTouch) (b : Nat) : List (Nat × Nat) :=
  if e.twin then [(c.partnerRank (c.rankOf (c.memD b)), memBank c.mem.cfg (c.memD b))] else c.activated b e.write e.t

/-- A burst of an access issued: the banks that it activates, the counters of R512, and a block of a rank in a slice that its write
leaves dirty (R344). -/
def Core.issueBurst (c : Core) (e : MemTouch) (b : Nat) : Core :=
  let i := c.rankOf (c.memD b)
  let j := c.partnerRank i
  let dirty := if e.write && decide (b < c.mirTop) then [i, j].filter fun x => c.inSliceAt x e.t else []
  let c := c.eachOf (c.touched e b) fun x c => (c.perf ((if e.write then 164 else 160) + x.1 / 4)).activate e.req e.cls e.t x.1 x.2
  let c := if e.cls = .rt then c.perf (184 + i / 4) else c
  { c with mem := { c.mem with
    dirty := dirty.foldl (fun l x => if l.contains (x, b / 4096) then l else l ++ [(x, b / 4096)]) c.mem.dirty } }

/-- An access issued: the bursts of up to 512 B of class RT back to back, with the refresh management that falls due after them; of
another class with a boundary after each (R325, R328). -/
def Core.issue (c : Core) (e : MemTouch) : Core :=
  let l := (bursts e.pa e.n).filter fun b => decide (b + 64 ≤ c.dramTop)
  let k := if e.cls = .rt then 8 else 1
  c.each (ceilDiv l.length k) fun g c =>
    let some_ := (l.drop (g * k)).take k
    let banks := some_.flatMap (c.touched e)
    (c.eachOf some_ fun b c => c.issueBurst e b).rfmDue banks

/-- The accesses that the units have made issued, oldest first. -/
def Core.memDrain (c : Core) : Core :=
  { c with mem := { c.mem with todo := [] } }.eachOf c.mem.todo.reverse fun e c => c.issue e

/-- A burst's access waits: its requester, with `more` activations of each of its banks by the same access before it, is held from one of
them; one of them refreshes; or its rank is in a slice and holds the only copy, or the copy that has not failed (R327, R329, R344). -/
def Core.burstWaits (c : Core) (w : MemAccess) (pa : Nat) (more : List (Nat × Nat)) : Bool :=
  let banks := c.activated pa w.data.isSome c.now
  banks.any (fun x =>
    (decide (c.memClass w.req ≠ .rt) && decide (c.f F.MEM_ACT_THR_THR < c.actsOf w.req x.1 x.2 c.now + more.count x)) ||
    decide (c.now < Tab.get (fun _ => 0) c.mem.busy (4 * x.1 + x.2 % 4))) ||
  ((decide (c.mirTop ≤ pa) || w.second) && c.inSlice (c.rankOf (c.memD pa)))

/-- REFRESH_DUE: four times in each tREFI2, but not while the DRAM refreshes itself (R319, R326); the accesses made before it have
issued. -/
def execRefreshDue (c r : Fin 4) (blocked : Bool) (s : State) : Host.Outcome State Fault Refusal :=
  let k := s.core
  let i := 4 * c.val + r.val
  let at_ := Tab.get (fun _ => 0) k.mem.refAt i
  let res :=
    if k.rankState i = 0 ∨ k.selfRefresh ∨ k.now < at_ then k
    else
      let k := k.memDrain
      { k with mem := { k.mem with
          refAt := Tab.set (fun _ => 0) k.mem.refAt i (nextDue at_ (k.tRefi i / 4) k.now) } }.refreshDue i blocked
  .next { s with core := res }

/-- MR4_POLL: each 1 ms the refresh-rate code of every rank; 0x090F beyond the 2x rate (R326). -/
def execMr4Poll (codes : List (BitVec 3)) (s : State) : Host.Outcome State Fault Refusal :=
  let k := s.core
  let res :=
    if k.selfRefresh ∨ k.now < k.mem.mr4At then k
    else { k with mem := { k.mem with mr4At := nextDue k.mem.mr4At msec k.now } }.each 16 fun i c =>
      if c.rankState i = 0 then c
      else
        let v := (codes.getD i 0).toNat
        let c := c.setF (F.MEMR_STAT_MR4_RATE i) v
        if 4 < v then c.post 0x090F i v else c
  .next { s with core := res }

/-! ### Scrub, migration, drift (R334, R337, R338, R342) -/

/-- A burst of the scrub or a migration issued on one rank (R325, R328, R329). -/
def Core.ownAct (c : Core) (i d : Nat) (write : Bool) : Core :=
  let bank := memBank c.mem.cfg d
  ((c.perf ((if write then 164 else 160) + i / 4)).activate 53 .be c.now i bank).rfmDue [(i, bank)]

/-- Requester 53 may use a channel now: MEM_MIG_PCT percent of the peak is its share of it (R325). -/
def Core.bgMay (c : Core) (ch : Nat) : Bool := decide (Tab.get (fun _ => 0) c.mem.bgAt ch ≤ c.now)

/-- Peak bytes of a channel in 1.25 ns (R319). -/
def Core.peak (c : Core) : Nat :=
  match c.mcfg F.MEM_CFG_RATE with
  | 0 => 64
  | 1 => 56
  | _ => 48

/-- Requester 53 has moved bytes on a channel: it waits until its share allows more (a share of 0 is taken as 1: log entry 62). -/
def Core.bgUse (c : Core) (ch bytes : Nat) : Core :=
  let t := ceilDiv (bytes * 100) (max 1 (c.f F.MEM_MIG_PCT_PCT) * c.peak)
  { c with mem := { c.mem with bgAt := Tab.set (fun _ => 0) c.mem.bgAt ch (c.now + t) } }

/-- A bank that requester 53 is held from, or that refreshes (R327, R329). -/
def Core.bgHeld (c : Core) (i d : Nat) : Bool :=
  let bank := memBank c.mem.cfg d
  decide (c.f F.MEM_ACT_THR_THR < c.actsOf 53 i bank c.now) || decide (c.now < Tab.get (fun _ => 0) c.mem.busy (4 * i + bank % 4))

/-- What the ECC finds as a burst is read for the scrub or a migration, by requester 53 (R331-R333): `src` the rank read at decode
address `d`, `twin` that of the other copy. -/
def Core.ownRead (c : Core) (d src twin : Nat) (err : MemErr) : Core :=
  let c := c.byReq 53
  let pa := c.memPa d
  let mir := decide (pa < c.mirTop)
  let c := c.ownAct src d false
  if c.isPoison (pa / 64) then c
  else match err with
    | .clean => c
    | .corrected => c.memCe src d
    | .ueFirst =>
      if mir then (c.memUe src d 1).post 0x0902 src (d / 128) else ((c.mark pa).deliverPoison pa).memUe src d 1
    | .ueBoth =>
      let c := ((c.mark pa).deliverPoison pa).memUe src d 1
      if mir then c.memUe twin (c.twinD d) 1 else c

/-- The rank's next burst falls due in a pass of MEM_SCRUB hours (R334). -/
def Core.scrubDue (c : Core) (i : Nat) : Bool :=
  let n := Tab.get (fun _ => 0) c.mem.scrub i
  let pass := c.f F.MEM_SCRUB_HOURS * 3600 * sec
  decide (Tab.get (fun _ => 0) c.mem.scrubAt i + n * pass / (memRankBytes c.mem.cfg / 64) ≤ c.now)

/-- The scrub's place in a rank moved on; after the last burst the next pass begins when its time has come. -/
def Core.scrubNext (c : Core) (i : Nat) : Core :=
  let n := Tab.get (fun _ => 0) c.mem.scrub i + 1
  let at_ := Tab.get (fun _ => 0) c.mem.scrubAt i
  if n < memRankBytes c.mem.cfg / 64 then { c with mem := { c.mem with scrub := Tab.set (fun _ => 0) c.mem.scrub i n } }
  else
    let next := max c.now (at_ + c.f F.MEM_SCRUB_HOURS * 3600 * sec)
    { c with mem := { c.mem with scrub := Tab.set (fun _ => 0) c.mem.scrub i 0, scrubAt := Tab.set (fun _ => 0) c.mem.scrubAt i next } }

/-- PATROL_SCRUB: the rank's next burst read, in ascending D, and repaired (R334). A spare holds no data of the address space: its
errors are counted. A rank in a slice, a bank that the requester is held from and a channel whose share it has used wait (R325, R329,
R344). -/
def execPatrolScrub (c r : Fin 4) (err : MemErr) (s : State) : Host.Outcome State Fault Refusal :=
  let k := s.core
  let i := 4 * c.val + r.val
  let d := memBurstD k.mem.cfg c.val (k.f (F.MEMR_STAT_SERVES i)) (Tab.get (fun _ => 0) k.mem.scrub i)
  let res :=
    if k.selfRefresh || !k.scrubDue i || k.inSlice i || !k.bgMay c.val || k.bgHeld i d then k
    else if k.rankState i = 1 then ((k.ownRead d i (k.partnerRank i) err).scrubNext i).bgUse c.val 64
    else if k.rankState i = 2 then
      let k := (((k.byReq 53).ownAct i d false).bgUse c.val 64)
      (match err with
        | .clean => k
        | .corrected => k.memCe i d
        | _ => k.memUe i d 1).scrubNext i
    else k
  .next { s with core := res }

/-- The last block copied: the remap switches (R338), and a migration that waited starts. -/
def Core.migDone (c : Core) (m : Mig) : Core :=
  let sv := c.f (F.MEMR_STAT_SERVES m.rank)
  let c := ((c.setRank m.spare 1).setF (F.MEMR_STAT_SERVES m.spare) sv).setRank m.rank 4
  let c := { c with mem := { c.mem with migs := c.mem.migs.erase m } }
  let c := match c.mem.migQueue.find? (fun x => memPair x.rank = memPair m.rank) with
    | some x => { c with mem := { c.mem with migs := c.mem.migs ++ [x], migQueue := c.mem.migQueue.erase x } }
    | none => c
  (c.post 0x0906 m.rank m.spare).rankSync

/-- MIGRATION_BLOCK: the next 4 KiB block of the channel's retired rank copied to the spare, mirrored rows from the partner (R337), within
the requester's share of the channels; an uncorrectable plain burst of it is written poisoned. -/
def execMigrationBlock (c : Fin 4) (errs : List (Fin 64 × MemErr)) (s : State) : Host.Outcome State Fault Refusal :=
  let k := s.core
  let res := match k.mem.migs.find? (fun m => m.rank / 4 = c.val) with
    | none => k
    | some m =>
      let d := fun (b : Nat) => memBurstD k.mem.cfg c.val (k.f (F.MEMR_STAT_SERVES m.rank)) (64 * m.ptr + b)
      let mir := decide (k.memPa (d 0) < k.mirTop)
      let j := k.partnerRank m.rank
      if !k.bgMay c.val || (mir && !k.bgMay (j / 4)) then k
      else
        let find := fun (b : Nat) => ((errs.find? fun e => e.1.val == b).map (·.2)).getD .clean
        let k := (k.byReq 53).each 64 fun b k =>
          (if mir then k.ownRead (k.twinD (d b)) j m.rank (find b) else k.ownRead (d b) m.rank j (find b)).ownAct m.spare (d b) true
        let m' := { m with ptr := m.ptr + 1 }
        let k := { k with mem := { k.mem with migs := k.mem.migs.replace m m' } }
        let k := if mir then (k.bgUse c.val 4096).bgUse (j / 4) 4096 else k.bgUse c.val 8192
        let k := k.setF (F.MEMR_MIG_PTR_MIB m.rank) (m'.ptr / 256)
        if memRankBytes k.mem.cfg ≤ m'.ptr * 4096 then k.migDone m' else k
  .next { s with core := res }

/-- DRIFT_CHECK: each 100 ms; a change that reaches MEM_DRIFT.STEP waits for the rank's next REFsb (R342). -/
def execDriftCheck (c r : Fin 4) (delay : BitVec 16) (s : State) : Host.Outcome State Fault Refusal :=
  let k := s.core
  let i := 4 * c.val + r.val
  let at_ := Tab.get (fun _ => 0) k.mem.driftAt i
  let p := delay.toInt - k.fs (F.MEMR_DRIFT_DRIFT i)
  let res :=
    if k.rankState i ≠ 1 ∨ k.selfRefresh ∨ k.now < at_ then k
    else
      let k := { k with mem := { k.mem with driftAt := Tab.set (fun _ => 0) k.mem.driftAt i (nextDue at_ (100 * msec) k.now) } }
      if k.f F.MEM_DRIFT_STEP ≤ p.natAbs then
        { k with mem := { k.mem with driftPend := Tab.set (fun _ => 0) k.mem.driftPend i p } }
      else k
  .next { s with core := res }

/-! ### Training (R341-R345) -/

/-- A rank newly trained in full (R341-R343): its drift starts from 0. -/
def Core.trainedNow (c : Core) (i : Nat) : Core :=
  let c := { c with mem := { c.mem with trained := Tab.set (fun _ => 0) c.mem.trained i c.now
                                        driftPend := Tab.set (fun _ => 0) c.mem.driftPend i 0 } }
  (c.setF (F.MEMR_DRIFT_DRIFT i) 0).inc (R.MEMR_TRAIN_CNT i)

/-- RETRAIN_SLICE: a slice begins, at most one per 100 µs, once the blocks that the last one left dirty have been copied; a retraining
that waits starts once it may, and one that may no longer run makes no slice (R343, R344). A rank that has left state 1 retrains no
more: its retraining has failed, at no step (R395; log entry 62). -/
def execRetrainSlice (c r : Fin 4) (last : Bool) (step : Fin 8) (s : State) : Host.Outcome State Fault Refusal :=
  let k := s.core
  let i := 4 * c.val + r.val
  let v := k.retrainOf i
  let late := match v.lastSlice with
    | some t => decide (t + 100 * usec ≤ k.now)
    | none => true
  let res :=
    if (v.waiting || v.running) && k.rankState i != 1 then
      (k.setRetrain i { v with running := false, waiting := false }).post 0x090E i 0
    else if v.waiting then (if k.mayRetrain i then k.setRetrain i { v with running := true, waiting := false } else k)
    else if v.running && late && k.mayRetrain i then
      let n := v.slices + 1
      let k := k.memDrain
      let k := { k with mem := { k.mem with dirty := k.mem.dirty.filter fun x => x.1 ≠ i } }
      let slice : Retrain := { lastSlice := some k.now, sliceTo := k.now + 10 * usec }
      if last || step.val ≠ 0 || decide (3000 ≤ n) then
        let k := k.setRetrain i slice
        if step.val ≠ 0 then k.post 0x090E i step else (k.trainedNow i).post 0x090D i n
      else k.setRetrain i { slice with slices := n, running := true }
    else k
  .next { s with core := res }

/-- RETRAIN_INTERVAL: MEM_DRIFT.INT hours after a rank's last full training (R343). -/
def execRetrainInterval (c r : Fin 4) (s : State) : Host.Outcome State Fault Refusal :=
  let k := s.core
  let i := 4 * c.val + r.val
  let h := k.f F.MEM_DRIFT_INT
  let due := decide (h ≠ 0) && decide (Tab.get (fun _ => 0) k.mem.trained i + h * 3600 * sec ≤ k.now)
  .next { s with core := if due then k.wantRetrain i else k }

/-- MEM_RETRAIN (R395). -/
def Core.cmdMemRetrain (c : Core) (q : CmdIn) : CmdOut :=
  let i := 4 * q.u8 0 + q.u8 1
  let v := c.retrainOf i
  let out := decide (3 < q.u8 0) || decide (3 < q.u8 1)
  c.judge [(!out && (v.running || v.waiting || c.rankTaken i || (c.asyncOf 0x70).isSome), rBusy), (!out && c.rankState i != 0 && c.rankState i != 1, rBadParam),
    (out || c.rankState i == 0, rRange)] fun c => accepted (c.askRetrain i)

/-- The configuration registers that memory initialisation takes (R346). -/
def memCfgRegs : List Nat :=
  [R.MEM_CFG, R.MEM_MIR_SIZE, R.MEM_HOME_0, R.MEM_HOME_1] ++ (List.range 8).flatMap fun i => [R.MEM_XOR_LO i, R.MEM_XOR_HI i]

/-- MEM_INIT (R324, R395): DRAM contents are discarded. BUSY while a command works on a rank (spec/14_command_reference.md R379). -/
def Core.cmdMemInit (c : Core) (q : CmdIn) : CmdOut :=
  let t := memCfgRegs.foldl (fun t o => Tab.set regReset t o (c.r o)) []
  if c.job.surfs.any (fun e => e.2.state ≠ 0) || (c.asyncOf 0x70).isSome || (List.range 16).any c.rankTaken then (c, some (rBusy, []))
  else if memRefused t then ((c.setF F.MEM_STAT_INIT 3).setF F.MEM_STAT_ERR 1, some (rBadParam, []))
  else
    let c := (((c.setF F.MEM_STAT_INIT 1).setF F.MEM_STAT_ERR 0).setF F.MEM_LOOP_DEPTH 0).setF F.MEM_SIZE_GIB 0
    let c := { c with mem := { cfg := t }, ump := { c.ump with nibImage := false } }
    let c := c.each 16 fun i c => (c.setF (F.MEMR_STAT_STATE i) 0).setB (F.MEMR_STAT_RETRAINING i) false
    let c := c.setB F.MEM_STAT_RETRAINING false
    let c := (c.setB F.UMP_STAT_STBY_READY false).spareSync
    accepted (c.rankSync.start 0x70 q)

/-- The ranks of a channel after training (R341): none where an addressed rank failed and no spare can take its place. -/
def trainChannel (a spare : Nat) (failed : List Nat) (ch : Nat) : Option (List (Nat × Nat × Nat)) :=
  let bad := (List.range a).filter fun r => failed.contains (4 * ch + r)
  let spOk := spare = 1 && !failed.contains (4 * ch + a)
  let good := (List.range a).filterMap fun r => if bad.contains r then none else some (4 * ch + r, 1, r)
  match bad with
  | [] => some (good ++ (if spare = 1 then [(4 * ch + a, if spOk then 2 else 4, 0)] else []))
  | [r] => if spOk then some (good ++ [(4 * ch + r, 4, 0), (4 * ch + a, 1, r)]) else none
  | _ => none

/-- MEM_INIT_DONE: training ends, and the device area is set up (R341, R539); a channel has no fifth rank to be the spare of
four (R320), and no DIMM agrees with a reserved code. -/
def Core.memInitDone (c : Core) (result : InitResult) : Core :=
  match c.asyncOf 0x70 with
  | none => c
  | some w =>
    let fail := fun (err st : Nat) => ((c.setF F.MEM_STAT_INIT 3).setF F.MEM_STAT_ERR err).asyncEnd w st
    match result with
    | .geometry => fail 2 rBadParam
    | .failed => fail 3 rHwFault
    | .trained failed raaimt raammt =>
      let t := c.mem.cfg
      let a := 2 ^ memLogA t
      let sp := regsF t F.MEM_CFG_SPARE
      let plans := (List.range 4).map fun ch => trainChannel a sp failed ch
      if (a = 4 ∧ sp = 1) ∨ memReserved t then fail 2 rBadParam
      else if plans.any Option.isNone then fail 3 rHwFault
      else
        let c := c.eachOf (plans.flatMap fun p => p.getD []) fun x c =>
          let (i, st, sv) := x
          let c := (c.setRank i st).setF (F.MEMR_STAT_SERVES i) sv
          if st = 4 then (c.decision 8 2 (i / 4)).post 0x0905 i 4 else c.trainedNow i
        let m := regsF t F.MEM_MIR_SIZE_GIB
        let c := { c with mem := { c.mem with raaimt := if raaimt = 0 then 32 else raaimt, raammt := raammt } }
        let c := (c.setF F.MEM_STAT_INIT 2).setF F.MEM_SIZE_GIB (memCap t / 2 ^ 30 - m)
        let c := { c with ump := { c.ump with nibImage := decide (1 ≤ m), ckptAt := c.now } }
        let c := c.areaImage.spareSync
        let c := c.setB F.UMP_STAT_STBY_READY (decide (1 ≤ m) && c.f F.UMP_ISOL_COX_COX == 0)
        c.rankSync.asyncEnd w rDone

/-- MEM_INIT_DONE. -/
def execMemInitDone (result : InitResult) (s : State) : Host.Outcome State Fault Refusal :=
  .next { s with core := s.core.memInitDone result }

/-- MEM_INIT. -/
def execMemInit (p : Packet) (s : State) : Host.Outcome State Fault Refusal :=
  .next { s with core := s.core.command 0x70 p Core.cmdMemInit }

/-- MEM_RETRAIN. -/
def execMemRetrain (p : Packet) (s : State) : Host.Outcome State Fault Refusal :=
  .next { s with core := s.core.command 0x71 p Core.cmdMemRetrain }

/-- A rank in state 4 is trained and tested for its return (R340). -/
def Core.returnRank (c : Core) (i : Nat) : Core :=
  ({ c with mem := { c.mem with testing := c.mem.testing ++ [i] } }.setRank i 6).rankSync

/-- RANK_RETURN_DONE: a test that passed or failed follows a training (R340). -/
def execRankReturnDone (c r : Fin 4) (res : Fin 3) (s : State) : Host.Outcome State Fault Refusal :=
  let k := s.core
  let i := 4 * c.val + r.val
  let out := if k.mem.testing.contains i ∧ k.rankState i = 6 then
      let k := { k with mem := { k.mem with testing := k.mem.testing.erase i } }
      let k := if res.val = 1 then k else k.trainedNow i
      ((k.setRank i (if res.val = 0 then 2 else 4)).post 0x0907 i res).rankSync
    else k
  .next { s with core := out }

/-- A write of MEM_LOOP (R345): ignored where its conditions do not hold. -/
def Core.memLoop (c : Core) (v : Nat) : Core :=
  let i := 4 * bits v 2 2 + bits v 4 2
  let ok := match v % 4 with
    | 0 => true
    | 1 => c.f F.MEM_STAT_INIT == 0 || c.f F.MEM_STAT_INIT == 3
    | 2 => c.rankState i == 2 || c.rankState i == 4
    | _ => false
  if ok then c.setN R.MEM_LOOP (v % 128) else c

/-- MEM_LOOP_WRITE: what the checker has counted at the depth selected until then, and the write (R345). -/
def execMemLoopWrite (w : LoopWrite) (s : State) : Host.Outcome State Fault Refusal :=
  let c := if s.core.f F.MEM_LOOP_DEPTH = 0 then s.core else s.core.addN R.MEM_LOOP_ERR w.errs
  .next { s with core := c.hostReg .host0 R.MEM_LOOP w.v fun c => c.memLoop w.v.toNat }

end Sys2Proof.Machine
end

