-- ==== Sys2Proof/Machine/Quill.lean ====
section
/-!
DEFINITION. The device's end of the quill (spec/10_quill_head_link.md R266-R298): line transfers, trim banks, management
messages, lane training and faults, the handling of groups by their mirrors, and tests.
-/

namespace Sys2Proof.Machine

/-! ### Groups (R279) -/

/-- The global nozzle of a nozzle-in-group. -/
def Gen.nozzleAt (g : Gen) (hg i : Nat) : Option Nat :=
  g.tabs.map.findSome? fun r =>
    if r.hg = hg ∧ r.iLow ≤ (i : Int) ∧ (i : Int) ≤ r.iHigh then
      some (r.start + (if r.idir then r.iStart - i else i - r.iStart) * (if r.cstep2 then 2 else 1))
    else none

/-- Entry `j` of a group's trim bank: e of the lowest nozzle of the 64 that the map reaches, 0 for none (R89, R277). -/
def Gen.trimEntry (g : Gen) (hg j : Nat) : Nat :=
  match (List.range 64).findSome? fun m => g.nozzleAt hg (64 * j + m) with
  | some n =>
    let b := match g.groupBar hg with
      | some b => b
      | none => 0
    let e := (g.f (F.FIRE_TRIM_BIAS b) : Int) + sext 16 (bits (Tab.get (fun _ => 0) g.tabs.seg (n / 64)).toNat 16 16)
    (max 0 (min (g.f (F.FIRE_TRIM_SPAN b) : Int) e)).toNat
  | none => 0

/-! ### Trim banks (R92, R277) -/

/-- A bank load of a group sent on the ACTIVE lanes that carry a copy of it. -/
def Core.sendBank (c : Core) (hg bank : Nat) (lanes : List Nat) : Core :=
  let entry := fun j => Tab.get (fun _ => 0) (c.group hg).trims (bank * 512 + j)
  c.eachOf lanes fun n c =>
    c.laneEmit n 0xF3 ((bankBlks hg (n != hg) bank entry).map fun b => (b.w : Int))

/-- A group's inactive bank is free: no load of it waits for its stroke, and no line sent with it awaits its edge (R92). -/
def Core.bankFree (c : Core) (hg : Nat) : Bool :=
  let u := c.group hg
  u.next.isNone && (match c.newest.groupBar hg with
    | some b => (c.bar b).pend.all fun p => decide (u.since ≤ p.s)
    | none => true)

/-- The generation whose trims wait first: in a job that of their effective line. -/
def Core.trimGen (c : Core) (le : Nat) : Gen := if c.job.tof then c.genAt le else c.newest

/-- The inactive bank of a group loaded with the trims that wait first, once it is free (R92); outside a job it is in use at
once, in one from stroke L_c + D_b (R93). -/
def Core.bankLoad (c : Core) (hg : Nat) : Core :=
  let u := c.group hg
  match u.want with
  | le :: rest =>
    if c.bankFree hg then
      let g := c.trimGen le
      let bank := 1 - u.bank
      let trims := (List.range 512).foldl (fun t j => Tab.set (fun _ => 0) t (bank * 512 + j) (g.trimEntry hg j)) u.trims
      let b := (g.groupBar hg).getD 0
      let u' := if c.job.tof then { u with trims := trims, want := rest, next := some (le + (c.bar b).d).toNat }
        else { u with trims := trims, want := rest, bank := bank }
      (c.setGroup hg u').sendBank hg bank ((g.lanesOf hg).filter c.laneActive)
    else c
  | [] => c

/-- TRIM_BANK_LOAD. -/
def execTrimBankLoad (g : Fin 64) (s : State) : Host.Outcome State Fault Refusal :=
  .next { s with core := s.core.bankLoad g }

/-- The banks that change with the lines for stroke `s` (R93). -/
def Core.bankFlips (c : Core) (s : Nat) : Core :=
  c.each 64 fun hg c =>
    let u := c.group hg
    match u.next with
    | some t => if t ≤ s then c.setGroup hg { u with bank := 1 - u.bank, next := none, since := t } else c
    | none => c

/-! ### Lines (R273-R275, R286, R296) -/

/-- The generation of a group's line for stroke `s`: in a job that of the line itself (spec/01_print_architecture.md R26). -/
def Core.sentGen (c : Core) (hg s : Nat) : Gen :=
  if c.job.tof then c.genAt ((s : Int) - (c.bar ((c.newest.groupBar hg).getD 0)).d).toNat else c.newest

/-- A group's frames of a line as a lane sends them, as its generation lays down, with the code of each nozzle-in-group as it is
sent (R183). -/
def Core.copyFrames (c : Core) (hg : Nat) (mirror : Bool) (s : Nat) : List (List Blk) :=
  let g := c.sentGen hg s
  let b := (g.groupBar hg).getD 0
  let pack := bit (g.f F.NZ_PACK_EN_EN) b
  let codes : Tab Code := match (c.sentOf hg).find? (fun v => v.s = s) with
    | some v => v.codes
    | none => []
  let code := fun i =>
    let v := (Tab.get (fun _ => 0) codes i).toNat
    if pack then bits (g.n (R.NZ_PACK b)) (2 * v) 2 else v
  (List.range (g.frames hg)).map fun k => frameBlks hg mirror k pack (c.group hg).bank s code

/-- Two lists of frames interleaved: P0, M0, P1, M1 and so on. -/
def interleave : List (List Blk) → List (List Blk) → List (List Blk)
  | [], l => l
  | a :: r, [] => a :: r
  | a :: r, b :: t => a :: b :: interleave r t

/-- The injection of INJ = 3: the CRC of one primary frame in INJ_RATE inverted; the frames sent since (R296). -/
def injectCrc (rate : Nat) : Nat → List (List Blk) → List (List Blk) × Nat
  | k, [] => ([], k)
  | k, f :: r =>
    let hit : Bool := decide (rate ≤ k + 1)
    let f' := if hit then f.take 33 ++ [dataBlk (Nat.xor (le (leBytes 8 ((f.getD 33 idleBlk).w)) 0 4) 0xFFFFFFFF)] else f
    let (r', k') := injectCrc rate (if hit then 0 else k + 1) r
    (f' :: r', k')

/-- The lines for stroke `s` of the bars that are `due` sent on the lanes that carry lines, with RECIP (R273); a replay
without OUTPUTS sends none (spec/19_observation_and_test.md R508). -/
def Core.sendLines (c : Core) (s recip : Nat) (dueBar : Nat → Bool) : Core :=
  if c.muted then c else
  let due := fun hg => (c.newest.groupBar hg).any dueBar
  c.each 64 fun n c =>
    let p := due n
    let twin := fun hg => bit ((c.sentGen hg s).n R.QL_MIRROR) (n % 32)
    let m := twin (Nat.xor n 32) && due (Nat.xor n 32)
    let u := c.lane n
    if c.laneActive n && u.carries && (p || m) then
      let pf := if p then c.copyFrames n false s else []
      let (pf, k) := if c.f (F.QLN_TEST_INJ n) = 3 ∧ twin n then
          injectCrc (c.f (F.QLN_TEST_INJ_RATE n)) u.inj pf
        else (pf, u.inj)
      let mf := if m then c.copyFrames (Nat.xor n 32) true s else []
      let c := (c.setLane n { u with inj := k }).emit n 0xF2 [((lsBlk s recip p m).w : Int)]
      c.eachOf (interleave pf mf) fun f c => c.emit n 0xF5 (f.map fun b => (b.w : Int))
    else c

/-- WAVE_SELs not acknowledged by the transmission of the line they name, given up before it or not (R286). -/
def Core.waveLate (c : Core) (s : Nat) : Core :=
  c.each 64 fun n c =>
    let late := ((c.lane n).mgmt ++ (c.lane n).gone).filter fun m => m.op = 3 ∧ m.stroke = some s
    let c := c.eachOf late fun m c => c.post 0x070D (m.arg / 2 ^ 38) (m.arg / 2 ^ 34 % 16)
    c.setLane n { c.lane n with gone := (c.lane n).gone.filter fun m => m.stroke ≠ some s }

/-- The transmission of the lines for stroke S_now + 1 starts (R30); after an abort none starts (R370). -/
def Core.transmit (c : Core) : Core :=
  if c.printing && !c.job.aborting then
    let s := c.web.s + 1
    let c := c.bankFlips s
    let c := c.each 16 fun b c => c.sendBar b s
    (c.sendLines s c.recip fun b => (c.barLine b s).isSome).waveLate s
  else c

/-! ### Test lines (spec/03_firing.md R104, R105) -/

/-- The bars that fire at a tick of a test: the selected ones that are enabled and not latched; in gate mode those whose
sequence is not through. -/
def Core.testFires (c : Core) (t : TestRun) (b : Nat) : Bool :=
  bit t.bars b && (t.mode != 1 || Tab.get (fun _ => []) t.todo b != []) && c.newest.fb (F.FIRE_CFG_EN b) && !c.latched b

/-- A test line of a bar as it is sent: nozzles of blanked heads are masked (spec/07_run_ahead_pipeline.md R193). -/
def Core.testSend (c : Core) (t : TestRun) (b : Nat) : Core :=
  let g := c.newest
  let codes := c.testCodes t b
  c.eachOf (g.barGroups b) fun hg c =>
    let tab := codes.foldl (fun tab e =>
      match mapNozzle g.tabs.map e.1 with
      | some (h, i, _) => if h = hg then Tab.set (fun _ => 0) tab i (BitVec.ofNat 4 e.2) else tab
      | none => tab) []
    c.keepSent hg ⟨t.fired, t.fired, c.maskCodes hg tab⟩

/-- A test line's edge on a bar: skipped where it falls within the previous pulse or the 40 ns after it (R86, R96); the
record then names no line (log entry 50). -/
def Core.testEdge (c : Core) (t : TestRun) (b : Nat) : Core :=
  if c.pulseNear b then (c.inc (R.FIRE_SKIP_CNT b)).defect 0x0203 b noLine c.webPos 0xFFFFFFFF
  else c.issueEdge b t.fired t.fired

/-- The test lines of a tick sent, with RECIP = 0, and fired. -/
def Core.testLine (c : Core) (t : TestRun) : Core :=
  let on := (List.range 16).filter (c.testFires t)
  let c := c.eachOf on fun b c => c.testSend t b
  let c := c.sendLines t.fired 0 on.contains
  c.eachOf on fun b c => c.testEdge t b

/-- A tick's line fires on some bar. -/
def Core.testLit (c : Core) (t : TestRun) : Bool := (List.range 16).any fun b => c.testFires t b && !c.pulseNear b

/-- A tick of the internal stroke generator (R104): the next line fires, or a stop is taken. A spit of 0 lines ends at its first
tick (log entry 50). -/
def Core.testTick (c : Core) (gates : List GateSamples) : Core :=
  match c.test with
  | none => c.gateQuiet gates
  | some t =>
    if c.now < t.next then c.gateQuiet gates
    else if t.stop then (c.gateQuiet gates).testStop
    else if t.mode = 2 ∧ t.lines = 0 then (c.gateQuiet gates).testEnd 0x0209
    else
      let lit := t.lit + b2n (c.testLit t)
      let c := c.testLine t
      let (c, t) := if t.mode = 1 then c.gateLine t gates else (c.gateQuiet gates, t)
      let t := { t with fired := t.fired + 1, lit := lit, next := t.start + (t.fired + 1) * t.period * 4 / 5 }
      let c := { c with test := some t }.setF F.FIRE_TEST_STAT_LINES t.lit
      if t.mode = 1 then
        if c.gates.all (fun g => Tab.get (fun _ => []) t.todo g.2 = []) then
          let c := { c with test := none }
          ((c.setB F.FIRE_TEST_STAT_RUNNING false).setB F.GT_STAT_RUNNING false).post 0x0208 31 t.lit
        else c
      else if t.fired ≥ t.lines then c.testEnd (if t.mode = 2 then 0x0209 else 0x0208)
      else c

/-- MODE of a group as its board reports it; its register shows 3 while the group is blanked. -/
def Core.setMode (c : Core) (g mode : Nat) : Core :=
  (c.setGroup g { c.group g with mode := mode }).setF (F.QLN_STATE_MODE g) (if (c.group g).blanked then 3 else mode)

/-! ### Lane states (R289-R292) -/

/-- QL_STAT and QL_DOWN as the states stand. -/
def Core.lanesSync (c : Core) (n : Nat) : Core :=
  let st := fun n => c.f (F.QLN_STATE_STATE n)
  let act := (List.range 64).countP fun n => st n = 4
  let down := (List.range 64).countP fun n => st n = 5 || st n = 6
  let c := (c.setF F.QL_STAT_ACTIVE act).setF F.QL_STAT_DOWN down
  c.setPairBit R.QL_DOWN_LO n (st n ≠ 4)

/-- A management message is given up (R278): what waits for its answer ends. -/
def Core.mgmtFail (c : Core) (n : Nat) (m : Mgmt) : Core :=
  let h := m.arg / 2 ^ 38
  match m.op with
  | 4 => c.answerWaiting 0xA0 rHwFault
  | 6 => (c.setHead h { c.head h with writing := none, fired := true }).post 0x0809 h (((c.head h).seq + 1) % 2 ^ 32)
  | 7 => match c.hi.async.find? (fun a => a.op = 0x49 ∧ a.a = h) with
    | some a => c.asyncEnd a rHwFault
    | none => c
  | _ =>
    let u := c.lane n
    c.setLane n { u with gaveUp := u.gaveUp || m.setup, gone := if m.op = 3 then u.gone ++ [m] else u.gone }

/-- A lane in a new state, with the cause of R292 where it has one. Leaving ACTIVE it carries no lines, and its messages end. -/
def Core.laneState (c : Core) (n st : Nat) (cause : Nat := 0) : Core :=
  let was := c.f (F.QLN_STATE_STATE n)
  let c := c.setF (F.QLN_STATE_STATE n) st
  let u := c.lane n
  let c := c.setLane n { u with since := c.now, carries := false, gaveUp := false,
                                mgmt := if was = 4 then [] else u.mgmt }
  let c := if was = 4 then c.eachOf u.mgmt fun m c => c.mgmtFail n m else c
  let c := (c.lanesSync n).logRec 0x14 (leBytes 1 n ++ leBytes 1 st ++ leBytes 1 cause ++ List.replicate 8 0)
  let c := if was = 4 ∨ st = 4 then (c.groupSync n).groupSync (Nat.xor n 32) else c
  c.health

/-- A training attempt begins: DETECT at the preset taps (R290), with a block stream of its own at the RATE of QLn_CFG (R268). A
preset whose PRE and POST exceed 39 has its POST lowered to that sum (R291; log entry 59). -/
def Core.laneAttempt (c : Core) (n k : Nat) (cause : Nat := 0) : Core :=
  let pre := c.f (F.QLN_PRESET_PRE n)
  let post := min (39 - pre) (c.f (F.QLN_PRESET_POST n))
  let tx : LaneTx := { mark := c.out.length, hist := bitsOf 58 (Config.scrambler n).toNat }
  let c := c.setLane n { c.lane n with rate := c.f (F.QLN_CFG_RATE n), tx := tx }
  let c := c.setF F.QL_LIMIT_RATE (c.qlLimit c.newest)
  let c := ((c.setF (F.QLN_TAPS_PRE n) pre).setF (F.QLN_TAPS_POST n) post).setF (F.QLN_TAPS_MAIN n) (63 - pre - post)
  let c := (c.setF (F.QLN_STATE_ATTEMPT n) k).inc (R.QLN_TRAIN_CNT n)
  c.laneState n 1 cause

/-- A lane starts training anew. -/
def Core.laneStart (c : Core) (n : Nat) (cause : Nat := 0) : Core :=
  (c.setLane n { c.lane n with fails := 0 }).laneAttempt n 1 cause

/-- An ACTIVE lane falls back to DETECT with a cause (R292); but for a host's retrain that is the umpire's decision
(spec/18_fault_tolerance.md R476). -/
def Core.laneDown (c : Core) (n cause : Nat) : Core :=
  if c.laneActive n then
    let c := if cause = 4 then c else c.decision 9 3 n
    (c.post 0x0701 n cause).laneStart n cause
  else c

/-- A lane's switch opened by the umpire, in DOWN and FAILED (spec/18_fault_tolerance.md R474, R476, R494). -/
def Core.laneOut (c : Core) (n st : Nat) : Core :=
  ((c.decision 9 3 n).setF (F.QLN_STATE_ATTEMPT n) 0).laneState n st

/-- An attempt fails (R290): the next one, or DOWN after three. -/
def Core.attemptFail (c : Core) (n step : Nat) : Core :=
  let c := c.post 0x0703 n (c.f (F.QLN_STATE_ATTEMPT n) * 16 + step)
  let k := (c.lane n).fails + 1
  let c := c.setLane n { c.lane n with fails := k }
  if step = 4 then c.laneOut n 6
  else if k ≥ 3 then c.laneOut n 5
  else c.laneAttempt n (k + 1)

/-- REC_READ of a head on a lane (R282, R315). -/
def Core.recRead (c : Core) (n h : Nat) : Core := c.mgmtSend n { op := 7, arg := h * 2 ^ 38 }

/-- A lane enters ACTIVE: HEAD_ID, both trim banks and WAVE_SEL of the groups it carries, and the records read (R291,
R315). -/
def Core.laneUp (c : Core) (n : Nat) : Core :=
  let c := (c.setLane n { c.lane n with fails := 0 }).setF (F.QLN_STATE_ATTEMPT n) 0
  let c := c.laneState n 4
  let c := (c.setLane n { c.lane n with ready := c.now }).post 0x0702 n (c.f (F.QLN_STATE_FOM n))
  let g := c.newest
  let c := c.eachOf (g.carried n) fun hg c =>
    let heads := g.slotHeads hg
    let c := c.each heads.length fun i c =>
      c.mgmtSend n { op := 2, arg := hg * 2 ^ 42 + i * 2 ^ 37 + heads.getD i 0 * 2 ^ 27 + 2 ^ 26, setup := true }
    let c := (c.sendBank hg 0 [n]).sendBank hg 1 [n]
    c.eachOf heads fun h c => c.mgmtSend n { waveSel h (g.wave h) (c.web.s + 1) with setup := true }
  c.eachOf ((g.carried n).flatMap g.slotHeads).eraseDups fun h c => c.recRead n h

/-- Lanes that carry lines from this stroke event on: strictly after the last setup acknowledgement (R291). -/
def Core.lanesReady (c : Core) : Core :=
  c.each 64 fun n c =>
    let u := c.lane n
    if c.laneActive n && !u.carries && !u.gaveUp && !(u.mgmt.any (·.setup)) && decide (u.ready < c.now) then
      c.setLane n { u with carries := true }
    else c

/-! ### Codewords (R271, R292) -/

/-- Uncorrectable codewords seen on a lane, in either direction (R292). -/
def Core.laneBad (c : Core) (n k : Nat) : Core :=
  if k = 0 then c
  else
    let u := c.lane n
    let l := List.replicate k c.now ++ u.uncAt.filter fun t => c.now < t + sec
    let c := (c.setLane n { u with uncAt := l }).addN (R.QLN_FEC_UNCORR n) k
    let c := c.postLim sec 0x0709 n l.length
    if c.f F.QL_FEC_LIMIT_LIMIT < l.length then c.laneDown n 3 else c

/-- The exponents of a PRBS pattern (R295). -/
def prbsPoly (k : Nat) : Nat × Nat :=
  match k with
  | 0 => (7, 6)
  | 1 => (15, 14)
  | 2 => (23, 18)
  | _ => (31, 28)

/-- The next `k` bits of a pattern whose register holds `r`, 0 before the first; and the register after them. -/
def prbsTake (p : Nat × Nat) : Nat → Nat → List Bool × Nat
  | 0, r => ([], r)
  | k + 1, r =>
    let r := if r = 0 then 2 ^ p.1 - 1 else r
    let b := bit r (p.1 - 1) != bit r (p.2 - 1)
    let (l, r') := prbsTake p k ((2 * r + b2n b) % 2 ^ p.1)
    (b :: l, r')

/-- The checker over received bits: its reference is the first bits that it sees and runs on as the pattern does (log entry 59); the
bits that differ from it. -/
def prbsCheck (p : Nat × Nat) (ref : List Bool) (l : List Bool) : List Bool × Nat :=
  l.foldl (fun v b =>
    if v.1.length < p.1 then (b :: v.1, v.2)
    else
      let x := v.1.getD (p.1 - 1) false != v.1.getD (p.2 - 1) false
      (x :: v.1.take (p.1 - 1), v.2 + b2n (x != b))) (ref, 0)

/-- Data-block payloads. -/
def payloads (l : List Blk) : List Bool := (l.filter fun b => !b.ctl).flatMap fun b => bitsOf 64 b.w

/-- The bits that the checker of a lane looks at in a codeword received: data-block payloads (R295). -/
def Core.checked (c : Core) (n : Nat) (o : RxOut) : List Bool :=
  if c.f (F.QLN_STATE_STATE n) ≠ 7 ∨ !c.fb (F.QLN_TEST_CHK n) then []
  else match c.f (F.QLN_TEST_LOOP n) with
    | 1 | 2 | 4 => []
    | _ => if (c.lane n).rx.lock then payloads o.blks else []

/-- Those that it looks at in what the lane sends: the blocks at depth 1, the raw line bits at depth 2 (R295). -/
def Core.checkedOwn (c : Core) (n : Nat) (blks : List Blk) (sym : List Nat) : List Bool :=
  if c.f (F.QLN_STATE_STATE n) ≠ 7 ∨ !c.fb (F.QLN_TEST_CHK n) then []
  else match c.f (F.QLN_TEST_LOOP n) with
    | 1 => payloads blks
    | 2 => sym.flatMap (bitsOf 10)
    | _ => []

/-- The checker over more bits: its reference runs on, and the errors are counted. -/
def Core.checkBits (c : Core) (n : Nat) (l : List Bool) : Core :=
  let (ref, errs) := prbsCheck (prbsPoly (c.f (F.QLN_TEST_PRBS n))) (c.lane n).chk l
  (c.setLane n { c.lane n with chk := ref }).addN (R.QLN_PRBS_ERR n) errs

/-- The blocks of an output of a lane. -/
def laneBlks (m : Msg) : List Blk :=
  let w := m.fields.map (·.toNat)
  match m.kind with
  | 0xF2 => w.map fun v => ⟨true, v⟩
  | 0xF3 => w.zipIdx.map fun v => ⟨v.2 = 0 || decide (130 ≤ v.2), v.1⟩
  | 0xF5 => w.zipIdx.map fun v => ⟨v.2 = 0, v.1⟩
  | 6 => if w.length = 1 then w.map (mgmtBlk 6) else w.zipIdx.map fun v => ⟨v.2 = 0, v.1⟩
  | k => if 1 ≤ k ∧ k ≤ 7 then w.map (mgmtBlk k) else []

/-- What a generator puts into the stream (R295): nothing, or its pattern, in every usable block or, at depth 3, in those that the
board returns. -/
structure Gener where
  poly : Nat × Nat
  third : Bool
  deriving DecidableEq, Repr

/-- The 80 blocks from block `pos` of a superframe on: markers in their places (R270), the pattern in its own, in the others the
blocks that wait, IDLE where none does; and the blocks and the generator's register left. -/
def txBlks (lane : Nat) (up : Bool) (gen : Option Gener) : Nat → Nat → List Blk → Nat → List Blk × List Blk × Nat
  | 0, _, l, r => ([], l, r)
  | k + 1, pos, l, r =>
    let own := gen.filter fun g => if g.third then pos % 375 % 4 == 0 else l.isEmpty
    let (b, l, r) := if pos % 375 = 0 then (amBlk (pos / 375 % 16) lane up, l, r)
      else match own with
        | some g => let (w, r) := prbsTake g.poly 64 r; (dataBlk (ofBits w), l, r)
        | none => (l.headD idleBlk, l.drop 1, r)
    let (t, l', r') := txBlks lane up gen k (pos + 1) l r
    (b :: t, l', r')

/-- The errors of INJ = 1 and 2 in a codeword (R296): which bit, and which symbols and how, are free. -/
def injectSym (inj count v : Nat) (w : List Nat) : List Nat :=
  let at_ := v % 528
  w.zipIdx.map fun x =>
    if inj = 1 then (if x.2 = at_ then Nat.xor x.1 (2 ^ (v / 528 % 10)) else x.1)
    else if (x.2 + 528 - at_) % 528 < count then Nat.xor x.1 (1 + (v / 528 + x.2) % 1023) else x.1

/-- A downstream codeword of a lane put out (R269, R270), kind 0x600: of the blocks that wait, or of what the generator of a test
sends, or of IDLE alone in a replay without OUTPUTS (spec/19_observation_and_test.md R508); with INJ = 1 or 2, one in INJ_RATE with
its errors. -/
def Core.txWord (c : Core) (n : Nat) : Core :=
  let tx := (c.lane n).tx
  let fresh := ((c.out.take (c.out.length - tx.mark)).reverse.filter fun m => m.port = n).flatMap laneBlks
  let gen := c.f (F.QLN_STATE_STATE n) == 7 && c.fb (F.QLN_TEST_GEN n) && !c.muted
  let depth := c.f (F.QLN_TEST_LOOP n)
  let poly := prbsPoly (c.f (F.QLN_TEST_PRBS n))
  let src := if gen && depth != 2 && depth != 4 then some ⟨poly, depth == 3⟩ else none
  let (blks, wait, reg) := txBlks n false src 80 tx.pos (if c.muted then [] else tx.wait ++ fresh) tx.bits
  let (sym, hist) := codeword tx.hist tx.pos blks
  let (sym, reg) := if gen && depth == 2 then (let (l, r) := prbsTake poly 5280 reg; (symbols 528 l, r)) else (sym, reg)
  let inj := c.f (F.QLN_TEST_INJ n)
  let hit := decide (c.f (F.QLN_TEST_INJ_RATE n) ≤ tx.since + 1) && (inj == 1 || inj == 2)
  let (v, c) := if hit then c.free else (0, c)
  let sym := if hit then injectSym inj (c.f (F.QLN_TEST_INJ_SYM n)) v sym else sym
  let c := (c.emit n 0x600 (sym.map Int.ofNat)).checkBits n (c.checkedOwn n blks sym)
  c.setLane n { c.lane n with tx := { tx with
    pos := (tx.pos + 80) % 6000, hist := hist, mark := c.out.length, wait := wait, bits := reg
    since := if hit then 0 else tx.since + 1 } }

/-- A lane's downstream runs at four times the upstream's rate: four codewords for each received (R268). In OFF, DOWN and FAILED it
is idle. -/
def Core.txWords (c : Core) (n : Nat) : Core :=
  let st := c.f (F.QLN_STATE_STATE n)
  if st = 0 ∨ st = 5 ∨ st = 6 then c else c.each 4 fun _ c => c.txWord n

/-- A test frame of depth 4 (R295): the next frame of the lane's own group with a PRBS payload and S16 = 0xFFFF. -/
def Core.testFrame (c : Core) (n : Nat) : Core :=
  if c.f (F.QLN_STATE_STATE n) = 7 ∧ c.fb (F.QLN_TEST_GEN n) ∧ c.f (F.QLN_TEST_LOOP n) = 4 then
    let tx := (c.lane n).tx
    let (l, reg) := prbsTake (prbsPoly (c.f (F.QLN_TEST_PRBS n))) 2048 tx.bits
    let k := tx.frames % (c.newest.f (F.QLN_CFG_NFR_M1 n) + 1)
    let f := frameBlks n false k false 0 0xFFFF fun i => ofBits ((l.drop (4 * (i - 512 * k))).take 4)
    (c.setLane n { c.lane n with tx := { tx with bits := reg, frames := tx.frames + 1 } }).laneEmit n 0xF5
      (f.map fun b => (b.w : Int))
  else c

/-- A codeword from upstream (R271): the lock, which does not depend on the lane's state, the counters, and the checker of a test
(R295). -/
def Core.codewordUp (c : Core) (n : Nat) (sym : List Nat) : Core :=
  let u := c.lane n
  let o := u.rx.decode n true sym
  let rx := u.rx.step o
  let lost := if rx.lock then none else if u.rx.lock then some c.now else u.lockLost
  let c := (c.setLane n { u with rx := rx, lockLost := lost }).checkBits n (c.checked n o)
  let c := c.setB (F.QLN_STATE_UP_LOCK n) rx.lock
  let c := match o.cw with
    | .clean => c
    | .corrected => c.inc (R.QLN_FEC_CORR n)
    | .uncorrectable => c.laneBad n 1
  c.txWords n

/-- QL_UPLOCK_LOSS: the upstream receiver out of lock for 1 ms (R292). -/
def execQlUplockLoss (n : Fin 64) (s : State) : Host.Outcome State Fault Refusal :=
  let c := s.core
  let due := match (c.lane n).lockLost with
    | some t => decide (t + msec ≤ c.now)
    | none => false
  .next { s with core := if due then c.laneDown n 2 else c }

/-! ### Training (R289-R291) -/

/-- QL_HELLO_RX: a HELLO with LOCK moves DETECT to TRAIN. -/
def execQlHelloRx (n : Fin 64) (arg : BitVec 48) (s : State) : Host.Outcome State Fault Refusal :=
  let c := s.core
  let lock := bit arg.toNat 41
  let r :=
    if c.f (F.QLN_STATE_STATE n) = 0 then c
    else
      let c := c.setB (F.QLN_STATE_BOARD_LOCK n) lock
      if c.f (F.QLN_STATE_STATE n) = 1 ∧ lock then c.laneState n 2 else c
  .next { s with core := r }

/-- A tap request applied: PRE, POST, MAIN and whether the step was at its limit (R291). -/
def tapStep (pre post prePre prePost : Nat) (isPost : Bool) (action : Nat) : Nat × Nat × Bool :=
  let ok := fun (p q : Int) => decide (0 ≤ p) && decide (p ≤ 15) && decide (0 ≤ q) && decide (q ≤ 31) && decide (p + q ≤ 39)
  match action with
  | 0 => (pre, post, false)
  | 3 => if ok prePre prePost then (prePre, prePost, false) else (pre, post, true)
  | a =>
    let d : Int := if a = 1 then 1 else -1
    let p : Int := if isPost then pre else pre + d
    let q : Int := if isPost then post + d else post
    if ok p q then (p.toNat, q.toNat, false) else (pre, post, true)

/-- QL_TAP_REQ_RX. -/
def execQlTapReqRx (n : Fin 64) (arg : BitVec 48) (s : State) : Host.Outcome State Fault Refusal :=
  let c := s.core
  let a := arg.toNat
  let st := c.f (F.QLN_STATE_STATE n)
  let r :=
    if st ≠ 2 ∧ st ≠ 4 then c
    else
      let c := c.setF (F.QLN_STATE_FOM n) (bits a 40 8)
      if bit a 35 ∧ st = 2 then c.attemptFail n 4
      else
        let (pre, post, lim) := tapStep (c.f (F.QLN_TAPS_PRE n)) (c.f (F.QLN_TAPS_POST n)) (c.f (F.QLN_PRESET_PRE n))
          (c.f (F.QLN_PRESET_POST n)) (bit a 39) (bits a 37 2)
        let main := 63 - pre - post
        let c := ((c.setF (F.QLN_TAPS_PRE n) pre).setF (F.QLN_TAPS_POST n) post).setF (F.QLN_TAPS_MAIN n) main
        let c := c.laneEmit n 1 [((pre * 2 ^ 44 + post * 2 ^ 39 + main * 2 ^ 33 + b2n lim * 2 ^ 31 : Nat) : Int)]
        if st = 2 then (if bit a 36 then c.laneState n 3 else c.setLane n { c.lane n with since := c.now }) else c
  .next { s with core := r }

/-- QL_STEP_TIMEOUT: 20 ms without the message a step expects (R290). -/
def execQlStepTimeout (n : Fin 64) (s : State) : Host.Outcome State Fault Refusal :=
  let c := s.core
  let st := c.f (F.QLN_STATE_STATE n)
  let due := decide (1 ≤ st) && decide (st ≤ 3) && decide ((c.lane n).since + 20 * msec ≤ c.now)
  .next { s with core := if due then c.attemptFail n st else c }

/-- QL_LOCK_TIMER: 1 ms in LOCK without an uncorrectable codeword (R289). -/
def execQlLockTimer (n : Fin 64) (s : State) : Host.Outcome State Fault Refusal :=
  let c := s.core
  let u := c.lane n
  let from_ := max u.since (u.uncAt.headD 0)
  let due := c.f (F.QLN_STATE_STATE n) == 3 && decide (from_ + msec ≤ c.now)
  .next { s with core := if due then c.laneUp n else c }

/-- QL_DOWN_RETRY: one attempt a second in DOWN (R290). -/
def execQlDownRetry (n : Fin 64) (s : State) : Host.Outcome State Fault Refusal :=
  let c := s.core
  let due := c.f (F.QLN_STATE_STATE n) == 5 && decide ((c.lane n).since + sec ≤ c.now)
  .next { s with core := if due then c.laneAttempt n 1 else c }

/-- A host retrain of a lane: cause 4 from ACTIVE, a restart from FAILED (R290, R292). -/
def Core.laneRetrain (c : Core) (n : Nat) : Core :=
  if c.laneActive n then c.laneDown n 4
  else if c.f (F.QLN_STATE_STATE n) = 6 then c.laneStart n else c

/-- QL_RETRAIN: 1 written to QLn_CTRL.RETRAIN. -/
def execQlRetrain (n : Fin 64) (s : State) : Host.Outcome State Fault Refusal :=
  .next { s with core := s.core.hostReg .host0 (R.QLN_CTRL n) 1 fun c => c.laneRetrain n }

/-- LANE_RETRAIN (R399). -/
def Core.cmdLaneRetrain (c : Core) (q : CmdIn) : CmdOut :=
  done (c.each 64 fun n c => if bit (q.u64 0) n then c.laneRetrain n else c)

/-- LANE_RETRAIN. -/
def execLaneRetrain (p : Packet) (s : State) : Host.Outcome State Fault Refusal :=
  .next { s with core := s.core.command 0xA2 p Core.cmdLaneRetrain }

/-- A write of QLn_CFG: NFR_M1 to the shadow; EN starts the lane, or returns it to electrical idle (R289). A lane in TEST stays
there (R296); the upstream receiver keeps its lock (R271). -/
def Core.qlCfg (c : Core) (n v : Nat) : Core :=
  let was := c.fb (F.QLN_CFG_EN n)
  let c := c.setN (R.QLN_CFG n) (v % 512)
  if c.f (F.QLN_STATE_STATE n) = 7 then c
  else if bit v 0 && !was then c.laneStart n
  else if !bit v 0 && was then (c.setF (F.QLN_STATE_ATTEMPT n) 0).laneState n 0
  else c

/-- QL_CFG_WRITE. -/
def execQlCfgWrite (n : Fin 64) (v : Word) (s : State) : Host.Outcome State Fault Refusal :=
  .next { s with core := s.core.hostReg .host0 (R.QLN_CFG n) v fun c => c.qlCfg n v.toNat }

/-! ### Messages from the boards (R278-R281, R292-R294) -/

/-- A board's mode for a group reported: 0x0704 on the change to MIRROR (R293), and the protection that follows from it. -/
def Core.boardMode (c : Core) (g mode : Nat) : Core :=
  let was := c.pairBit R.QL_MIRRONLY_LO g
  let c := (c.setPairBit R.QL_MIRRONLY_LO g (mode = 1)).setMode g mode
  let c := if mode = 1 ∧ ¬ was then c.post 0x0704 g g else c
  c.groupSync g

/-- QL_ACK_RX. -/
def Core.mgmtAck (c : Core) (n op result : Nat) : Core :=
  let u := c.lane n
  match u.mgmt.find? (fun m => m.op = op) with
  | none => c
  | some m =>
    let c := c.setLane n { u with mgmt := u.mgmt.erase m, ready := if m.setup then c.now else u.ready }
    let h := m.arg / 2 ^ 38
    match op with
    | 4 =>
      if result = 0 then (c.post 0x0705 (m.arg / 2 ^ 42) (m.arg / 2 ^ 42)).answerWaiting 0xA0 rDone
      else c.answerWaiting 0xA0 rHwFault
    | 6 =>
      let v := c.head h
      if result = 0 then
        match v.writing with
        | some bytes =>
          let c := c.setHead h { v with writing := none, seq := (v.seq + 1) % 2 ^ 32 }
          c.byCox.put (c.n64 R.HH_REC_BASE_LO + 64 * h) bytes
        | none => c
      else (c.setHead h { v with writing := none, fired := true }).post 0x0809 h ((v.seq + 1) % 2 ^ 32)
    | _ => c

def execQlAckRx (n : Fin 64) (arg : BitVec 48) (s : State) : Host.Outcome State Fault Refusal :=
  .next { s with core := s.core.mgmtAck n (bits arg.toNat 40 8) (bits arg.toNat 32 8) }

/-- Each message is sent again, and given up after the eighth resend (R278). -/
def Core.mgmtResend (c : Core) (n : Nat) : Core :=
  let u := c.lane n
  let stale := u.mgmt.filter fun m => 8 ≤ m.tries
  let again := (u.mgmt.filter fun m => m.tries < 8).map fun m => { m with tries := m.tries + 1 }
  let c := c.setLane n { u with mgmt := again }
  let c := c.eachOf stale fun m c => (c.post 0x0710 n m.op).mgmtFail n m
  c.eachOf again fun m c => c.laneEmit n m.op (c.mgmtFields m)

/-- MGMT_RESEND: a gap passes on a lane that is ACTIVE, or in TEST with a LOOP message. -/
def execMgmtResend (n : Fin 64) (s : State) : Host.Outcome State Fault Refusal :=
  let st := s.core.f (F.QLN_STATE_STATE n)
  .next { s with core := if st = 4 ∨ st = 7 then s.core.mgmtResend n else s.core }

/-- The growth of what a lane's two reports have counted (log entry 41). -/
def reported (u : Lane) (link : Bool) (k : Nat) : Lane × Nat :=
  let v := if link then { u with sumL := u.sumL + k } else { u with sumS := u.sumS + k }
  (v, max v.sumS v.sumL - max u.sumS u.sumL)

def Core.laneReport (c : Core) (g : Nat) (link : Bool) (k : Nat) : Core :=
  let (u, d) := reported (c.lane g) link k
  (c.setLane g u).laneBad g d

/-- The board's mode and locks of a group (R292, R293). A LINK that names MIRROR after one on the same upstream has reports a
failed primary frame (R283; log entry 59). -/
def Core.linkRx (c : Core) (n a : Nat) : Core :=
  let g := bits a 42 6
  let mode := bits a 40 2
  let pl := bit a 39
  let ml := bit a 38
  let k := bits a 30 8
  let c := c.setB (F.QLN_STATE_BOARD_LOCK g) pl
  let c := if c.pairMirrored g then c.setB (F.QLN_STATE_BOARD_LOCK (Nat.xor g 32)) ml else c
  let c := c.boardMode g mode
  let said := (c.group g).said
  let again := mode = 1 ∧ (if n = g then said.1 else said.2)
  let c := if again then c.setLane g { c.lane g with frameFail := some c.now } else c
  let c := c.setGroup g { c.group g with said := if n = g then (mode == 1, said.2) else (said.1, mode == 1) }
  let c := if n = g ∨ ¬ c.fb (F.QLN_STATE_UP_LOCK g) then c.laneReport g true k else c
  let c := if !pl then c.laneDown g 1 else c
  if !ml && c.pairMirrored g then c.laneDown (Nat.xor g 32) 1 else c

/-- QL_LINK_RX. -/
def execQlLinkRx (n : Fin 64) (arg : BitVec 48) (s : State) : Host.Outcome State Fault Refusal :=
  .next { s with core := s.core.linkRx n arg.toNat }

/-- The stroke that a bar fired last. -/
def Core.lastStroke (c : Core) (b : Nat) : Nat := ((c.bar b).curLine + (c.bar b).d).toNat

/-- QL_STATUS_RX: the line fired (R280, R293). -/
def Core.statusRx (c : Core) (f : Nat) : Core :=
  let g := bits f 50 6
  let s16 := bits f 34 16
  let fromMirror := bits f 27 7
  let lost := bits f 20 7
  let b := (c.newest.groupBar g).getD 0
  let s := c.lastStroke b
  let c := ((c.addN (R.QLN_FALLBACK g) fromMirror).perfAdd (96 + g) fromMirror).addN (R.QLN_LOST g) lost
  let c := (c.setF (F.QLN_STATE_FOM g) (bits f 12 8)).setF (F.QLN_LAST_TAG_TAG g) s16
  let c := if lost ≠ 0 ∨ fromMirror ≠ 0 then
      c.logRec 0x14 (leBytes 1 g ++ leBytes 1 (c.f (F.QLN_STATE_STATE g)) ++ leBytes 1 0 ++ leBytes 8 (0xF2 * 2 ^ 56 + f))
    else c
  let c := c.boardMode g (bits f 10 2)
  let c := c.laneReport g false (bits f 0 8)
  let c := if lost ≠ 0 then
      let line := (s : Int) - (c.bar b).d
      c.defectLines 0x0708 b line.toNat line.toNat
    else c
  let c := if s16 ≠ s % 65536 then c.post 0x070A g (s % 65536 * 65536 + s16) else c
  let c := if bit f 8 then c.post 0x070B g (s % 65536) else c
  if bit f 9 then c.post 0x070C g (c.group g).bank else c

def execQlStatusRx (n : Fin 64) (f : BitVec 56) (s : State) : Host.Outcome State Fault Refusal :=
  .next { s with core := if s.core.f (F.QLN_STATE_STATE n) = 0 ∨ s.core.replay then s.core else s.core.statusRx f.toNat }

/-- SWITCH_BACK of a group whose board prints from the mirror (R294): the reply waits for the ACK of SELECT AUTO. -/
def Core.groupBack (c : Core) (g : Nat) : CmdOut :=
  let u := c.lane g
  let clean := u.uncAt.all fun t => decide (t + sec ≤ c.now)
  let quiet := match u.frameFail with
    | some t => decide (t + sec ≤ c.now)
    | none => true
  if c.laneActive g && clean && quiet then (c.mgmtSend g { op := 4, arg := g * 2 ^ 42 }, none)
  else (c, some (rHwFault, []))

/-! ### Test (R295, R296) -/

/-- The lane carries no line. -/
def Core.laneIdle (c : Core) (n : Nat) : Bool :=
  !(c.st == stArmed || c.running || c.replay) || c.newest.carried n == []

/-- A write of QLn_TEST (R296): the board is told of depths 3 and 4 with LOOP messages, which await their ACK (R278, R295). -/
def Core.qlTest (c : Core) (n v : Nat) : Core :=
  let old := c.f (F.QLN_TEST_LOOP n)
  let gen := c.fb (F.QLN_TEST_GEN n)
  let free := c.laneIdle n
  let c := (((c.setF (F.QLN_TEST_PRBS n) (v % 4)).setF (F.QLN_TEST_INJ n) (bits v 8 2)).setF (F.QLN_TEST_INJ_SYM n)
    (bits v 10 4)).setF (F.QLN_TEST_INJ_RATE n) (bits v 16 16)
  let loop := if 5 ≤ bits v 4 3 then old else bits v 4 3
  if free then
    let c := ((c.setF (F.QLN_TEST_GEN n) (bits v 2 1)).setF (F.QLN_TEST_CHK n) (bits v 3 1)).setF (F.QLN_TEST_LOOP n) loop
    let depth := fun l => if 3 ≤ l then l else 0
    let on := bit v 2 || bit v 3 || loop != 0
    let was := c.f (F.QLN_STATE_STATE n) == 7
    let c := c.setLane n { c.lane n with chk := [] }
    let c := if on && !was then c.laneState n 7 else c
    let c := if depth loop ≠ depth old then c.mgmtSend n { op := 5, arg := depth loop * 2 ^ 45 } else c
    if on then (if bit v 2 && (!gen || loop != old) then c.testFrame n else c)
    else if was then
      let c := c.post 0x070F n (c.n (R.QLN_PRBS_ERR n))
      if c.fb (F.QLN_CFG_EN n) then c.laneStart n else c.laneState n 0
    else c
  else c

/-- QL_TEST_WRITE. -/
def execQlTestWrite (n : Fin 64) (v : Word) (s : State) : Host.Outcome State Fault Refusal :=
  .next { s with core := s.core.hostReg .host0 (R.QLN_TEST n) v fun c => c.qlTest n v.toNat }

/-- QL_FRAME_CHECK_RX: a failed test frame is counted by the checker, and the next one is sent (R295; log entry 59). -/
def execQlFrameCheckRx (n : Fin 64) (arg : BitVec 48) (s : State) : Host.Outcome State Fault Refusal :=
  let c := s.core
  let counts := c.f (F.QLN_TEST_LOOP n) == 4 && c.fb (F.QLN_TEST_CHK n) && !bit arg.toNat 41
  .next { s with core := (if counts then c.inc (R.QLN_PRBS_ERR n) else c).testFrame n }

end Sys2Proof.Machine
end

