-- ==== Sys2Proof/Machine/Records.lean ====
section
/-!
DEFINITION. Usage records (spec/11_head_health.md R313-R316): their bytes and tags, verification and adoption, and the
writes at HH_REC_PERIOD, job end and HOLD.
-/

namespace Sys2Proof.Machine

/-- TAG of a record (R314): the first 8 bytes of HMAC-SHA-256 with K_h over bytes 0 to 55. -/
def Core.recTag (c : Core) (l : List Byte) : List Byte := (hmac (hmac c.usageKey (slice l 0 8)) (slice l 0 56)).take 8

/-- A record's 64 bytes (R313). -/
def Core.recBytes (c : Core) (uid h seq drops hot on dev : Nat) (theta : Int) : List Byte :=
  let l := leBytes 8 uid ++ leBytes 2 h ++ leBytes 1 1 ++ leBytes 1 0 ++ leBytes 4 seq ++ leBytes 8 drops ++
    leBytes 4 hot ++ leBytes 4 on ++ leBytes 2 (wrap 16 theta) ++ leBytes 2 0 ++ leBytes 4 dev ++ List.replicate 16 0
  l ++ c.recTag l

/-- The ACTIVE lane of lowest number that carries a copy of a group of the head. -/
def Core.headLane (c : Core) (h : Nat) : Option Nat :=
  let g := c.newest
  (sortNat ((g.headGroups h).flatMap g.lanesOf)).find? c.laneActive

/-- A record written to a head: REC_WRITE with the next SEQ (R316); 0x0809 where no lane can carry it, and the write is tried
again at the next write time. -/
def Core.recWrite (c : Core) (h : Nat) : Core :=
  let u := c.head h
  if u.valid && u.writing.isNone then
    match c.headLane h with
    | none => (c.setHead h { u with fired := true, recAt := c.now }).post 0x0809 h ((u.seq + 1) % 2 ^ 32)
    | some n =>
      let bytes := c.recBytes u.uid h ((u.seq + 1) % 2 ^ 32) u.drops u.hotS u.onS (c.n R.DEV_UID_LO) u.thetaMax
      let c := c.setHead h { u with writing := some bytes, fired := false, recAt := c.now }
      c.mgmtSend n { op := 6, arg := h * 2 ^ 38 }
  else c

/-- The records of every head that has a VALID one: at job end and on entry to HOLD. -/
def Core.recWriteAll (c : Core) : Core := c.eachOf c.newest.heads fun h c => c.recWrite h

/-- REC_WRITE_TIMER: every HH_REC_PERIOD seconds while the head has fired. -/
def execRecWriteTimer (s : State) : Host.Outcome State Fault Refusal :=
  let c := s.core
  let p := c.f F.HH_REC_PERIOD_S
  let due := fun h => p ≠ 0 && (c.head h).fired && decide ((c.head h).recAt + p * sec ≤ c.now)
  .next { s with core := c.eachOf (c.newest.heads.filter due) fun h c => c.recWrite h }

/-- A record of HEAD_UID `uid` that fails its check (R315): REC_AUTH_FAIL, 0x0808, and the blank where AUTH_POL is set. -/
def Core.recBad (c : Core) (h uid : Nat) : Core :=
  let c := c.setHead h { c.head h with valid := false }
  let c := ((c.setB (F.HH_THETA_REC_VALID h) false).setB (F.HH_THETA_REC_AUTH_FAIL h) true).post 0x0808 h uid
  if c.fb F.HH_CFG_AUTH_POL then c.blankHead h 2 (c.web.s + 2) else c

/-- A VALID record taken. Of a head that the device counts already, the counts since its last write stand (R316). -/
def Core.recGood (c : Core) (h : Nat) (l : List Byte) : Core :=
  let u := c.head h
  let c := if u.valid && u.uid == le l 0 8 then c.setHead h { u with seq := max u.seq (le l 12 4) }
    else c.setHead h { u with uid := le l 0 8, valid := true, seq := le l 12 4, drops := le l 16 8, hotS := le l 24 4
                              onS := le l 28 4, thetaMax := sext 16 (le l 32 2), recAt := c.now }
  let c := (c.setB (F.HH_THETA_REC_VALID h) true).setB (F.HH_THETA_REC_AUTH_FAIL h) false
  c.unblankHead h 2 (c.web.s + 1)

/-- A record read (R315): verified, adopted or refused. -/
def Core.recRx (c : Core) (h : Nat) (valid : Bool) (l : List Byte) : Core :=
  let tag := slice l 56 8
  let new := bit (le l 11 1) 0 && tag == List.replicate 8 0 && slice l 16 16 == List.replicate 16 0
  let ok := valid && tag == c.recTag l
  let adopt := valid && !ok && new && c.fb F.HH_CFG_ADOPT_EN
  let c := if ok then (c.recGood h l).byCox.put (c.n64 R.HH_REC_BASE_LO + 64 * h) (slice l 0 64)
    else if adopt then ((c.recGood h l).recWrite h).post 0x0807 h (le l 0 4)
    else c.recBad h (le l 0 4)
  match c.hi.async.find? (fun a => a.op = 0x49 ∧ a.a = h) with
  | some a => c.asyncEnd a (if ok || adopt then rDone else rAuthFail)
  | none => c

/-- QL_RECORD_RX: a RECORD whose CRC fails is no answer (log entry 42). -/
def execQlRecordRx (n : Fin 64) (f : BitVec 56) (data : List Byte) (crc : Word) (s : State) :
    Host.Outcome State Fault Refusal :=
  let c := s.core
  let l := slice data 0 64
  let good := crc32c (leBytes 8 (0xF5 * 2 ^ 56 + f.toNat) ++ l) == crc
  .next { s with core := if c.laneActive n && good then c.recRx (bits f.toNat 46 10) (bit f.toNat 45) l else c }

/-- REC_REFRESH (R392): the record is read again. -/
def Core.cmdRecRefresh (c : Core) (q : CmdIn) : CmdOut :=
  let h := q.u16 0
  c.judge [((c.asyncOf 0x49).isSome, rBusy), (decide (1023 < h), rRange)] fun c =>
    let c := c.start 0x49 q h
    match c.headLane h with
    | some n => accepted (c.recRead n h)
    | none => match c.asyncOf 0x49 with
      | some a => accepted (c.asyncEnd a rHwFault)
      | none => accepted c

/-- REC_REFRESH. -/
def execRecRefresh (p : Packet) (s : State) : Host.Outcome State Fault Refusal :=
  .next { s with core := s.core.command 0x49 p Core.cmdRecRefresh }

end Sys2Proof.Machine
end

