-- ==== Sys2Proof/Machine/Jobs.lean ====
section
/-!
DEFINITION. Jobs (spec/13_host_and_command_protocol.md R368-R371, spec/14_command_reference.md R388-R391): opening,
arming, ending and aborting one; surfaces and panels (spec/04_surfaces_and_layers.md R109-R122, R132), the shadow's
tables and its revert (R385, R386); snapshots and digests of the logbook (spec/19_observation_and_test.md R498, R500).
-/

namespace Sys2Proof.Machine

/-! ### Reading DRAM for a command (spec/12_memory.md R333) -/

/-- Bytes that the active cox reads (R325). -/
def Core.coxFetch (c : Core) (pa n : Nat) : Core × Option (List Byte) := c.byCox.fetch pa n

/-- A command that reads DRAM: ALIGN for an address off 64 bytes, MEMORY for poison, which an address that decodes to nothing gives
too (spec/12_memory.md R324). -/
def Core.reading (c : Core) (first : List (Bool × Nat)) (align : Bool) (pa n : Nat) (run : Core → List Byte → CmdOut) :
    CmdOut :=
  c.judge (first ++ [(align && pa % 64 != 0, rAlign)]) fun c =>
    match c.coxFetch pa n with
    | (c, some l) => run c l
    | (c, none) => (c, some (rMemory, []))

/-- The 16-bit little-endian numbers of a byte list. -/
def pairs16 : List Byte → List Nat
  | a :: b :: l => (a.toNat + 256 * b.toNat) :: pairs16 l
  | _ => []

/-- A table from the values of keys 0, 1, 2, …. -/
def tabOf {α : Type} [DecidableEq α] (d : Nat → α) (l : List α) : Tab α :=
  l.zipIdx.filterMap fun p => if p.1 = d p.2 then none else some (p.2, p.1)

/-! ### Snapshots and digests -/

/-- SNAPSHOT (R498), while the logbook records. -/
def Core.logSnapshot (c : Core) : Core := if c.logging then c.logSnap else c

/-- DIGEST of an object, and with DATA_EN its bytes (R498, R500): kinds 0 surface, 1 band, 2 colour tables, 3 threshold
array, 4 head map. -/
def Core.logDigest (c : Core) (kind id pa : Nat) (l : List Byte) : Core :=
  if c.logging then
    let c := c.logRec 9 (leBytes 2 id ++ leBytes 2 kind ++ leBytes 8 pa ++ leBytes 8 l.length ++ sha256 l)
    if c.fb F.LOG_CFG_DATA_EN then c.logRec 0x0A l else c
  else c

/-! ### Opening, closing and ending a job (R371, R388) -/

/-- Every live generation retires; the one accepted last stays the configuration in force. -/
def Core.retireAll (c : Core) : Core :=
  { c with job := { c.job with force := c.newest } }.retireTo [] c.job.gens

/-- Every panel binding released, and with it the bands that the bridge has bound. -/
def Core.releaseAll (c : Core) : Core :=
  (c.each 8 fun n c =>
    let y := c.layer n
    let c := (c.setLayer n { y with panels := [] }).depthSync n
    c.eachOf y.panels fun p c => c.post 0x0305 n p.k).lpRelease

/-- JOB_OPEN. -/
def Core.openJob (c : Core) (id : Nat) : Core :=
  let c := c.retireAll
  let c := { c with job := { c.job with isOpen := true, id := id, committed := false, occs := [] } }
  let c := c.each 8 fun n c => ((c.setLayer n {}).setF (F.LAY_QSTAT_DEPTH n) 0).setN (R.LAY_QNEXT n) 0
  c.logSnapshot.goto stReady

/-- A job is closed: JOB_CLOSE, or leaving SAFE (R371, R388); the bridge's with it (spec/15_lh460_compatibility.md R415). -/
def Core.closeJob (c : Core) : Core :=
  let c := c.retireAll.releaseAll
  let c := if c.fb F.LG_STAT_OWNER then c.lpClosed else c
  { c with job := { c.job with isOpen := false, committed := false } }

/-- No line is in flight: a bank loaded for a line to come is in use, and both are free (spec/03_firing.md R93). -/
def Core.banksIdle (c : Core) : Core :=
  c.each 64 fun hg c =>
    let u := c.group hg
    let want := if u.want = [] then [] else [0]
    match u.next with
    | some _ => c.setGroup hg { u with bank := 1 - u.bank, next := none, since := 0, want := want }
    | none => c.setGroup hg { u with since := 0, want := want }

/-- The positions of a job cleared: S_TOF, every D_b and f_b (R371); the FIRE outputs are inactive (spec/03_firing.md R86) and
no version waits for a line (spec/06_screening_and_nozzles.md R177). -/
def Core.clearTof (c : Core) : Core :=
  let c := c.blankSpans false
  let c := c.set64 R.DEV_TOF_LO 0
  let c := c.each 16 fun b c =>
    let c := c.setBar b { c.bar b with d := 0, f := 0, pend := [], active := false }
    ((c.setN (R.FIRE_OFFSET_INT b) 0).setN (R.FIRE_OFFSET_FRAC b) 0).pendSync b
  let c := c.versionsIdle.banksIdle
  { c with job := { c.job with
      tof := false, trig := false, aborting := false, occs := [], crewDMin := none } }

/-- Entry to READY from PRINTING or HOLD (R371). -/
def Core.toReady (c : Core) : Core :=
  let c := c.retireTo (c.job.gens.take 1) (c.job.gens.drop 1)
  let c := c.releaseAll
  let c := c.each 8 fun n c => (c.setLayer n {}).setN (R.LAY_QNEXT n) 0
  let c := c.clearTof
  let gens := c.job.gens.map fun (g : Gen) => { g with le := 0 }
  let c := { c with job := { c.job with gens := gens } }
  let c := c.eachOf c.ump.audits fun a c => c.abandonAudit a (c.web.s + 1)
  let c := { c with pipe := { c.pipe with done := [], done2 := [], late := [] } }.nibsStop
  (c.inflightSync.goto stReady).fwHandover

/-- ARM. -/
def Core.armJob (c : Core) (byPos : Bool) (pos : Int) : Core :=
  { c with job := { c.job with byPos := byPos, pos := pos, trig := false }
           ump := { c.ump with auditOn := c.fb F.UMP_CFG_AUDIT_EN, auditShift := 0 } }.goto stArmed

/-- TOF: the trigger is taken at the next stroke event. -/
def Core.tofJob (c : Core) : Core := { c with job := { c.job with trig := true } }

/-- DISARM. -/
def Core.disarmJob (c : Core) : Core := { c with job := { c.job with trig := false } }.goto stReady

/-- The last stroke whose line bar `b` fired when an abort ends: before its first line still pending, if it has one. -/
def Core.lastFired (c : Core) (b : Nat) : Int :=
  match (c.bar b).pend with
  | p :: _ => (p.s : Int) - 1
  | [] => min c.web.s c.job.abortLast

/-- The abort is complete: its defect record and READY (R370). -/
def Core.abortDone (c : Core) : Core :=
  let bars := c.barsInUse
  let far := (bars.find? fun b => decide ((c.bar b).d = c.dMax)).getD 0
  let l0 := (c.lastFired far + 1 - (c.bar far).d).toNat
  let l1 := bars.foldl (fun m b => max m (c.toLast (c.lastFired b - (c.bar b).d))) ((l0 : Int) - 1)
  let c := if c.fb F.LG_STAT_OWNER then c.lpFaultAll 4 else c
  let (p, n) := c.strokeSpan (l0 + c.sTof) (l1 + c.sTof).toNat
  (c.defect 0x0A09 31 l0 p n).toReady

/-- The web stands still: a device that prints holds (R57, spec/11_head_health.md R316), after a job command in execution (R372). -/
def Core.webStill (c : Core) : Core :=
  if c.st = stPrinting && !c.jobWaits then (if c.job.aborting then c.abortDone else (c.goto stHold).recWriteAll) else c

/-- ABORT: from ARMED at once; from PRINTING or HOLD line transmission stops, and at standstill all is done at once. -/
def Core.abortJob (c : Core) : Core :=
  if c.st = stArmed then (if c.fb F.LG_STAT_OWNER then c.lpFaultAll 4 else c).disarmJob
  else
    let c := { c with job := { c.job with aborting := true, abortLast := c.web.s + 1 } }
    if c.st = stHold ∨ c.webStands then c.abortDone else c

/-! ### Derate records (spec/11_head_health.md R303) -/

/-- The CC fields of a segment entry. -/
def ccFields (e : Nat) : Nat := bits e 4 12

/-- A host generation that changes CC in a derated segment discards that segment's record. -/
def Core.derateDiscard (c : Core) (g prev : Gen) : Core :=
  let cc := fun (h : Gen) s => ccFields (Tab.get (fun _ => 0) h.tabs.seg s).toNat
  c.eachOf (c.heads.filter fun e => e.2.derate ≠ []) fun e c =>
    let u := c.head e.1
    c.setHead e.1 { u with derate := u.derate.filter fun d => cc g d.1 = cc prev d.1 }

/-! ### Surfaces (spec/04_surfaces_and_layers.md R109-R112, spec/14_command_reference.md R389) -/

/-- Bytes of a line of plane 1, and of plane 2. -/
def Surf.line1 (s : Surf) : Nat := ceilDiv (s.width * s.bpp) 8
def Surf.line2 (s : Surf) : Nat := ceilDiv s.width 2 * 4

/-- The descriptor of SURF_REGISTER (R109). -/
def surfOf (q : CmdIn) : Surf :=
  { state := 1, fmt := bits (q.u8 2) 0 3, tiled := bit (q.u8 2) 3, cov := bit (q.u8 2) 4, width := q.u32 4, height := q.u32 8
    stride := q.u32 12, base := q.u64 16, base2 := q.u64 24, stride2 := q.u32 32, covStride := q.u32 36, covBase := q.u64 40 }

/-- The regions of DRAM that a registered surface names: raw planes, or the tile index and the tile data's base. -/
def Surf.regions (s : Surf) : List (Nat × Nat) :=
  if s.tiled then [(s.base, 8 * s.tilesX * s.tilesY), (s.base2, 64)]
  else [(s.base, s.stride * (s.height - 1) + s.line1)] ++
    (if s.fmt = 2 then [(s.base2, s.stride2 * (ceilDiv s.height 2 - 1) + s.line2)] else []) ++
    (if s.cov then [(s.covBase, s.covStride * (s.height - 1) + s.width)] else [])

/-- The checks of SURF_REGISTER. -/
def Core.surfChecks (c : Core) (q : CmdIn) : List (Bool × Nat) :=
  let id := q.u16 0
  let s := surfOf q
  let raw := !s.tiled
  let badZero := q.u8 3 != 0 || decide (31 < q.u8 2) || (s.tiled && s.stride != 0) || (raw && s.fmt != 2 && s.base2 != 0) ||
    ((s.tiled || s.fmt != 2) && s.stride2 != 0) || ((s.tiled || !s.cov) && (s.covStride != 0 || s.covBase != 0))
  let short := (raw && decide (s.stride < s.line1)) || (raw && s.fmt == 2 && decide (s.stride2 < s.line2)) ||
    (raw && s.cov && decide (s.covStride < s.width))
  let outside := s.regions.any fun r => !c.mayReach r.1 r.2 || decide (c.mirTop < r.1 + r.2)
  let off := [s.stride, s.base, s.base2, s.stride2, s.covStride, s.covBase].any fun v => v % 64 != 0
  [(decide (4 < s.fmt) || (s.cov && decide (3 ≤ s.fmt)) || (decide (id < 1024) && (c.surf id).state != 0) || badZero, rBadParam),
    (decide (1023 < id) || s.width == 0 || decide (131072 < s.width) || s.height == 0 || decide (16777215 < s.height) || short ||
      outside, rRange),
    (off, rAlign)]

/-- SURF_REGISTER. -/
def Core.cmdSurfRegister (c : Core) (q : CmdIn) : CmdOut :=
  c.judge (c.surfChecks q) fun c => done (c.setSurf (q.u16 0) (surfOf q))

/-- The entries of a tile row: OFFSET and LEN (R110). -/
def tileRow (l : List Byte) (n row : Nat) : List (Nat × Nat) :=
  (List.range n).map fun i => let e := le l (8 * (row * n + i)) 8; (bits e 0 40, bits e 40 18)

/-- SURF_RESIDENT (R389): the tile index is scanned before the reply. -/
def Core.cmdSurfResident (c : Core) (q : CmdIn) : CmdOut :=
  let id := q.u16 0
  let s := c.surf id
  let begin_ := fun (s : Surf) (c : Core) =>
    accepted ((c.setSurf id { s with digesting := true }).start 0x23 q id)
  c.judge [(decide (id < 1024) && s.digesting, rBusy), (decide (id < 1024) && s.state != 1, rBadParam),
    (decide (1023 < id), rRange)] fun c =>
    if s.tiled then
      match c.coxFetch s.base (8 * s.tilesX * s.tilesY) with
      | (c, none) => (c, some (rMemory, []))
      | (c, some l) =>
        let rows := (List.range s.tilesY).map (tileRow l s.tilesX)
        if rows.any fun r => r.any fun e => e.1 % 64 != 0 then (c, some (rAlign, []))
        else begin_ { s with maxRow := rows.foldl (fun m r => max m (r.map (·.2)).sum) 0 } c
    else begin_ s c

/-- The stretches of DRAM of a surface in the order of its digest (R500). -/
def Core.surfParts (c : Core) (s : Surf) : List (Nat × Nat) :=
  if s.tiled then
    let n := 8 * s.tilesX * s.tilesY
    (s.base, n) :: (match c.rd s.base n with
      | some l => (List.range s.tilesY).flatMap fun r => (tileRow l s.tilesX r).map fun e => (s.base2 + e.1, e.2)
      | none => [])
  else
    (List.range s.height).map (fun y => (s.base + y * s.stride, s.line1)) ++
    (if s.fmt = 2 then (List.range (ceilDiv s.height 2)).map fun y => (s.base2 + y * s.stride2, s.line2) else []) ++
    (if s.cov then (List.range s.height).map fun y => (s.covBase + y * s.covStride, s.width) else [])

/-- The bytes of a surface in the order of its digest (R500), read as class BE (spec/14_command_reference.md R389). -/
def Core.surfBytes (c : Core) (s : Surf) : Core × Option (List Byte) :=
  (c.surfParts s).foldl (fun (c, acc) p =>
    match acc with
    | none => (c, none)
    | some l => match { c with mem := { c.mem with last := some (50 + c.activeCox, .be) } }.fetch p.1 p.2 with
      | (c, some m) => (c, some (l ++ m))
      | (c, none) => (c, none)) (c, some [])

/-- A line computed under a not-ready decision that has not been made (R132). -/
def Core.underNotReady (c : Core) (l : Nat) : Bool :=
  let b := c.decLine l
  (c.genAt l).layerOrder.any fun n =>
    !((c.layer n).decs.any fun d => d.line = b) && (c.decideNow n b).kind != 0

/-- A surface becomes resident, or a panel is bound: speculative lines of not-ready decisions are squashed (R132). -/
def Core.squashNotReady (c before : Core) : Core := c.squash 2 fun _ _ _ l => before.underNotReady l

/-- The first panels of a surface that becomes resident count with its figures from then on (spec/01_print_architecture.md R35). -/
def Core.firstResident (c : Core) (id : Nat) (old new : Surf) : Core :=
  c.each 8 fun n c =>
    let y := c.layer n
    match y.first with
    | some (i, f) => if i = id ∧ { f with digesting := old.digesting, maxRow := old.maxRow } = old then
        c.setLayer n { y with first := some (id, new) } else c
    | none => c

/-- SURF_RESIDENT_DONE: the digest is complete (R389). -/
def Core.surfDone (c : Core) (id : Nat) : Core :=
  match c.hi.async.find? (fun a => a.op = 0x23 ∧ a.a = id) with
  | none => c
  | some a =>
    let s := c.surf id
    let c := c.asyncDrop a
    match c.surfBytes s with
    | (c, none) => (c.setSurf id { s with digesting := false }).post 0x0309 31 (2 ^ 31 + id)
    | (c, some l) =>
      let before := c
      let new := { s with digesting := false, state := 2 }
      let c := ((c.setSurf id new).firstResident id s new).logDigest 0 id s.base l
      (c.squashNotReady before).post 0x0309 31 id

/-- A surface named by a layer, a HOLD or a bound panel (R111). -/
def Core.surfNamed (c : Core) (id : Nat) : Bool :=
  (c.job.gens.any fun g => g.layersOn.any fun n => !g.fb (F.LAY_CFG_SRC n) && g.f (F.LAY_SURF_ID n) == id) ||
  (List.range 8).any fun n =>
    ((c.layer n).panels.any fun p => p.surf == id) || (c.holds n).any fun d => d.surf == id

/-- SURF_RELEASE. -/
def Core.cmdSurfRelease (c : Core) (q : CmdIn) : CmdOut :=
  let id := q.u16 0
  let s := c.surf id
  c.judge [(decide (id < 1024) && s.state != 0 && (s.digesting || c.surfNamed id), rBusy),
    (decide (id < 1024) && s.state == 0, rBadParam), (decide (1023 < id), rRange)] fun c => done (c.setSurf id {})

/-! ### Panels (R121, R122) -/

/-- The decision event of repeat `k` has occurred. -/
def Core.decided (c : Core) (g : Gen) (k : Nat) : Bool :=
  c.job.tof && decide ((g.lk k : Int) + c.dMin - c.job.catchN ≤ c.web.s)

/-- The next repeat to be bound, past those whose decision event has occurred, with fuel. -/
def Core.advanceK (c : Core) (g : Gen) : Nat → Nat → Nat
  | 0, k => k
  | f + 1, k => if c.decided g k then c.advanceK g f (k + 1) else k

/-- A bound of the repeats whose decision events have occurred: each is 2^-16 line or more long. -/
def Core.decidedRepeats (c : Core) (g : Gen) : Nat := (c.web.s + c.job.catchN + 2) * 65536 / max 1 g.rpt + 2

/-- The checks of PANEL_QUEUE. -/
def Core.panelChecks (c : Core) (q : CmdIn) : List (Bool × Nat) :=
  let n := q.u8 0
  let id := q.u16 2
  let g := c.newest
  let s := c.surf id
  let y := c.layer n
  let differs := match y.first with
    | some (_, f) => f.fmt != s.fmt || f.width != s.width || f.height != s.height
    | none => false
  let inRange := decide (n < 8) && decide (id < 1024)
  let bad := decide (15 < q.u8 1) || (inRange && (!g.fb (F.LAY_CFG_SRC n) || s.state == 0 || differs || g.rpt == 0 ||
    !fits (g.fb F.JOB_CFG_SPACE) s.fmt (g.f (F.LAY_CFG_MODE n)) (g.f (F.LAY_CFG_CH_MASK n)) ||
    (s.fmt == 4 && g.badDrop fun m => if m = n then some 4 else c.layerFmt g m) || s.height != g.n (R.LAY_TILE_H n)))
  [(decide (n < 8) && decide (64 ≤ y.depth), rBusy), (bad, rBadParam),
    (!inRange || decide (s.width < g.n (R.LAY_TILE_W n)), rRange),
    (c.fetchOver g g.pMin (fun m => if m = n then some s else none) g.slices, rCapacity)]

/-- PANEL_QUEUE. -/
def Core.cmdPanelQueue (c : Core) (q : CmdIn) : CmdOut :=
  c.judge (c.panelChecks q) fun c =>
    let n := q.u8 0
    let id := q.u16 2
    let g := c.newest
    let s := c.surf id
    let y := c.layer n
    let k := c.advanceK g (c.decidedRepeats g) (c.n (R.LAY_QNEXT n))
    let p : Panel := { k := k, surf := id, exps := [q.u32 4, q.u32 8, q.u32 12, q.u32 16], valid := q.u8 1 }
    let before := c
    let c := c.setLayer n { y with panels := y.panels ++ [p], first := y.first <|> some (id, s) }
    let c := (c.setN (R.LAY_QNEXT n) (k + 1)).depthSync n
    let c := c.logRec 0x0E (leBytes 1 n ++ leBytes 4 k ++ leBytes 6 (g.lk k) ++ leBytes 2 id)
    (c.squashNotReady before, some (rDone, leBytes 6 (g.lk k) ++ leBytes 2 k))

/-! ### Shadow tables (R157, R164, R181, R385, R386) -/

def Core.setShadow (c : Core) (t : Tables) : Core := { c with job := { c.job with shadow := t } }

/-- COLOUR_LOAD. -/
def Core.cmdColourLoad (c : Core) (q : CmdIn) : CmdOut :=
  let a := q.u64 0
  c.reading [] true a 82720 fun c l =>
    let v := pairs16 l
    let c := c.setShadow { c.job.shadow with lattice := tabOf (fun _ => 0) (v.take 39304)
                                             curves := tabOf curveReset ((v.drop 39304).take 2056) }
    done (c.logDigest 2 0 a l)

/-- SCREEN_LOAD. -/
def Core.cmdScreenLoad (c : Core) (q : CmdIn) : CmdOut :=
  let k := q.u8 0
  let w := q.u16 2
  let h := q.u16 4
  let a := q.u64 8
  let out := fun v => decide (v < 8) || decide (256 < v)
  c.reading [(q.u8 1 != 0 || q.u16 6 != 0, rBadParam), (decide (7 < k) || out w || out h, rRange)] true a (w * h * 2) fun c l =>
    let scr : Screen := { w := w, h := h, thr := pairs16 l }
    let c := c.setShadow { c.job.shadow with screens := Tab.set (fun _ => {}) c.job.shadow.screens k scr }
    done (c.logDigest 3 k a l)

/-- A run of the head map from its 16 bytes (R164). -/
def runOf (l : List Byte) : MapRun :=
  let a := le l 0 4
  let b := le l 4 2
  { start := a % 2 ^ 21, cstep2 := bit a 21, count := b % 32768 + 1, idir := bit b 15, hg := le l 6 1 % 64
    iStart := le l 8 2 % 32768, head := le l 10 2 % 1024
    rsv := a / 2 ^ 22 != 0 || le l 6 1 / 64 != 0 || le l 7 1 != 0 || le l 8 2 / 32768 != 0 || le l 10 2 / 1024 != 0 ||
      le l 12 4 != 0 }

/-- The runs of a byte list, with fuel. -/
def runsOf : Nat → List Byte → List MapRun
  | 0, _ => []
  | n + 1, l => runOf (l.take 16) :: runsOf n (l.drop 16)

/-- NOZZLE_MAP_LOAD. -/
def Core.cmdNozzleMapLoad (c : Core) (q : CmdIn) : CmdOut :=
  let n := q.u16 8
  c.reading [(q.u16 10 != 0, rBadParam), (n == 0 || decide (4096 < n), rRange)] false (q.u64 0) (16 * n) fun c l =>
    let c := c.setShadow { c.job.shadow with map := runsOf n l }
    ((c.logDigest 4 0 (q.u64 0) l), some (rDone, leBytes 2 n))

/-- SHADOW_REVERT. -/
def Core.cmdShadowRevert (c : Core) (q : CmdIn) : CmdOut :=
  c.judge [((c.asyncOf 0x12).isSome, rBusy)] fun c => accepted (c.start 0x12 q)

/-- The bits of a register's RWC fields. -/
def rwcMask (off : Nat) : Nat :=
  match regRow off with
  | some r => (r.flds.filter fun f => f.acc == .rwc).foldl (fun m f => setBits m f.lo f.wid (2 ^ f.wid - 1)) 0
  | none => 0

/-- A register's RWC fields set to those of another word. -/
def Core.setRwc (c : Core) (off v : Nat) : Core :=
  let m := rwcMask off
  c.setN off (Nat.land (c.n off) (2 ^ 32 - 1 - m) + Nat.land v m)

/-- SHADOW_REVERT_DONE: every RWC field and shadow table as in force, or as reset before a job's first COMMIT (R386). -/
def Core.shadowRevert (c : Core) : Core :=
  match c.asyncOf 0x12 with
  | none => c
  | some a =>
    let g : Gen := if c.job.isOpen && !c.job.committed then {} else c.newest
    let offs := ((rwcRegs c.regs).map (·.1) ++ (rwcRegs g.regs).map (·.1)).eraseDups
    let c := c.eachOf offs fun o c => c.setRwc o (g.n o)
    (c.setShadow g.tabs).asyncEnd a rDone

/-! ### Nozzles and heads (R309, R312, R392, R393) -/

/-- A test begins; the counts of a gate test begin with it (R317). -/
def Core.testBegin (c : Core) (t : TestRun) : Core :=
  let c := { c with test := some { t with start := c.now, next := c.now + t.period * 4 / 5 } }
  let c := (c.setB F.FIRE_TEST_STAT_RUNNING true).setF F.FIRE_TEST_STAT_LINES 0
  if t.mode = 1 then
    let c := (c.setN R.GT_MISSING_CNT 0).setN R.GT_WEAK_CNT 0
    (c.setB F.GT_STAT_RUNNING true).setF F.GT_STAT_GATES c.gates.length
  else c

/-- The bars of the gates that test. -/
def Core.gateBars (c : Core) : Nat := c.gates.foldl (fun m g => setBits m g.2 1 1) 0

/-- A period too short for the selected bars, or one of them latched (R104). -/
def Core.testRange (c : Core) (bars period : Nat) : Bool :=
  decide (period < 1000) ||
    (List.range 16).any fun b => bit bars b && (decide (period < c.newest.fmp b) || c.latched b)

/-- The checks of TEST_FIRE for the gates (R309): no native parameter, one gate a bar, and a period in which bars, lanes and
windows keep up. -/
def Core.gateTestChecks (c : Core) (q : CmdIn) : List (Bool × Nat) :=
  let gp := c.f F.GT_PERIOD_NS
  let long := c.gates.any fun g => decide (gp < (c.f (F.GATE_WIN_START g.1) + c.f (F.GATE_WIN_WIDTH g.1)) * 10 + 2000)
  [(c.test.isSome, rBusy),
    (q.u8 3 != 0 || q.u16 14 != 0 || q.u16 0 != 0 || q.u32 4 != 0 || q.u32 8 != 0 || q.u16 12 != 0 ||
      anyPair (fun a b => a.2 == b.2) c.gates, rBadParam),
    (c.testRange c.gateBars gp || decide (gp * c.qlLimit c.newest < 1000000000) || long, rRange)]

/-- The checks of TEST_FIRE for a pattern (R104, R393). -/
def Core.patternChecks (c : Core) (q : CmdIn) : List (Bool × Nat) :=
  let id := q.u16 12
  let s := c.surf id
  [(c.test.isSome, rBusy),
    (q.u8 3 != 0 || q.u16 14 != 0 || decide (1023 < id) || s.state != 2 || s.fmt != 4 || q.u32 8 == 0, rBadParam),
    (decide (1 < q.u8 2) || c.testRange (q.u16 0) (q.u32 4), rRange)]

/-- TEST_FIRE (R309, R393). -/
def Core.cmdTestFire (c : Core) (q : CmdIn) : CmdOut :=
  if q.u8 2 = 1 then
    c.judge (c.gateTestChecks q) fun c =>
      let todo := c.gates.foldl (fun t g =>
        Tab.set (fun _ => []) t g.2 ((c.newest.barNozzles g.2).filter fun n => c.nzNow n / 2 ^ 30 ≠ 3)) []
      accepted (c.testBegin { mode := 1, bars := c.gateBars, period := c.f F.GT_PERIOD_NS, lines := 0, surf := 0
                              code := c.f F.GT_CFG_CODE, todo := todo })
  else
    c.judge (c.patternChecks q) fun c =>
      accepted (c.testBegin { mode := 0, bars := q.u16 0, period := q.u32 4, lines := q.u32 8, surf := q.u16 12, code := 0 })

/-- The checks of SPIT. -/
def Core.spitChecks (c : Core) (q : CmdIn) : List (Bool × Nat) :=
  [(c.test.isSome, rBusy), (q.u8 3 != 0, rBadParam),
    (q.u8 2 == 0 || decide (15 < q.u8 2) || c.testRange (q.u16 0) (q.u32 4), rRange)]

/-- SPIT. -/
def Core.cmdSpit (c : Core) (q : CmdIn) : CmdOut :=
  c.judge (c.spitChecks q) fun c =>
    accepted (c.testBegin { mode := 2, bars := q.u16 0, period := q.u32 4, lines := q.u32 8, surf := 0, code := q.u8 2 })

/-- TEST_STOP. -/
def Core.cmdTestStop (c : Core) (_q : CmdIn) : CmdOut :=
  done { c with test := c.test.map fun t => { t with stop := true } }

/-- STATE after a verdict (R312). -/
def gateState (verdict st : Nat) (restore : Bool) : Nat :=
  if st = 3 then 3
  else match verdict with
    | 0 => if st = 0 ∨ restore then 0 else st
    | 1 => if st = 2 ∧ ¬ restore then 2 else 1
    | 2 => 2
    | _ => st

/-- GATE_APPLY. -/
def Core.cmdGateApply (c : Core) (q : CmdIn) : CmdOut :=
  let restore := bit (q.u8 2) 0
  let gateTest := match c.test with
    | some t => t.mode == 1
    | none => false
  let base := c.n64 R.GT_RES_BASE_LO
  let nz := ((List.range 16).filter (bit (q.u16 0))).flatMap c.newest.barNozzles
  c.judge [(gateTest, rBusy), (decide (1 < q.u8 2) || q.u8 3 != 0, rBadParam)] fun c =>
    match nz.find? fun n => (c.rd (base + 8 * n) 8).isNone || !c.mayReach (base + 8 * n) 8 with
    | some n => ((c.coxFetch (base + 8 * n) 8).1, some (rMemory, []))
    | none =>
      let c := c.eachOf nz fun n c => (c.coxFetch (base + 8 * n) 8).1
      let t := c.job.shadow
      let new := fun (u : Tab Word) n =>
        let e := Tab.get nzReset u n
        let verdict := match c.rd (base + 8 * n) 1 with
          | some l => le l 0 1 % 4
          | none => 3
        (e.toNat / 2 ^ 30, gateState verdict (e.toNat / 2 ^ 30) restore)
      let (u, k) := nz.foldl (fun (u, k) n =>
        let (a, b) := new u n
        if a = b then (u, k)
        else (Tab.set nzReset u n (BitVec.ofNat 32 (setBits (Tab.get nzReset u n).toNat 30 2 b)), k + 1)) (t.nz, 0)
      (c.setShadow { t with nz := u }, some (rDone, leBytes 4 k))

/-- HEAD_UNBLANK (R305). -/
def Core.cmdHeadUnblank (c : Core) (q : CmdIn) : CmdOut :=
  let h := q.u16 0
  c.judge [(decide (1023 < h), rRange)] fun c =>
    let u := c.head h
    if u.blankTemp then
      let lim : Int := match c.newest.headBar h with
        | some b => c.fs (F.HH_BAR_TEMP_LIMIT b) - c.f (F.HH_BAR_CFG_HYST b)
        | none => c.theta h
      if lim < c.theta h then (c, some (rHwFault, [])) else done (c.setHead h { u with clearing := true })
    else done c

/-- WD_CLEAR (R102). -/
def Core.cmdWdClear (c : Core) (q : CmdIn) : CmdOut :=
  let (c, left) := c.wdClear (q.u16 0)
  (c, some (if left = 0 then (rDone, []) else (rHwFault, leBytes 2 left)))

/-- SERVICE_ENTER. -/
def Core.cmdServiceEnter (c : Core) (_q : CmdIn) : CmdOut := done (c.goto stService)

/-- SERVICE_LEAVE: running tests stop (R105), and the outputs are inactive in IDLE (R86). -/
def Core.cmdServiceLeave (c : Core) (_q : CmdIn) : CmdOut := done (c.testStop.firesOff.goto stIdle)

end Sys2Proof.Machine
end

