-- ==== Sys2Proof/Machine/Apertures.lean ====
section
/-!
DEFINITION. Access violations (spec/00_scope.md R5, spec/13_host_and_command_protocol.md R350) and the BAR4 windows: the
nozzle and segment tables (spec/06_screening_and_nozzles.md R184), the line store (spec/01_print_architecture.md R24) and
the DRAM aperture (R351).
-/

namespace Sys2Proof.Machine

/-! ### Access violations -/

/-- ACCESS_VIOLATION: the access reads as zero and a write is ignored (R5). -/
def execAccessViolation (bar : Bar) (off : BitVec 26) (write : Bool) (s : State) : Host.Outcome State Fault Refusal :=
  let c := s.core.violate bar off.toNat write
  .next { s with core := if write then c else { c with lastRead := 0 } }

/-! ### The nozzle and segment tables (R184) -/

/-- The line that entered an ink's window at the last stroke event. -/
def Core.windowLine (c : Core) (k : Nat) : Nat := ((c.web.s : Int) + c.job.w - c.dInk k).toNat

/-- The version in force that a read under VIEW shows. -/
def Core.viewVer (c : Core) (k : Nat) : Ver :=
  if c.job.tof then c.verAt k (c.windowLine k)
  else (c.ink k).vers.headD { nz := c.newest.tabs.nz, seg := c.newest.tabs.seg }

/-- A 32-bit read of the table windows. -/
def Core.tableRead (c : Core) (off : Nat) : Nat :=
  let i := off / 4
  if off < 0x800000 then
    if c.fb F.NZ_CFG_VIEW then (c.viewVer (i / 262144)).nzE i else (Tab.get nzReset c.job.shadow.nz i).toNat
  else
    let j := (off - 0x800000) / 4
    if c.fb F.NZ_CFG_VIEW then (c.viewVer (j / 4096)).segE j else (Tab.get (fun _ => 0) c.job.shadow.seg j).toNat

/-- Consecutive 32-bit words written through the table windows: they set the shadow, or are ignored and counted while VIEW
is set; a run goes to the logbook (spec/19_observation_and_test.md R498). Bits 1 and 0 of an entry are reserved: they stay
0, and a 1 written to them is counted (R160, R162, log entry 48). -/
def Core.tableWrite (c : Core) (off : Nat) (vals : List Nat) : Core :=
  if c.fb F.NZ_CFG_VIEW then vals.zipIdx.foldl (fun c x => c.violate .bar4 (off + 4 * x.2) true) c
  else
    let c := vals.zipIdx.foldl (fun c x => if x.1 % 4 = 0 then c else c.violate .bar4 (off + 4 * x.2) true) c
    let t := vals.zipIdx.foldl (fun (t : Tables) x =>
      let o := off + 4 * x.2
      let w := BitVec.ofNat 32 (x.1 / 4 * 4)
      if o < 0x800000 then { t with nz := Tab.set nzReset t.nz (o / 4) w }
      else { t with seg := Tab.set (fun _ => 0) t.seg ((o - 0x800000) / 4) w }) c.job.shadow
    (c.setShadow t).logRec 8 (leBytes 4 (off / 4) ++ leBytes 4 vals.length ++ vals.flatMap (leBytes 4))

/-- TABLE_WRITE: an aligned write in the windows; elsewhere, or in BOOT (spec/21_register_map.md R549), a violation. -/
def execTableWrite (off : BitVec 26) (v : Word) (s : State) : Host.Outcome State Fault Refusal :=
  let c := s.core
  let o := off.toNat
  let ok := c.st != stBoot && decide (o < 0x820000) && o % 4 == 0
  .next { s with core := if ok then c.tableWrite o [v.toNat] else c.violate .bar4 o true }

/-! ### The DRAM aperture (R351, R574) -/

/-- Bytes written into one burst: whole, or merged into it. -/
def Core.burstWrite (c : Core) (pa : Nat) (l : List (Option Byte)) : Core :=
  if !c.mayReach (pa / 64 * 64) 64 then c.decodeErr pa
  else if pa % 64 = 0 ∧ l.length = 64 ∧ l.all (·.isSome) then (c.wr pa (l.map (·.getD 0))).touch pa 64 true
  else (l.zipIdx.foldl (fun c x =>
    match x.1 with
    | some b => c.wr (pa + x.2) [b]
    | none => c) c).touch pa l.length true

/-- A list of byte lanes from an address, burst by burst. -/
def Core.apertureWrite : Nat → Core → Nat → List (Option Byte) → Core
  | 0, c, _, _ => c
  | f + 1, c, pa, l =>
    if l = [] then c
    else
      let k := 64 - pa % 64
      Core.apertureWrite f (c.burstWrite pa (l.take k)) (pa + k) (l.drop k)

/-- An access of the DRAM aperture, requester 56: PA = HI_APERTURE + offset. A poisoned read, or one out of range, completes with all
ones and marked EP (R351, R333). -/
def Core.dramAccess (c : Core) (x : Nat) (write : Bool) (data : List (Option Byte)) : Core :=
  let c := c.byReq 56
  let pa := c.n64 R.HI_APERTURE_LO / 2 ^ 20 * 2 ^ 20 + x
  let n := data.length
  if write then Core.apertureWrite (n / 64 + 2) c pa data
  else match c.fetch pa n with
    | (c, some l) => { c with lastRead := ofLe l, hi := { c.hi with ep := false } }
    | (c, none) => { c with lastRead := 256 ^ n - 1, hi := { c.hi with ep := true } }

/-! ### The line store (R24) -/

/-- A byte of the line-store window: slot (FIRST + j) mod 24 at window offset j x 1 MiB, two codes a byte. -/
def Core.lineStoreByte (c : Core) (x : Nat) : Byte :=
  let code := fun (i : Nat) =>
    (Tab.get (fun _ => (0 : Code)) c.pipe.codes
      (slotKey (c.f F.HI_LS_SEL_FIRST + x / 2 ^ 20) (x % 2 ^ 20 / 16384) (x % 16384 * 2 + i))).toNat
  BitVec.ofNat 8 (code 0 + 16 * code 1)

/-! ### BAR4 -/

/-- A single DWORD with all four byte enables, aligned: what the tables accept (R350). -/
def oneDword (off : Nat) (data : List (Option Byte)) : Bool :=
  off % 4 == 0 && data.length == 4 && data.all (·.isSome)

/-- An access of BAR4 that R5 covers. -/
def Core.bar4Violation (c : Core) (off : Nat) (write : Bool) : Core :=
  let c := c.violate .bar4 off write
  if write then c else { c with lastRead := 0 }

/-- APERTURE_ACCESS: the DRAM aperture from 0x0200_0000, the line-store window from 0x0100_0000, which takes no write, and
the tables below 0x0082_0000, which take single DWORDs (R350, R351). In BOOT every access is a violation
(spec/21_register_map.md R549). -/
def execApertureAccess (off : BitVec 26) (write : Bool) (data : List (Option Byte)) (s : State) :
    Host.Outcome State Fault Refusal :=
  let c := s.core
  let o := off.toNat
  let r :=
    if c.st = stBoot then c.bar4Violation o write
    else if 0x2000000 ≤ o then c.dramAccess (o - 0x2000000) write data
    else if 0x1000000 ≤ o ∧ ¬ write then
      { c with lastRead := ofLe ((List.range data.length).map fun i => c.lineStoreByte (o - 0x1000000 + i)) }
    else if o < 0x820000 ∧ oneDword o data then
      (if write then c.tableWrite o [ofLe (data.map (·.getD 0))] else { c with lastRead := c.tableRead o })
    else c.bar4Violation o write
  .next { s with core := r }

end Sys2Proof.Machine
end

