-- ==== Sys2Proof/Machine/Boards.lean ====
section
/-!
DEFINITION. The head boards (spec/10_quill_head_link.md R277-R291): what a board does with the lines, banks and messages
of a group it serves, and what it sends upstream.
-/

namespace Sys2Proof.Machine

def State.board (s : State) (g : Nat) : Board := Tab.get (fun _ => {}) s.boards.tab g
def State.setBoard (s : State) (g : Nat) (b : Board) : State :=
  { s with boards := { s.boards with tab := Tab.set (fun _ => {}) s.boards.tab g b } }

/-- A board's receiver on lane `n`, and its transmitter, whose stream begins anew at a board reset (log entry 59). -/
def State.boardRx (s : State) (n : Nat) : LaneRx := Tab.get (fun _ => {}) s.boards.rx n
def freshTx (n : Nat) : LaneTx := { hist := bitsOf 58 (Config.scrambler (64 + n)).toNat }
def State.boardTx (s : State) (n : Nat) : LaneTx := Tab.get freshTx s.boards.tx n

/-- A block sent on the upstream of lane `n`: the block's TYPE and fields, which enter the stream in order (R269). -/
def State.up (s : State) (n : Nat) (b : Blk) : State :=
  let tx := s.boardTx n
  { s with boards := { s.boards with
    out := ⟨n, b.w / 2 ^ 56, [(b.w % 2 ^ 56 : Nat)]⟩ :: s.boards.out
    tx := Tab.set freshTx s.boards.tx n { tx with wait := tx.wait ++ [b] } } }

/-- An upstream codeword of a board put out (R269, R270), kind 0x600. The upstream runs at a quarter of the downstream's rate: one
for every fourth codeword received (R268; log entry 59). -/
def State.upWord (s : State) (n : Nat) : State :=
  let tx := s.boardTx n
  if tx.since < 3 then
    { s with boards := { s.boards with tx := Tab.set freshTx s.boards.tx n { tx with since := tx.since + 1 } } }
  else
    let (blks, wait, _) := txBlks n true none 80 tx.pos tx.wait 0
    let (sym, hist) := codeword tx.hist tx.pos blks
    { s with boards := { s.boards with
      out := ⟨n, 0x600, sym.map Int.ofNat⟩ :: s.boards.out
      tx := Tab.set freshTx s.boards.tx n { tx with pos := (tx.pos + 80) % 6000, hist := hist, wait := wait, since := 0 } } }

/-- The upstreams a board of a group holds: its own lane, and its partner's where the pair is mirrored (R267). -/
def State.upstreams (s : State) (g : Nat) : List Nat :=
  if s.core.pairMirrored g then [g, Nat.xor g 32] else [g]

/-- A REPLY (R278). -/
def replyBlk (op arg : Nat) : Blk := ctlBlk 0xF4 (op * 2 ^ 48 + arg % 2 ^ 48)

def State.ack (s : State) (g op result : Nat) : State := s.up g (replyBlk 3 (op * 2 ^ 40 + result * 2 ^ 32))

/-- LINK on every upstream (R278, R288). -/
def State.link (s : State) (g : Nat) : State :=
  let b := s.board g
  let arg := g * 2 ^ 42 + b.mode * 2 ^ 40 + b2n (s.boardRx g).lock * 2 ^ 39 +
    b2n (s.boardRx (Nat.xor g 32)).lock * 2 ^ 38 + min 255 b.uncL * 2 ^ 30
  let s := s.setBoard g { b with uncL := 0 }
  (s.upstreams g).foldl (fun s n => s.up n (replyBlk 4 arg)) s

/-! ### Lines (R283-R285) -/

/-- A frame's codes taken from a copy (1 primary, 2 mirror). -/
def BoardLine.take (l : BoardLine) (k src bank : Nat) (codes : List (Nat × Nat)) : BoardLine :=
  { l with frames := Tab.set (fun _ => 0) l.frames k src, bank := bank
           codes := codes.foldl (fun t e => Tab.set (fun _ => 0) t e.1 (BitVec.ofNat 4 e.2)) l.codes }

/-- A copy of a line that no LS has announced yet may still come: its lane is ACTIVE, and of the mirror copy the pair is mirrored
(R266, R273, R288). -/
def State.copyComes (s : State) (g : Nat) (mirror : Bool) : Bool :=
  if mirror then s.core.pairMirrored g && s.core.laneActive (Nat.xor g 32) else s.core.laneActive g

/-- An undecided frame decided where it can be (R283): its mirror copy once the primary cannot bring it, LOST once no
copy can. `cp` and `cm`: a primary, a mirror copy not announced yet may still come. -/
def BoardLine.settle (l : BoardLine) (mode : Nat) (cp cm : Bool) (k : Nat) : BoardLine :=
  if Tab.get (fun _ => 0) l.frames k ≠ 0 then l
  else
    let primary := mode != 1 && (l.p || (cp && !l.endP)) && !l.failed.contains (2 * k)
    let mirror := mode != 2 && (l.m || (cm && !l.endM)) && !l.failed.contains (2 * k + 1)
    match (if mode = 2 then none else l.held.find? (fun h => h.1 = k)) with
    | some (_, bank, codes) => if primary then l else l.take k 2 bank codes
    | none => if primary || mirror then l else { l with frames := Tab.set (fun _ => 0) l.frames k 3 }

/-- Every frame of a line that can be decided. -/
def BoardLine.settleAll (l : BoardLine) (mode : Nat) (cp cm : Bool) (frames : Nat) : BoardLine :=
  (List.range frames).foldl (fun l k => l.settle mode cp cm k) l

def BoardLine.complete (l : BoardLine) (frames : Nat) : Bool :=
  (List.range frames).all fun k => Tab.get (fun _ => 0) l.frames k != 0

/-- The primary input brought every frame of a line (R288). -/
def BoardLine.whole (l : BoardLine) : Bool := decide (l.need ≤ l.np) && l.failed.all fun v => v % 2 == 1

/-- The receiving lines that are complete become the awaiting line in order; one not fired is discarded (R284). -/
def State.completeLines (s : State) (g : Nat) : State :=
  let b := s.board g
  let lines := b.recv.map fun l => l.settleAll b.mode (s.copyComes g false) (s.copyComes g true) l.need
  let ready := lines.filter fun l => l.complete l.need
  let await := match ready.getLast? with
    | some l => some l
    | none => b.await
  s.setBoard g { b with recv := lines.filter (fun l => !l.complete l.need), await := await
                        delivered := b.delivered || ready.any BoardLine.whole }

/-- A change of mode, reported at once (R288). -/
def State.boardMode (s : State) (g mode : Nat) : State :=
  let b := s.board g
  if b.mode = mode then s else ((s.setBoard g { b with mode := mode }).link g).completeLines g

/-- The stroke nearest to the present one that a tag names. -/
def Core.strokeNear (c : Core) (s16 : Nat) : Nat :=
  let d := (s16 + 65536 - c.web.s % 65536) % 65536
  if d < 32768 then c.web.s + d else c.web.s + d - 65536

/-- BOARD_LINE_START: the previous transfer on the input ends, and a receiving line starts for the copy announced, one for
each tag where the inputs announce different ones (log entry 49). Its frames are those of the generation of its own line. A copy that
no LS announced by the next LS on the input that announced the line comes no more (R284). -/
def State.lineStart (s : State) (g : Nat) (mirror : Bool) (f : Nat) : State :=
  let s16 := bits f 40 16
  let announced := if mirror then bit f 6 else bit f 7
  let b := s.board g
  let ended := b.recv.map fun l =>
    if l.s16 = s16 ∧ announced then l
    else if mirror then { l with m := false, endM := true, endP := l.endP || (l.m && !l.p) }
    else { l with p := false, endP := true, endM := l.endM || (l.p && !l.m) }
  let s := (s.setBoard g { b with recv := ended }).completeLines g
  if announced then
    let b := s.board g
    let mark := fun (l : BoardLine) => if mirror then { l with m := true } else { l with p := true }
    let recv := if b.recv.any (fun l => l.s16 = s16) then b.recv.map fun l => if l.s16 = s16 then mark l else l
      else b.recv ++ [mark { s16 := s16, recip := bits f 8 32, need := (s.core.sentGen g (s.core.strokeNear s16)).frames g }]
    s.setBoard g { b with recv := recv }
  else s

/-- The codes of a frame by nozzle-in-group, code 0 left out (R275). -/
def frameCodes (pack : Bool) (frame : Nat) (words : List (BitVec 64)) : List (Nat × Nat) :=
  (List.range 32).flatMap fun j =>
    let w := (words.getD j 0).toNat
    if pack then (List.range 32).filterMap fun m =>
        let v := bits w (2 * m) 2
        if v = 0 then none else some (1024 * frame + 32 * j + m, v)
    else (List.range 16).filterMap fun m =>
        let v := bits w (4 * m) 4
        if v = 0 then none else some (512 * frame + 16 * j + m, v)

/-- A frame of a receiving line (R283): the copy's next where its FH cannot be relied on. A failed primary frame is reported at
once in MIRROR (log entry 59). -/
def State.frameIn (s : State) (g : Nat) (mirror : Bool) (fh : Nat) (words : List (BitVec 64)) (good : Bool) (l : BoardLine) :
    State :=
  let b := s.board g
  let fits := good && bits fh 50 6 == g && bit fh 49 == mirror && bits fh 25 16 == l.s16
  let k := if fits then bits fh 43 6 else min 63 (if mirror then l.nm else l.np)
  let l := if mirror then { l with nm := k + 1 } else { l with np := k + 1 }
  let note := fun (v : BoardLine) (b : Board) => { b with recv := b.recv.map fun x => if x.s16 = l.s16 then v else x }
  let codes := frameCodes (bit fh 42) k words
  let bank := bits fh 41 1
  if fits then
    let v := if mirror then { l with held := l.held ++ [(k, bank, codes)] }
      else if b.mode ≠ 1 ∧ Tab.get (fun _ => 0) l.frames k = 0 then l.take k 1 bank codes else l
    (s.setBoard g (note v b)).completeLines g
  else
    let s := s.setBoard g (note { l with failed := l.failed ++ [2 * k + b2n mirror] } b)
    (if b.mode = 1 ∧ mirror = false then s.link g else s).completeLines g

/-- BOARD_FRAME: a frame tested and decided (R283); in far-frame loopback answered with FRAME_CHECK (R295). A good frame tagged
0xFFFF that no receiving line is tagged with is a test frame, and never fired. -/
def State.boardFrame (s : State) (g : Nat) (mirror : Bool) (fh : Nat) (words : List (BitVec 64)) (crc high : Nat)
    (bad : Bool) : State :=
  let b := s.board g
  let ok := (crc32c (leBytes 8 fh ++ words.flatMap fun w => leBytes 8 w.toNat)).toNat == crc
  let good := !bad && decide (words.length = 32) && ok && high == 0
  let s16 := bits fh 25 16
  if b.loop = 4 then s.up g (replyBlk 5 (bits fh 43 6 * 2 ^ 42 + b2n good * 2 ^ 41 + s16 * 2 ^ 25))
  else match b.recv.find? (fun l => if mirror then l.m else l.p) with
    | none => if b.mode = 1 ∧ mirror = false ∧ good = false then s.link g else s
    | some l => if good ∧ s16 = 0xFFFF ∧ l.s16 ≠ 0xFFFF then s else s.frameIn g mirror fh words good l

/-! ### Codewords (R271) -/

/-- A codeword at a head board: the lock of the input, the counts of STATUS and LINK, and the blocks that far-block loopback
returns, the markers left out (R295; log entry 59). -/
def State.codewordDown (s : State) (n : Nat) (sym : List Nat) : State :=
  let r := s.boardRx n
  let o := r.decode n false sym
  let r' := r.step o
  let r' := { r' with turned := if r'.lock = r.lock then r.turned else s.core.now }
  let s := { s with boards := { s.boards with rx := Tab.set (fun _ => {}) s.boards.rx n r' } }
  let bad := b2n (o.cw = .uncorrectable)
  let b := s.board n
  let s := s.setBoard n { b with uncS := b.uncS + bad, uncL := b.uncL + bad }
  let s := match o.pos with
    | some p =>
      if (s.board n).loop = 3 then
        let at_ := fun (i : Nat) => (p + 5920 + i) % 375
        (o.blks.zipIdx.filter fun (x : Blk × Nat) => at_ x.2 % 4 = 0 ∧ at_ x.2 ≠ 0).foldl (fun (s : State) (x : Blk × Nat) => s.up n x.1) s
      else s
    | none => s
  s.upWord n

/-- QL_CODEWORD: a codeword at the device's receiver, or at a head board's. -/
def execQlCodeword (n : Fin 64) (down : Bool) (msg check : List (BitVec 10)) (s : State) : Host.Outcome State Fault Refusal :=
  let l := rsSymbols 514 msg ++ rsSymbols 14 check
  .next (if down then s.codewordDown n l else { s with core := s.core.codewordUp n l })

/-- The HEAD number that a board has for the head of a nozzle-in-group: the one that HEAD_ID bound its SLOT to (R279); 1,024, of no
head, where none has. -/
def State.boardHead (s : State) (g i : Nat) : Nat :=
  let gen := s.core.newest
  match gen.headAt g i with
  | some h => (Tab.get (fun _ => none) (s.board g).slots ((gen.slotHeads g).idxOf h)).getD 1024
  | none => 1024

/-- BOARD_FIRE: the awaiting line fires with its delays, and STATUS follows (R280, R284, R285). -/
def State.boardFire (s : State) (g : Nat) : State :=
  let b := s.board g
  let mirrored := s.core.pairMirrored g
  let failed := fun bank => Tab.get (fun _ => false) b.badLoad (2 * bank) &&
    (!mirrored || Tab.get (fun _ => false) b.badLoad (2 * bank + 1))
  let (s16, fm, lost, stale, empty, fired, waves) : Nat × Nat × Nat × Bool × Bool × List (Nat × Nat × Nat × Nat) × (Tab Nat × List (Nat × Nat × Nat)) :=
    match b.await with
    | none => (0, 0, 0, false, true, [], (b.waves, b.waveNext))
    | some l =>
      let due := b.waveNext.filter fun w => w.2.1 = l.s16
      let waves := due.foldl (fun t w => Tab.set (fun _ => 0) t w.1 w.2.2) b.waves
      let stale := failed l.bank
      let bank := if stale then 1 - l.bank else l.bank
      let shots := l.codes.map fun e =>
        let entry := Tab.get (fun _ => 0) b.banks (bank * 512 + e.1 / 64)
        let delay := min (2 ^ 20 - 1) ((entry * l.recip + 2 ^ 23) / 2 ^ 24) + 128
        (e.1, e.2.toNat, delay, Tab.get (fun _ => 0) waves (s.boardHead g e.1))
      let count := fun v => l.frames.countP fun e => e.2 = v
      (l.s16, count 2, count 3, stale, false, shots, (waves, b.waveNext.filter fun w => w.2.1 ≠ l.s16))
  let st := g * 2 ^ 50 + s16 * 2 ^ 34 + fm * 2 ^ 27 + lost * 2 ^ 20 + b.fom * 2 ^ 12 + b.mode * 2 ^ 10 + b2n stale * 2 ^ 9 +
    b2n empty * 2 ^ 8 + min 255 b.uncS
  let s := s.setBoard g { b with await := none, fired := fired, waves := waves.1, waveNext := waves.2, uncS := 0 }
  s.up g (ctlBlk 0xF2 st)

/-! ### The commands -/

/-- BOARD_LINE_START. -/
def execBoardLineStart (g : Fin 64) (mirror : Bool) (f : BitVec 56) (s : State) : Host.Outcome State Fault Refusal :=
  .next (s.lineStart g mirror f.toNat)

/-- BOARD_FRAME. -/
def execBoardFrame (g : Fin 64) (mirror : Bool) (fh : BitVec 64) (words : List (BitVec 64)) (crc high : Word)
    (bad : Bool) (s : State) : Host.Outcome State Fault Refusal :=
  .next (s.boardFrame g mirror fh.toNat words crc.toNat high.toNat bad)

/-- BOARD_FIRE. -/
def execBoardFire (g : Fin 64) (s : State) : Host.Outcome State Fault Refusal := .next (s.boardFire g)

/-- BOARD_BANK_LOAD: the bank is written when the CRC passes (R277). -/
def execBoardBankLoad (g : Fin 64) (f : BitVec 56) (words : List (BitVec 64)) (crc : Word) (s : State) :
    Host.Outcome State Fault Refusal :=
  let b := s.board g
  let bank := bits f.toNat 48 1
  let copy := bits f.toNat 49 1
  let good := decide (words.length = 128) && crc32c (leBytes 8 (0xF3 * 2 ^ 56 + f.toNat) ++ words.flatMap fun w => leBytes 8 w.toNat) == crc
  let banks := if good then
      (List.range 512).foldl (fun t j =>
        Tab.set (fun _ => 0) t (bank * 512 + j) (bits (words.getD (j / 4) 0).toNat (16 * (j % 4)) 16)) b.banks
    else b.banks
  .next (s.setBoard g { b with banks := banks, badLoad := Tab.set (fun _ => false) b.badLoad (2 * bank + copy) (!good) })

/-- An input of a board has been in lock, or out of it, for a time (R271, R288). -/
def State.inputHeld (s : State) (n : Nat) (lock : Bool) (t : Nat) : Bool :=
  (s.boardRx n).lock == lock && decide ((s.boardRx n).turned + t ≤ s.core.now)

/-- BOARD_INPUT_LOSS: an input out of lock for 1 µs (R288). -/
def execBoardInputLoss (g : Fin 64) (mirror : Bool) (s : State) : Host.Outcome State Fault Refusal :=
  let b := s.board g
  let lost := s.inputHeld (if mirror then Nat.xor g 32 else g) false usec
  .next (if lost && mirror && b.mode == 0 then s.boardMode g 2
    else if lost && !mirror && b.delivered then s.boardMode g 1 else s)

/-- BOARD_MIRROR_RELOCK: the mirror input in lock for 1 ms (R288). -/
def execBoardMirrorRelock (g : Fin 64) (s : State) : Host.Outcome State Fault Refusal :=
  .next (if s.inputHeld (Nat.xor g 32) true msec && (s.board g).mode == 2 then s.boardMode g 0 else s)

/-- BOARD_TAP_ACK: the taps as the device has them, and whether the last step met a limit (R291). -/
def execBoardTapAck (g : Fin 64) (arg : BitVec 48) (s : State) : Host.Outcome State Fault Refusal :=
  let a := arg.toNat
  .next (s.setBoard g { s.board g with taps := (bits a 44 4, bits a 39 5, bits a 33 6), atLimit := bits a 31 2 = 1 })

/-- BOARD_HEAD_ID: a SLOT bound to a HEAD number (R279). -/
def execBoardHeadId (g : Fin 64) (arg : BitVec 48) (s : State) : Host.Outcome State Fault Refusal :=
  let a := arg.toNat
  let b := s.board g
  let v := if bit a 26 then some (bits a 27 10) else none
  .next ((s.setBoard g { b with slots := Tab.set (fun _ => none) b.slots (bits a 37 5) v }).ack g 2 0)

/-- BOARD_WAVE_SEL: a head's table from the first line fired whose tag is S16 (R286). -/
def execBoardWaveSel (g : Fin 64) (arg : BitVec 48) (s : State) : Host.Outcome State Fault Refusal :=
  let a := arg.toNat
  let b := s.board g
  let w := (bits a 38 10, bits a 18 16, bits a 34 4)
  .next ((s.setBoard g { b with waveNext := b.waveNext ++ [w] }).ack g 3 0)

/-- BOARD_SELECT: AUTO, or MIRROR (R278, R288). Of a MODE that R278 does not list the board changes nothing, and its ACK says
refused (log entry 59). -/
def execBoardSelect (g : Fin 64) (arg : BitVec 48) (s : State) : Host.Outcome State Fault Refusal :=
  let mode := bits arg.toNat 40 2
  let t := s.boardMode g mode
  .next (if mode ≤ 1 then (t.setBoard g { t.board g with delivered := false }).ack g 4 0 else s.ack g 4 2)

/-- BOARD_LOOP: far-block or far-frame loopback starts or ends (R295). -/
def execBoardLoop (g : Fin 64) (arg : BitVec 48) (s : State) : Host.Outcome State Fault Refusal :=
  .next ((s.setBoard g { s.board g with loop := bits arg.toNat 45 3 }).ack g 5 0)

/-- BOARD_REC_WRITE: a record kept in non-volatile memory when its CRC passes (R287). -/
def execBoardRecWrite (g : Fin 64) (arg : BitVec 48) (data : List Byte) (crc : Word) (s : State) :
    Host.Outcome State Fault Refusal :=
  let b := s.board g
  let l := slice data 0 64
  let good := crc32c (leBytes 8 (0xF4 * 2 ^ 56 + 6 * 2 ^ 48 + arg.toNat) ++ l) == crc
  let recs := if good then Tab.set (fun _ => []) b.records (bits arg.toNat 38 10) l else b.records
  .next ((s.setBoard g { b with records := recs }).ack g 6 (b2n (!good)))

/-- BOARD_REC_READ: the stored record returned; VALID is clear where none is stored (R282, R287). -/
def execBoardRecRead (g : Fin 64) (arg : BitVec 48) (s : State) : Host.Outcome State Fault Refusal :=
  let b := s.board g
  let h := bits arg.toNat 38 10
  let l := Tab.get (fun _ => []) b.records h
  let blks := recBlks (ctlBlk 0xF5 (h * 2 ^ 46 + b2n (l ≠ []) * 2 ^ 45)) l
  .next (blks.foldl (fun s x => s.up g x) (s.ack g 7 0))

/-- The heads that a group's slots name. -/
def Board.heads (b : Board) : List Nat := (List.range 32).filterMap fun i => Tab.get (fun _ => none) b.slots i

/-- TEMP blocks of two heads each (R281). -/
def tempBlks : List (Nat × Nat) → List Blk
  | [] => []
  | [a] => [ctlBlk 0xF3 (a.1 * 2 ^ 46 + a.2 * 2 ^ 30)]
  | a :: b :: l => ctlBlk 0xF3 (a.1 * 2 ^ 46 + a.2 * 2 ^ 30 + b.1 * 2 ^ 20 + b.2 * 2 ^ 4 + 8) :: tempBlks l

/-- BOARD_TEMP_REPORT: the heads with a valid HEAD_ID, on every upstream of the board (R281). -/
def execBoardTempReport (g : Fin 64) (temps : List (BitVec 16)) (s : State) : Host.Outcome State Fault Refusal :=
  let blks := tempBlks ((s.board g).heads.zip (temps.map (·.toNat)))
  .next ((s.upstreams g).foldl (fun s n => blks.foldl (fun s b => s.up n b) s) s)

/-- BOARD_TAP_REQUEST: in ACTIVE at most one in 1 ms (R291). -/
def execBoardTapRequest (g : Fin 64) (arg : BitVec 48) (s : State) : Host.Outcome State Fault Refusal :=
  let b := s.board g
  let active := s.core.laneActive g
  let soon := match b.tapAt with
    | some t => decide (s.core.now < t + msec)
    | none => false
  .next (if active && soon then s
    else (s.setBoard g { b with fom := bits arg.toNat 40 8
                                tapAt := if active then some s.core.now else none }).up g (replyBlk 1 arg.toNat))

/-- BOARD_RESET: every group the board serves to AUTO, its receivers out of lock; its records stay (R287, R288). -/
def execBoardReset (g : Fin 64) (s : State) : Host.Outcome State Fault Refusal :=
  .next ((s.upstreams g).foldl (fun s n =>
    let s := s.setBoard n { records := (s.board n).records }
    { s with boards := { s.boards with rx := Tab.set (fun _ => {}) s.boards.rx n { turned := s.core.now }
                                       tx := Tab.set freshTx s.boards.tx n (freshTx n) } }) s)

end Sys2Proof.Machine
end

