-- ==== Sys2Proof/Machine/Camera.lean ====
section
/-!
DEFINITION. The camera ports (spec/09_inspection_cameras.md R240-R265): frames and lines, exposure sets, the image
pipeline and the statistics records.
-/

namespace Sys2Proof.Machine

/-! ### Positions and times of a frame (R252-R254) -/

/-- The set that a port keeps. -/
def CamPort.set (p : CamPort) (j : Nat) : ExpSet := Tab.get (fun _ => {}) p.sets j

/-- Travel at a speed of s16.16 m/s in a time of half nanoseconds, in nm, rounded down. -/
def travel (v : Int) (halfNs : Int) : Int := v * halfNs / 131072

/-- Position of the port's axis input, and its speed. -/
def Core.camAxis (c : Core) (n : Nat) : Int × Int :=
  let a := c.f (F.CAM_CFG_AXIS_SRC n)
  if a = 1 ∨ a = 2 then ((c.enc (a + 1)).pos / p32, c.i (R.ENC_SPEED (a + 1))) else (0, 0)

/-- The web state at a frame start (R254), with EXP_UNKNOWN and TRIGGERED: a crew member's web source is the broadcast. -/
def Core.camState (c : Core) (n : Nat) (trig : Bool) : Nat :=
  let src := c.f F.WEB_SRC_ACTIVE
  let member := c.fb F.CREW_STAT_FORMED && !c.fb F.CREW_STAT_LEAD && !c.replay
  let still := if member then c.crew.still else c.fb (F.ENC_STATUS_STANDSTILL src)
  let against := if member then c.crew.sent.isSome && c.crew.neg != c.web.rev
    else (c.enc src).lastCount.isSome && c.fb (F.ENC_STATUS_DIR src) != c.web.rev
  b2n still + 2 * b2n against + 4 * b2n (c.devState != stPrinting) + 8 * b2n (c.fb (F.CAM_STATUS_EXP_UNKNOWN n)) + 16 * b2n trig

/-- A frame as it opens: with the trigger it pairs with, or free-running. -/
def Core.camOpen (c : Core) (n fn : Nat) (trig : Option CamTrig) (noFs test : Bool) : CamFrame :=
  let u := c.cam n
  let set := c.f (F.CAM_STATUS_EXPSET n)
  let sof := (c.t32 + 2 ^ 32 - 48) % 2 ^ 32
  let exp := (u.set set).expNs
  let dly : Int := c.n (R.CAM_TRIG_DLY n)
  let lead : Int := c.n (R.CAM_SOF_LEAD n)
  let hasAxis := c.f (F.CAM_CFG_AXIS_SRC n) == 1 || c.f (F.CAM_CFG_AXIS_SRC n) == 2
  match trig with
  | some t =>
    let h := 2 * dly + exp
    { fn := fn, sof := sof, start := c.now, trig := t.t32, mid := wrap 32 (t.t32 + h / 2)
      pos := t.pos + travel t.speed h, axis := if hasAxis then t.axisPos + travel t.axisSpeed h else 0
      expset := set, state := c.camState n true, width := c.f (F.CAM_SIZE_WIDTH n), height := c.f (F.CAM_SIZE_HEIGHT n)
      noFs := noFs, test := test }
  | none =>
    let (a, av) := c.camAxis n
    { fn := fn, sof := sof, start := c.now, trig := 0, mid := wrap 32 (sof - lead)
      pos := c.webPos - travel (c.i R.WEB_SPEED) (2 * lead), axis := a - travel av (2 * lead)
      expset := set, state := c.camState n (c.fb (F.CAM_CFG_TRIGGERED n)), width := c.f (F.CAM_SIZE_WIDTH n)
      height := c.f (F.CAM_SIZE_HEIGHT n), noFs := noFs, test := test }

/-! ### Exposure sets (R248-R250) -/

/-- A transaction on a port's CCI bus (R246), kind 0x300: the device address, 1 for a read, the bytes of the register address,
the register address, and the data of a write. With ADDR16 clear the register address is one byte (log entry 58). -/
def Core.cciOut (c : Core) (n : Nat) (read : Bool) (reg : Nat) (data : List Nat) : Core :=
  let wide := c.fb (F.CAM_SENSOR_ADDR16 n)
  let head := [c.f (F.CAM_SENSOR_I2C_ADDR n), b2n read, if wide then 2 else 1, if wide then reg else reg % 256]
  c.emit n 0x300 ((head ++ data).map Int.ofNat)

/-- EXP_PENDING as writes and schedules stand. -/
def Core.expSync (c : Core) (n : Nat) : Core :=
  let u := c.cam n
  c.setB (F.CAM_STATUS_EXP_PENDING n) (u.selects ≠ [] || u.sched ≠ [])

/-- A frame start counts for the sets scheduled: at their K-th they come into force, the later-selected one where two
would (R249); a failure makes frames EXP_UNKNOWN (R250). -/
def Core.expCount (c : Core) (n fn : Nat) : Core :=
  let u := c.cam n
  let sched := u.sched.map fun x => (x.1, x.2 - 1)
  let due := sched.filter fun x => x.2 = 0
  let c := c.setCam n { u with sched := sched.filter fun x => x.2 ≠ 0, failIn := (u.failIn.filter (1 < ·)).map (· - 1) }
  let c := if u.failIn.contains 1 then c.setB (F.CAM_STATUS_EXP_UNKNOWN n) true else c
  let c := match due.getLast? with
    | none => c
    | some (j, _) =>
      let c := c.eachOf due.dropLast fun x c => c.post 0x0604 n (2 ^ 31 + x.1 * 2 ^ 28 + fn % 2 ^ 28)
      let c := (c.setF (F.CAM_STATUS_EXPSET n) j).setB (F.CAM_STATUS_EXP_UNKNOWN n) false
      c.post 0x0604 n (j * 2 ^ 28 + fn % 2 ^ 28)
  c.expSync n

/-! ### The pipeline (R255-R258) -/

/-- An image as a function of column and line. -/
abbrev Img := Nat → Nat → Int

/-- An index mirrored about the frame edges (R256, R257). -/
def mirrored (i : Int) (n : Nat) : Nat :=
  if i < 0 then min (-i).toNat (n - 1)
  else if (n : Int) ≤ i then (2 * ((n : Int) - 1) - i).toNat
  else i.toNat

def clamp16 (v : Int) : Int := max 0 (min 65535 v)

/-- The colour of a CFA position, 0 R, 1 G, 2 B (CAMn_CFG.CFA). -/
def cfaColour (cfa p : Nat) : Nat :=
  (match cfa with
   | 0 => [0, 1, 1, 2]
   | 1 => [1, 0, 2, 1]
   | 2 => [1, 2, 0, 1]
   | _ => [2, 1, 1, 0]).getD p 1

/-- Position of a pixel over the 2 by 2 pattern, in raster order. -/
def cfaPos (x y : Nat) : Nat := y % 2 * 2 + x % 2

/-- What the pipeline of a frame needs: the size, and a pixel's value after each stage. -/
structure Pipe8 where
  w : Nat
  h : Nat
  mono : Bool
  raw : Img
  s1 : Img
  s3 : Img
  s4 : Img
  s5 : Img
  s6 : Nat → Img
  s7 : Nat → Img
  s8 : Nat → Img
  dpc : Nat

/-- The optical density of a channel value, within 1 unit (R258). -/
def digits : Nat → Nat → Nat
  | 0, _ => 0
  | f + 1, q => if q < 10 then 0 else 1 + digits f (q / 10)

def opticalDensity (v : Int) : Int :=
  let v := (max v 1).toNat
  let exact : Int := ((digits 40000 (65535 ^ 8192 / v ^ 8192) + 1) / 2 : Nat)
  exact + ((Config.odErr v).toNat % 3 : Nat) - 1

/-- Middle two of four numbers, their mean rounded down. -/
def midMean (a b d e : Int) : Int :=
  (a + b + d + e - min (min a b) (min d e) - max (max a b) (max d e)) / 2

/-- The parameters of port `n`'s pipeline as they stand, with the DGAIN of a set (R255). -/
def Core.camPar (c : Core) (n set : Nat) : CamPar :=
  let half := fun (off i : Nat) => sext 16 (Sys2Proof.bits (c.n (off + 4 * (i / 2))) (16 * (i % 2)) 16)
  { bits := 10 + 2 * c.f (F.CAM_CFG_DT n)
    cfa := c.f (F.CAM_CFG_CFA n)
    black := [F.CAM_BLACK_01_BLACK0 n, F.CAM_BLACK_01_BLACK1 n, F.CAM_BLACK_23_BLACK0 n, F.CAM_BLACK_23_BLACK1 n].map c.f
    thr := c.f (F.CAM_DPC_THR n)
    dynamic := c.fb (F.CAM_CFG_DPC_DYN_EN n)
    shading := c.fb (F.CAM_CFG_SHADING_EN n)
    wb := [F.CAM_WB_01_WB0 n, F.CAM_WB_01_WB1 n, F.CAM_WB_23_WB0 n, F.CAM_WB_23_WB1 n].map c.f
    dgain := ((c.cam n).set set).dgain
    dmThr := c.f (F.CAM_DM_THR n)
    ccm := (List.range 9).map (half (R.CAM_CCM n 0))
    dmat := (List.range 24).map (half (R.CAM_DMAT n 0)) }

/-- Demosaic (R257): channel `ch` of a pixel. -/
def demosaic (cfa w h thr : Nat) (s : Img) (ch x y : Nat) : Int :=
  let at_ := fun (i j : Int) => s (mirrored i w) (mirrored j h)
  let col := fun (i j : Int) => cfaColour cfa (cfaPos (mirrored i w) (mirrored j h))
  let green := fun (x y : Int) =>
    if col x y = 1 then at_ x y
    else
      let l := 2 * at_ x y - at_ (x - 2) y - at_ (x + 2) y
      let m := 2 * at_ x y - at_ x (y - 2) - at_ x (y + 2)
      let gh := (at_ (x - 1) y - at_ (x + 1) y).natAbs + l.natAbs
      let gv := (at_ x (y - 1) - at_ x (y + 1)).natAbs + m.natAbs
      let eh := (at_ (x - 1) y + at_ (x + 1) y) / 2 + l / 4
      let ev := (at_ x (y - 1) + at_ x (y + 1)) / 2 + m / 4
      if gv > gh + thr then clamp16 eh
      else if gh > gv + thr then clamp16 ev
      else clamp16 ((eh + ev) / 2)
  let x : Int := x
  let y : Int := y
  if ch = 1 then green x y
  else if col x y = ch then at_ x y
  else
    let diff := fun (i j : Int) => at_ i j - green i j
    let d := if col (x - 1) y = ch then (diff (x - 1) y + diff (x + 1) y) / 2
      else if col x (y - 1) = ch then (diff x (y - 1) + diff x (y + 1)) / 2
      else (diff (x - 1) (y - 1) + diff (x + 1) (y - 1) + diff (x - 1) (y + 1) + diff (x + 1) (y + 1)) / 4
    clamp16 (green x y + d)

/-- The pipeline of a frame: each line with the parameters that stood as it passed (R255; log entry 71). -/
def CamFrame.pipe (f : CamFrame) : Pipe8 :=
  let par := fun (y : Nat) => f.pars.getD y {}
  let cfa := (par 0).cfa
  let mono := decide (4 ≤ cfa)
  let w := f.width
  let h := f.height
  let pos := fun x y => if mono then 0 else cfaPos x y
  let raw : Img := fun x y => ((f.lines.getD y []).getD x 0 : Nat)
  let s1 : Img := fun x y => clamp16 (raw x y * 2 ^ (16 - (par y).bits))
  let s2 : Img := fun x y => max 0 (s1 x y - (par y).black.getD (pos x y) 0)
  let nbr := fun (x y : Nat) =>
    let at_ := fun (i j : Int) => s2 (mirrored i w) (mirrored j h)
    (at_ ((x : Int) - 2) y, at_ ((x : Int) + 2) y, at_ x ((y : Int) - 2), at_ x ((y : Int) + 2))
  let dyn := fun (x y : Nat) =>
    (par y).dynamic && (let (a, b, d, e) := nbr x y
      let thr : Int := (par y).thr
      decide (max (max a b) (max d e) + thr < s2 x y) || decide (s2 x y < min (min a b) (min d e) - thr))
  let s3 : Img := fun x y =>
    if f.map.contains (x, y) || dyn x y then (let (a, b, d, e) := nbr x y; midMean a b d e) else s2 x y
  let dpc := (List.range h).foldl (fun m y => m + (List.range w).countP fun x => !f.map.contains (x, y) && dyn x y) 0
  let s4 : Img := fun x y =>
    if (par y).shading then
      let dx := max 1 (w - 1)
      let dy := max 1 (h - 1)
      let i := min 31 (x * 32 / dx)
      let j := min 23 (y * 24 / dy)
      let fx := x * 32 - i * dx
      let fy := y * 24 - j * dy
      let g := fun i j => f.grid.getD (pos x y * 825 + j * 33 + i) 0
      let gain := ((g i j * (dx - fx) + g (i + 1) j * fx) * (dy - fy) +
        (g i (j + 1) * (dx - fx) + g (i + 1) (j + 1) * fx) * fy) / (dx * dy)
      clamp16 (s3 x y * gain / 16384)
    else s3 x y
  let s5 : Img := fun x y =>
    let wb : Int := (par y).wb.getD (pos x y) 0
    clamp16 ((s4 x y * wb * (par y).dgain + 2 ^ 23) / 2 ^ 24)
  let s6 : Nat → Img := fun ch x y => if mono then s5 x y else demosaic cfa w h (par y).dmThr s5 ch x y
  let s7 : Nat → Img := fun ch x y =>
    let m := fun ch i => (par y).ccm.getD (3 * ch + i) 0
    if mono then clamp16 ((m 0 0 * s6 0 x y + 2048) / 4096)
    else clamp16 ((m ch 0 * s6 0 x y + m ch 1 * s6 1 x y + m ch 2 * s6 2 x y + 2048) / 4096)
  let s8 : Nat → Img := fun k x y =>
    let d := fun k ch => (par y).dmat.getD (3 * k + ch) 0
    if mono then clamp16 ((d k 0 * opticalDensity (s7 0 x y) + 2048) / 4096)
    else clamp16 ((d k 0 * opticalDensity (s7 0 x y) + d k 1 * opticalDensity (s7 1 x y) +
      d k 2 * opticalDensity (s7 2 x y) + 2048) / 4096)
  { w := w, h := h, mono := mono, raw := raw, s1 := s1, s3 := s3, s4 := s4, s5 := s5, s6 := s6, s7 := s7, s8 := s8
    dpc := dpc }

/-! ### Statistics (R260, R261) -/

/-- The inks converted, ascending. -/
def Core.densInks (c : Core) (n : Nat) : List Nat :=
  (List.range 8).filter fun k => bit (c.f (F.CAM_STAT_CFG_DENS_MASK n)) k

/-- The channels of a SRC: a value, and whether the pixel belongs to the channel. -/
def Core.statChans (c : Core) (n : Nat) (q : Pipe8) : List (Img × (Nat → Nat → Bool)) :=
  match c.f (F.CAM_STAT_CFG_SRC n) with
  | 0 => if q.mono then [(q.s5, fun _ _ => true)]
         else (List.range 4).map fun p => (q.s5, fun x y => cfaPos x y == p)
  | 1 => if q.mono then [(q.s7 0, fun _ _ => true)] else (List.range 3).map fun ch => (q.s7 ch, fun _ _ => true)
  | 2 => (c.densInks n).map fun k => (q.s8 k, fun _ _ => true)
  | _ => []

/-- Mean of a list, to the nearest; of none, a value the spec does not state. -/
def meanOf (ch : Nat) (l : List Int) : Nat :=
  if l = [] then (Config.emptyMean ch).toNat
  else ((2 * l.sum + l.length) / (2 * l.length)).toNat

/-- A channel's values over columns `x0` to `x1 - 1` and lines `y0` to `y1 - 1`. -/
def chanVals (ch : Img × (Nat → Nat → Bool)) (x0 x1 y0 y1 : Nat) : List Int :=
  (List.range (y1 - y0)).flatMap fun j => (List.range (x1 - x0)).filterMap fun i =>
    if ch.2 (x0 + i) (y0 + j) then some (ch.1 (x0 + i) (y0 + j)) else none

/-- The three sections of a statistics record. -/
def Core.statBody (c : Core) (n : Nat) (q : Pipe8) : List Byte :=
  let zx := max 1 (min 64 (c.f (F.CAM_STAT_CFG_ZX n)))
  let zy := max 1 (min 48 (c.f (F.CAM_STAT_CFG_ZY n)))
  let bin := 2 ^ c.f (F.CAM_STAT_CFG_PROF_BIN n)
  let chans := c.statChans n q
  let idx := List.range chans.length
  let ch := fun i => chans.getD i (fun _ _ => 0, fun _ _ => false)
  let edge := fun (len z i : Nat) => if i = z then len else i * (len / z)
  let zones := (List.range zy).flatMap fun j => (List.range zx).flatMap fun i => idx.flatMap fun k =>
    leBytes 2 (meanOf k (chanVals (ch k) (edge q.w zx i) (edge q.w zx (i + 1)) (edge q.h zy j) (edge q.h zy (j + 1))))
  let hist := idx.flatMap fun k =>
    let v := chanVals (ch k) 0 q.w 0 q.h
    (List.range 256).flatMap fun (b : Nat) => leBytes 4 (v.countP fun s => s.toNat / 256 == b)
  let prof := idx.flatMap fun k => (List.range (ceilDiv q.w bin)).flatMap fun i =>
    leBytes 2 (meanOf k (chanVals (ch k) (i * bin) (min q.w ((i + 1) * bin)) 0 q.h))
  padTo 64 zones ++ padTo 64 hist ++ padTo 64 prof

/-- FLAGS of a frame: one opened by a line is a SHORT_FRAME too (R243). -/
def CamFrame.flags (f : CamFrame) : Nat :=
  b2n (f.short ≠ 0) + 2 * b2n (f.long ≠ 0) + 4 * b2n (f.noFs || decide (f.rx - f.cut < f.height)) + 8 * b2n (f.cut ≠ 0) +
    16 * b2n f.noFe + 32 * b2n f.noFs + 64 * b2n f.crcErr + 128 * b2n f.test

/-- The 64-byte header (R261). -/
def Core.statHeader (c : Core) (n : Nat) (f : CamFrame) (q : Pipe8) (chans size : Nat) : List Byte :=
  leBytes 4 f.fn ++ leBytes 4 f.sof ++ leBytes 8 (wrap 64 f.pos) ++ leBytes 8 (wrap 64 f.axis) ++ leBytes 4 f.trig ++
  leBytes 4 f.mid ++ leBytes 1 f.expset ++ leBytes 1 f.flags ++ leBytes 1 f.state ++
  leBytes 1 (c.f (F.CAM_STAT_CFG_SRC n)) ++ leBytes 2 (min 65535 f.rx) ++ leBytes 2 (min 65535 f.short) ++
  leBytes 2 (min 65535 f.long) ++ leBytes 2 (min 65535 f.cut) ++ leBytes 2 f.width ++ leBytes 2 f.height ++
  leBytes 1 (c.f (F.CAM_STAT_CFG_ZX n)) ++ leBytes 1 (c.f (F.CAM_STAT_CFG_ZY n)) ++ leBytes 1 chans ++
  leBytes 1 (c.f (F.CAM_STAT_CFG_PROF_BIN n)) ++ leBytes 4 q.dpc ++ leBytes 4 size ++ leBytes 4 0

/-- Bytes written to a ring, wrapping at its size. -/
def Core.ringWrite (c : Core) (base size wr : Nat) (l : List Byte) : Core :=
  let k := min l.length (size - wr)
  (c.put (base + wr) (l.take k)).put base (l.drop k)

/-- The statistics record of a closed frame (R261). -/
def Core.statRecord (c : Core) (n : Nat) (f : CamFrame) : Core :=
  let q := f.pipe
  let body := c.statBody n q
  let size := 64 + body.length
  let head := c.statHeader n f q (c.statChans n q).length size
  let c := c.setN (R.CAM_STAT_RECSZ n) size
  let c := c.logRec 0x13 (leBytes 1 n ++ head ++ (if c.fb F.LOG_CFG_CAM_FULL then body else []))
  let ring := c.n (R.CAM_STAT_SIZE n)
  let wr := c.n (R.CAM_STAT_WR n)
  let rd := c.n (R.CAM_STAT_RD n)
  let free := if ring = 0 then 0 else (rd + ring - wr - 1) % ring
  if size ≤ free then
    (((c.byReq (20 + n)).ringWrite (c.n64 (R.CAM_STAT_BASE_LO n)) ring wr (head ++ body)).setN (R.CAM_STAT_WR n) ((wr + size) % ring)).perf
      (88 + n)
  else
    let c := c.inc (R.CAM_STAT_DROP_CNT n)
    c.postLim sec 0x0608 n (c.n (R.CAM_STAT_DROP_CNT n))

/-! ### Raw taps (R262) -/

/-- The samples of a line at the tap's point. -/
def Core.tapBytes (c : Core) (n : Nat) (f : CamFrame) (y : Nat) : List Byte :=
  let q := f.pipe
  let u16 := fun (v : Int) => leBytes 2 v.toNat
  (List.range f.width).flatMap fun x =>
    match c.f (F.CAM_TAP_POINT n) with
    | 0 => u16 (q.s1 x y)
    | 1 => u16 (q.s3 x y)
    | 2 => u16 (q.s4 x y)
    | _ => u16 (q.s6 0 x y) ++ u16 (q.s6 1 x y) ++ u16 (q.s6 2 x y)

/-- A frame's capture stops: the buffer has overflowed (R262). -/
def Core.tapOverflow (c : Core) (n fn : Nat) : Core :=
  let c := c.setCam n { c.cam n with tapWait := [], tapFn := none }
  ((c.setB (F.CAM_TAP_BUSY n) false).inc (R.CAM_TAP_OVF_CNT n)).post 0x060A n fn

/-- Samples at the tap's input enter the 16 KiB buffer as room permits; a closed frame whose samples all have is complete. -/
def Core.tapFill (c : Core) (n : Nat) : Core :=
  let u := c.cam n
  let k := 16384 - u.tapBuf.length
  let rest := u.tapWait.drop k
  let c := c.setCam n { u with tapBuf := u.tapBuf ++ u.tapWait.take k, tapWait := rest
                               tapFn := if rest = [] then none else u.tapFn }
  match u.tapFn with
  | some fn => if rest = [] then (c.setB (F.CAM_TAP_BUSY n) false).post 0x0609 n fn else c
  | none => c

/-- The lines below `upto` that the tap has not taken reach its input. -/
def Core.tapLines (c : Core) (n upto : Nat) (f : CamFrame) : Core × CamFrame :=
  if !f.tap then (c, f)
  else
    let l := (List.range (upto - f.tapped)).flatMap fun i => c.tapBytes n f (f.tapped + i)
    let u := c.cam n
    ((c.setCam n { u with tapWait := u.tapWait ++ l }).tapFill n, { f with tapped := max upto f.tapped })

/-- A line comes in: samples that the buffer has had no room for since the line before overflow it (log entry 58). -/
def Core.tapArrive (c : Core) (n : Nat) (f : CamFrame) : Core × CamFrame :=
  if f.tap && !f.test && (c.cam n).tapWait != [] then (c.tapOverflow n f.fn, { f with tap := false }) else (c, f)

/-- Lines that a tap point lags behind the input: the stages before it look at neighbouring lines. -/
def Core.tapLag (c : Core) (n : Nat) : Nat :=
  match c.f (F.CAM_TAP_POINT n) with
  | 0 => 0
  | 3 => 8
  | _ => 2

/-! ### Opening and closing (R243-R245) -/

/-- The frame open is closed: padded, flagged and counted, and handed to the statistics and the proof feed. -/
def Core.camClose (c : Core) (n : Nat) (noFe : Bool) : Core :=
  match (c.cam n).opened with
  | none => c
  | some f =>
    let have_ := f.rx - f.cut
    let pad := List.replicate (f.height - f.lines.length) (List.replicate f.width (c.f (F.CAM_PAD_PAD n)))
    let rest := List.replicate (f.height - f.pars.length) (c.camPar n f.expset)
    let f := { f with noFe := noFe, lines := f.lines ++ pad, pars := f.pars ++ rest }
    let c := if have_ < f.height then (c.inc (R.CAM_SHORT_CNT n)).post 0x0601 n f.fn else c
    let c := if f.cut ≠ 0 then (c.inc (R.CAM_LONG_CNT n)).post 0x0602 n f.fn else c
    let c := if f.short ≠ 0 ∨ f.long ≠ 0 then c.postLim sec 0x0603 n f.fn else c
    let (c, f) := c.tapLines n f.height f
    let c := if f.tap then (c.setCam n { c.cam n with tapFn := some f.fn }).tapFill n else c
    let u := c.cam n
    let c := c.setCam n { u with opened := none, closed := u.closed ++ [f]
                                 feed := if f.test || c.f (F.CAM_CFG_TEST n) != 0 then u.feed else u.feed ++ [f] }
    (c.setB (F.CAM_STATUS_FRAME_OPEN n) false).perf (80 + n)

/-- The tap of R262 takes this frame; what the buffer still has no room for of the frame before overflows it. -/
def Core.tapFrame (c : Core) (n : Nat) : Bool × Core :=
  let c := match (c.cam n).tapFn with
    | some fn => c.tapOverflow n fn
    | none => c
  let u := c.cam n
  match c.f (F.CAM_TAP_MODE n) with
  | 1 => (true, (c.setF (F.CAM_TAP_MODE n) 0).setB (F.CAM_TAP_BUSY n) true)
  | 2 =>
    let k := u.taps + 1
    if c.f (F.CAM_TAP_N n) ≤ k then (true, (c.setCam n { u with taps := 0 }).setB (F.CAM_TAP_BUSY n) true)
    else (false, c.setCam n { u with taps := k })
  | _ => (false, c)

/-- A frame opens with FN `fn`; at a frame start maps and grids loaded take effect (R255), sets scheduled count it, and the raw
tap may take it. Free-running, the frame takes its FN now (R243). -/
def Core.camBegin (c : Core) (n fn : Nat) (trig : Option CamTrig) (noFs test : Bool) : Core :=
  let c := if noFs then c else c.expCount n fn
  let (tap, c) := if noFs then (false, c) else c.tapFrame n
  let c := if noFs then c else
    let u := c.cam n
    c.setCam n { u with map := u.mapNext.getD u.map, mapNext := none, grid := u.gridNext.getD u.grid, gridNext := none }
  let u := c.cam n
  let f := { c.camOpen n fn trig noFs test with tap := tap, map := u.map, grid := u.grid }
  let c := c.setCam n { u with opened := some f }
  let c := if trig.isNone then c.setN (R.CAM_FN n) fn else c
  (c.setN (R.CAM_LAST_SOF n) f.sof).setB (F.CAM_STATUS_FRAME_OPEN n) true

/-- A frame start (R243): paired with the oldest trigger in its window, or free-running; with no trigger it opens no frame. -/
def Core.camStart (c : Core) (n : Nat) (test : Bool) : Core :=
  let c := c.camClose n true
  let u := c.cam n
  if c.fb (F.CAM_CFG_TRIGGERED n) then
    match u.trigs.find? fun t => c.now ≤ t.taken + c.f (F.CAM_TRIG_WIN_WIN n) * usec with
    | some t => (c.setCam n { u with trigs := u.trigs.erase t }).camBegin n t.fn (some t) false test
    | none => ((c.expCount n (c.n (R.CAM_FN n))).inc (R.CAM_UNPAIRED_CNT n)).postLim sec 0x0606 n 0
  else (c.setCam n { u with fn := (u.fn + 1) % 2 ^ 32 }).camBegin n u.fn none false test

/-- A line received in the open frame (R244); a failed CRC counts in any frame and in none (R264). -/
def Core.camLine (c : Core) (n : Nat) (px : List Nat) (crcOk : Bool) : Core :=
  let c := if crcOk then c else c.inc (R.CAM_CRC_CNT n)
  match (c.cam n).opened with
  | none => c
  | some f =>
    let px := if crcOk then px else []
    let f := { f with rx := f.rx + 1, crcErr := f.crcErr || !crcOk }
    let f := if f.height ≤ f.lines.length then { f with cut := f.cut + 1 }
      else
        let pad := List.replicate (f.width - px.length) (c.f (F.CAM_PAD_PAD n))
        { f with lines := f.lines ++ [px.take f.width ++ pad], pars := f.pars ++ [c.camPar n f.expset]
                 short := f.short + b2n (px.length < f.width), long := f.long + b2n (f.width < px.length) }
    let (c, f) := c.tapArrive n f
    let (c, f) := c.tapLines n (f.lines.length - c.tapLag n) f
    c.setCam n { c.cam n with opened := some f }

/-- The port is enabled and listens to its receiver; a replay ignores the cameras (spec/19_observation_and_test.md R506). -/
def Core.camLive (c : Core) (n : Nat) : Bool := c.fb (F.CAM_CFG_EN n) && c.f (F.CAM_CFG_TEST n) == 0 && !c.replay

def Core.camPacket (c : Core) (n : Nat) : Core := c.setCam n { c.cam n with lastPkt := some c.now }

/-! ### Commands -/

/-- CSI_FRAME_START. -/
def execCsiFrameStart (p : Fin 4) (s : State) : Host.Outcome State Fault Refusal :=
  let c := s.core
  .next { s with core := if c.camLive p then (c.camPacket p).camStart p false else c }

/-- The port takes lines of a virtual channel and data type: RAW10, RAW12 or RAW14 as CAMn_CFG.DT says; with the reserved DT 3, of no
type (R240). -/
def Core.camTakes (c : Core) (n vc dt : Nat) : Bool :=
  vc == c.f (F.CAM_CFG_VC n) && dt == 0x2B + c.f (F.CAM_CFG_DT n) && dt != 0x2E

/-- CSI_LONG_PACKET: a line; free-running, with no frame open, it opens one flagged NO_FS (R243). -/
def execCsiLongPacket (p vc : Fin 4) (dt : BitVec 6) (px : List (BitVec 14)) (crcOk : Bool) (s : State) :
    Host.Outcome State Fault Refusal :=
  let c := s.core
  let c := if c.camLive p then
      let c := c.camPacket p
      if ¬ c.camTakes p vc dt.toNat then c.inc (R.CAM_DISCARD_CNT p)
      else
        let u := c.cam p
        let c := if u.opened.isNone ∧ ¬ c.fb (F.CAM_CFG_TRIGGERED p) then
            (c.setCam p { u with fn := (u.fn + 1) % 2 ^ 32 }).camBegin p u.fn none true false
          else c
        c.camLine p (px.map (·.toNat)) crcOk
    else c
  .next { s with core := c }

/-- CSI_PACKET_DISCARD: a packet outside the supported set (R240), or with an uncorrectable header (R241). -/
def execCsiPacketDiscard (p : Fin 4) (ecc : Bool) (s : State) : Host.Outcome State Fault Refusal :=
  let c := s.core
  let c := if c.camLive p then
      let c := c.camPacket p
      if ecc then
        let c := c.inc (R.CAM_ECC_CNT p)
        c.postLim sec 0x060B p (c.n (R.CAM_ECC_CNT p))
      else c.inc (R.CAM_DISCARD_CNT p)
    else c
  .next { s with core := c }

/-- CSI_FRAME_END. -/
def execCsiFrameEnd (p : Fin 4) (s : State) : Host.Outcome State Fault Refusal :=
  let c := s.core
  .next { s with core := if c.camLive p then (c.camPacket p).camClose p false else c }

/-- CAM_FRAME_TIMEOUT: no frame end within CAMn_FRAME_TO of the frame start (R245). -/
def execCamFrameTimeout (p : Fin 4) (s : State) : Host.Outcome State Fault Refusal :=
  let c := s.core
  let c := match (c.cam p).opened with
    | some f =>
      if f.start + c.f (F.CAM_FRAME_TO_TO p) * usec ≤ c.now then (c.camClose p true).post 0x0607 p f.fn else c
    | none => c
  .next { s with core := c }

/-- CAM_UNPAIRED: a trigger whose window has closed with no frame start (R243). -/
def execCamUnpaired (p : Fin 4) (s : State) : Host.Outcome State Fault Refusal :=
  let c := s.core
  let u := c.cam p
  let c := match u.trigs with
    | t :: rest =>
      if t.taken + c.f (F.CAM_TRIG_WIN_WIN p) * usec < c.now then
        ((c.setCam p { u with trigs := rest }).inc (R.CAM_UNPAIRED_CNT p)).postLim sec 0x0606 p 1
      else c
    | [] => c
  .next { s with core := c }

/-- CAM_STAT_RECORD: the record of the oldest closed frame (R261). -/
def execCamStatRecord (p : Fin 4) (s : State) : Host.Outcome State Fault Refusal :=
  let c := s.core
  let u := c.cam p
  let c := match u.closed with
    | f :: rest => (c.setCam p { u with closed := rest }).statRecord p f
    | [] => c
  .next { s with core := c }

/-- The raw lines of a test frame (R263). -/
def Core.testLines (c : Core) (n : Nat) : List (List Nat) :=
  let w := c.f (F.CAM_SIZE_WIDTH n)
  let h := c.f (F.CAM_SIZE_HEIGHT n)
  let cfa := c.f (F.CAM_CFG_CFA n)
  let top := 2 ^ (10 + 2 * c.f (F.CAM_CFG_DT n)) - 1
  let band := max 1 (w / 8)
  (List.range h).map fun y => (List.range w).map fun x =>
    match c.f (F.CAM_CFG_TEST n) with
    | 1 =>
      let i := min 7 (x / band)
      if 4 ≤ cfa then (7 - i) * top / 7
      else
        let b := 2 - cfaColour cfa (cfaPos x y)
        if bit (7 - i) b then top else 0
    | 2 => x * 65535 / max 1 (w - 1)
    | _ => (List.range (10 + 2 * c.f (F.CAM_CFG_DT n))).foldl (fun v b =>
        v + 2 ^ b * b2n (prbsBit 15 14 (Config.prbsStart + Config.prbsStride * (y * w + x) + Config.prbsPlace b))) 0

/-- CAM_TEST_FRAME: a generated frame, at a trigger or at CAMn_TEST_PERIOD (R263). -/
def execCamTestFrame (p : Fin 4) (s : State) : Host.Outcome State Fault Refusal :=
  let c := s.core
  let u := c.cam p
  let trig := c.fb (F.CAM_CFG_TRIGGERED p)
  let due : Bool := if trig then decide (u.trigs ≠ []) else decide (u.testAt + c.f (F.CAM_TEST_PERIOD_PERIOD p) * usec ≤ c.now)
  let c := if c.fb (F.CAM_CFG_EN p) && c.f (F.CAM_CFG_TEST p) != 0 && due then
      let c := (c.setCam p { u with testAt := c.now }).camStart p true
      ((c.testLines p).foldl (fun c l => c.camLine p l true) c).camClose p false
    else c
  .next { s with core := c }

/-- Writes of an exposure set put out in order. -/
def Core.cciWrites (c : Core) (n : Nat) (w : List (Nat × Nat)) : Core := c.eachOf w fun x c => c.cciOut n false x.1 [x.2]

/-- EXP_WRITES_DONE: the writes of the select under way are complete (R248). -/
def execExpWritesDone (p : Fin 4) (s : State) : Host.Outcome State Fault Refusal :=
  let c := s.core
  let u := c.cam p
  let c := match u.selects with
    | j :: rest =>
      let w := (u.set j).writes
      let c := c.setCam p { u with selects := rest, sched := u.sched ++ [(j, max 1 (c.f (F.CAM_SENSOR_K p)))] }
      (c.cciWrites p w).expSync p
    | [] => c
  .next { s with core := c }

/-- CCI_WRITE_FAIL: write `i` of the select under way fails (R250): those before it were made, the rest are abandoned, and the
failure counts to a K-th frame start of its own. -/
def execCciWriteFail (p : Fin 4) (i : Fin 14) (s : State) : Host.Outcome State Fault Refusal :=
  let c := s.core
  let u := c.cam p
  let c := match u.selects with
    | j :: rest =>
      match (u.set j).writes[i.val]? with
      | some w =>
        let c := c.setCam p { u with selects := rest, failIn := u.failIn ++ [max 1 (c.f (F.CAM_SENSOR_K p))] }
        ((c.cciWrites p ((u.set j).writes.take i.val)).post 0x0605 p w.1).expSync p
      | none => c
    | [] => c
  .next { s with core := c }

end Sys2Proof.Machine
end

