-- ==== Sys2Proof/Machine/Correlate.lean ====
section
/-!
DEFINITION. Frames of the proof feed against the predicted-density stream (spec/08_density_and_placement_loops.md R212-R217, R224):
the ring, where a pixel lies, and the correlations. R217 names the normalised peak and no formula: the model takes the correlation
coefficient (log entry 55).
-/

namespace Sys2Proof.Machine

/-- A fraction rounded to the nearest, halves up; the denominator is positive. -/
def roundDiv (a b : Int) : Int := (2 * a + b) / (2 * b)

def clampTo (lo hi v : Int) : Int := max lo (min hi v)

def Core.setPf (c : Core) (p : Proof) : Core := { c with pf := p }

/-! ### Cells (R212, R216) -/

/-- The ring's rows of a line of an ink; those of the columns of a lost slice computed anew come first
(spec/07_run_ahead_pipeline.md R206). -/
def Core.ringRows (c : Core) (l k : Nat) : List (Nat × List Cell) :=
  let ring := c.newest.n R.PF_RING_LINES
  if ring = 0 then []
  else
    let key := (l % ring * 8 + k) * 64
    (List.range 64).reverse.filterMap fun p =>
      let e := Tab.get (fun _ => (0, 0, [])) c.pf.rows (key + p)
      if e.1 = l + 1 then some e.2 else none

/-- The cell of a column of a line. -/
def Core.cell (c : Core) (l k col : Nat) : Option Cell :=
  (c.ringRows l k).findSome? fun r => if r.1 ≤ col then r.2[col - r.1]? else none

/-- The column up to which rows cover the columns from one on, with fuel. -/
def rowsReach : Nat → List (Nat × List Cell) → Nat → Nat
  | 0, _, a => a
  | n + 1, rows, a =>
    match rows.find? fun r => r.1 ≤ a && decide (a < r.1 + r.2.length) with
    | some r => rowsReach n rows (r.1 + r.2.length)
    | none => a

/-- A line of an ink is in the ring, in every part. -/
def Core.ringWhole (c : Core) (l k : Nat) : Bool :=
  let g := c.genAt l
  decide (g.lastCol ≤ rowsReach 64 (c.ringRows l k) g.firstCol)

/-- The first poisoned burst of the entry of a line in the ring. -/
def Core.ringPoison (c : Core) (l : Nat) : Option Nat :=
  let e := c.newest.ringEntry l
  ((c.mem.poison.filter (·.2)).map (·.1)).find? fun b => decide (e.1 < 64 * b + 64) && decide (64 * b < e.1 + e.2)

/-- A bar gives no sample from a line (R219). -/
def Core.noSample (c : Core) (l b : Nat) : Bool :=
  let ring := max 1 (c.newest.n R.PF_RING_LINES)
  decide ((c.genAt l).jobLast < l) || Tab.get (fun _ => 0) c.pf.bad (l % ring * 16 + b) == l + 1

/-- The boundary of strokes at or after a position, by one stretch of the grid. -/
def Grid.line (g : Grid) (x : Int) : Int :=
  g.s0 + (if 0 < g.step then -((g.b0 - x) / g.step) else if g.step < 0 then -((x - g.b0) / (-g.step)) else 0)

/-- The stroke whose line a position along the web lies in, by the boundaries as laid down: a stretch holds the lines after its first
boundary, and the line that ends at that boundary belongs to the stretch before. -/
def gridLine : List Grid → Int → Int
  | [], _ => 0
  | [g], x => g.line x
  | g :: gs, x => if (g.s0 : Int) < g.line x then g.line x else min g.s0 (gridLine gs x)

/-- The image line of a frame's row (R216). -/
def Core.rowLine (c : Core) (n : Nat) (f : CamFrame) (y : Nat) : Int :=
  let dir : Int := if c.web.rev then -1 else 1
  let sig : Int := if c.fb (F.PF_CAM_CFG_FLIP_Y n) then -1 else 1
  let m := 512 * (f.pos - dir * c.i64 (R.PF_CAM_DIST_LO n)) +
    dir * sig * (2 * (y : Int) - ((f.height : Int) - 1)) * c.n (R.PF_CAM_PXH n)
  gridLine c.web.grid (m * 2 ^ 23) - c.sTof

/-- The axis position of a frame: that of its header where the port's axis is the loop's. -/
def Core.frameAxis (c : Core) (n : Nat) (f : CamFrame) : Int :=
  if c.fb (F.PF_CAM_CFG_TYPE n) then
    let ax := c.f (F.PF_CAM_CFG_AXIS n)
    if c.f (F.CAM_CFG_AXIS_SRC n) = ax + 1 then f.axis else (c.enc (ax + 2)).pos / p32
  else 0

/-- The column of a frame's pixel column (R216). -/
def Core.pixCol (c : Core) (n : Nat) (f : CamFrame) (x : Nat) : Int :=
  let w : Int := (2 * (x : Int) + 1) * c.n (R.PF_CAM_PXW n)
  let p := 512 * (c.i64 (R.PF_CAM_XOFS_LO n) + c.frameAxis n f) + (if c.fb (F.PF_CAM_CFG_FLIP_X n) then -w else w)
  3 * p / (63500 * 512)

/-- A block's mean predicted density (R212), where all 64 pixels are in the ring. -/
def Core.blockMean (c : Core) (k bl bc : Nat) : Option Nat :=
  ((List.range 64).foldl (fun acc i => do
    let s ← acc
    let e ← c.cell (8 * bl + i / 8) k (8 * bc + i % 8)
    return s + e.d4) (some 0)).map (· / 64)

/-! ### Correlations (R217, R224) -/

/-- The sums of a correlation of what is seen with what is predicted. -/
structure Corr where
  n : Int := 0
  sd : Int := 0
  sp : Int := 0
  sdd : Int := 0
  spp : Int := 0
  sdp : Int := 0

def Corr.add (a : Corr) (d p : Int) : Corr :=
  ⟨a.n + 1, a.sd + d, a.sp + p, a.sdd + d * d, a.spp + p * p, a.sdp + d * p⟩

/-- The correlation coefficient x 65,536; 0 where either side is constant. -/
def Corr.value (a : Corr) : Int :=
  let num := a.n * a.sdp - a.sd * a.sp
  let v := (a.n * a.sdd - a.sd * a.sd) * (a.n * a.spp - a.sp * a.sp)
  if v ≤ 0 then 0
  else
    let r : Int := Nat.sqrt (num.natAbs ^ 2 * 2 ^ 32 / v.toNat)
    if num < 0 then -r else r

/-- The offsets up to `s`, nearest first. -/
def outward (s : Nat) : List Int := 0 :: (List.range s).flatMap fun i => [Int.ofNat i + 1, -Int.ofNat i - 1]

/-- The offset with the highest value, the nearest of equals. -/
def bestOf {α : Type} (value : α → Int) (first : α) (l : List α) : α :=
  l.foldl (fun b x => if value b < value x then x else b) first

/-- The density that the stream predicts at a place: of a cell in a traversing camera's window, or of a fixed camera's block. -/
def Core.predAt (c : Core) (n k : Nat) (l col : Int) : Option Nat :=
  if l < 0 ∨ col < 0 ∨ 131071 < col then none
  else if c.fb (F.PF_CAM_CFG_TYPE n) then
    (c.cell l.toNat k col.toNat).bind fun e => if bit e.win n then some (c.dens k e.t6) else none
  else c.blockMean k (l.toNat / 8) (col.toNat / 8)

/-- A frame's planes correlated with the stream at an offset, over all columns or those of a zone. -/
def Core.corrAt (c : Core) (n : Nat) (f : CamFrame) (zone : Option Nat) (o : Int × Int) : Corr :=
  let q := f.pipe
  let g := c.newest
  ((c.densInks n).filter g.inks.contains).foldl (fun a k =>
    (List.range f.height).foldl (fun a y => (List.range f.width).foldl (fun a x =>
      let col := c.pixCol n f x + o.2
      if zone.all fun z => g.zoneOf col == z then
        match c.predAt n k (c.rowLine n f y + o.1) col with
        | some p => a.add (q.s8 k x y) p
        | none => a
      else a) a) a) {}

/-- SEARCH, within its values 1 to 32. -/
def Core.search (c : Core) (n : Nat) : Nat := max 1 (min 32 (c.f (F.PF_CAM_CFG_SEARCH n)))

/-- The whole lines and columns of the correlation peak. -/
def Core.corrPeak (c : Core) (n : Nat) (f : CamFrame) (zone : Option Nat) : Int × Int :=
  let s := outward (c.search n)
  bestOf (fun o => (c.corrAt n f zone o).value) (0, 0) (s.flatMap fun dy => s.map fun dx => (dy, dx))

/-- The peak's place between whole steps, in 1/64 of one: that of a parabola through it and its neighbours. -/
def parabola (before peak after : Int) : Int :=
  let d := 2 * (2 * peak - before - after)
  if d ≤ 0 then 0 else roundDiv (64 * (after - before)) d

/-- δ_z and ξ_z of a zone that a fixed camera sees, in 1/64 of a line and of a column: observed minus predicted position (R217). -/
def Core.zoneShift (c : Core) (n : Nat) (f : CamFrame) (z : Nat) : Option (Int × Int) :=
  let o := c.corrPeak n f (some z)
  let at_ := fun (dy dx : Int) => (c.corrAt n f (some z) (o.1 + dy, o.2 + dx)).value
  if (c.corrAt n f (some z) o).n = 0 then none
  else some (-(64 * o.1 + parabola (at_ (-1) 0) (at_ 0 0) (at_ 1 0)), -(64 * o.2 + parabola (at_ 0 (-1)) (at_ 0 0) (at_ 0 1)))

/-- A segment's cells of a parity correlated with their tones moved by `j`/64 line. -/
def plcCorr (l : List PlcCell) (j : Int) : Corr :=
  l.foldl (fun a e => a.add e.d (if 0 ≤ j then (e.t : Int) * (64 - j) + e.after * j else (e.t : Int) * (64 + j) - e.before * j)) {}

/-- δ_s of a segment in a parity, in nm: the observed minus the predicted line (R224); none with no cells. -/
def Core.plcShift (c : Core) (seg par : Nat) : Option Int :=
  match Tab.get (fun _ => []) c.pf.plc (2 * seg + par) with
  | [] => none
  | l =>
    let j := bestOf (fun j => (plcCorr l j).value) 0 (outward 64)
    some (roundDiv (-j * c.web.pitch) (64 * p32))

end Sys2Proof.Machine
end

