-- ==== Sys2Proof/Machine/Loops.lean ====
section
/-!
DEFINITION. The density and placement loops (spec/08_density_and_placement_loops.md): frames accumulated, the solves, ages and the results ring.
-/

namespace Sys2Proof.Machine

/-! ### Records of nozzles (R218, R220) -/

/-- The sums of one parity. -/
structure Fit where
  n : Nat := 0
  sx : Nat := 0
  sxx : Nat := 0
  sr : Int := 0
  sxr : Int := 0

def Fit.add (a b : Fit) : Fit := ⟨a.n + b.n, a.sx + b.sx, a.sxx + b.sxx, a.sr + b.sr, a.sxr + b.sxr⟩
/-- n x SXX - SX^2, and n x SXR - SX x SR. -/
def Fit.v (f : Fit) : Int := (f.n * f.sxx : Nat) - (f.sx * f.sx : Nat)
def Fit.a (f : Fit) : Int := f.n * f.sxr - f.sx * f.sr
/-- The numerator of beta over n x v. -/
def Fit.b (f : Fit) : Int := f.sr * f.v - f.a * f.sx

/-- Where the record of nozzle, bin and parity lies. -/
def Core.accAddr (c : Core) (m b par : Nat) : Nat := c.newest.n64 R.PF_ACC_BASE_LO + ((m * 4 + b) * 2 + par) * 24

/-- Reads of a proof engine (R325): of each that brings poison or meets no DRAM, the burst is delivered (spec/12_memory.md R333). -/
def Core.proofReads (c : Core) (l : List Nat) (n : Nat) : Core :=
  c.eachOf l fun pa c =>
    let c := c.touch pa n false
    if (c.rd pa n).isSome then c
    else c.deliverBad (((bursts pa n).find? fun b => decide (c.dramTop < b + 64) || c.isPoison (b / 64)).getD pa)

/-- A record; a poisoned one counts no samples. -/
def Core.accRec (c : Core) (m b par : Nat) : Fit :=
  match c.rd (c.accAddr m b par) 24 with
  | some l => ⟨le l 0 4, le l 4 4, le l 8 4, sext 32 (le l 12 4), sext 64 (le l 16 8)⟩
  | none => {}

def Fit.bytes (f : Fit) : List Byte :=
  leBytes 4 f.n ++ leBytes 4 f.sx ++ leBytes 4 f.sxx ++ leBytes 4 (wrap 32 f.sr) ++ leBytes 8 (wrap 64 f.sxr)

/-- A head's temperatures widened by a sample. -/
def widen (o : Option (Int × Int)) (t : Int) : Option (Int × Int) :=
  match o with
  | some (a, b) => some (min a t, max b t)
  | none => some (t, t)

/-- Where the last line sampled for a solve is kept (R237): of a nozzle's bin, of a segment's placement, of an ink's zone, of an
engine's zone offsets. -/
def lineNozzle (m b : Nat) : Nat := 4 * m + b
def lineSeg (seg : Nat) : Nat := 2 ^ 23 + seg
def lineZone (zk : Nat) : Nat := 2 ^ 24 + zk
def lineDist (eng z : Nat) : Nat := 2 ^ 24 + 512 + 64 * eng + z

/-- A line sampled for a solve. -/
def Core.sampled (c : Core) (key l : Nat) : Core :=
  c.setPf { c.pf with lastLine := Tab.set (fun _ => 0) c.pf.lastLine key l }

/-- The last line sampled for a solve. -/
def Core.lastOf (c : Core) (key : Nat) : Nat := Tab.get (fun _ => 0) c.pf.lastLine key

/-- The last line sampled of a segment's nozzles in a bin. -/
def Core.lastOfSeg (c : Core) (seg b : Nat) : Nat :=
  (List.range 64).foldl (fun v i => max v (c.lastOf (lineNozzle (64 * seg + i) b))) 0

/-- A sample of a nozzle from a line added to its record. -/
def Core.sample (c : Core) (l m b par x : Nat) (r : Int) : Core :=
  let c := c.proofReads [c.accAddr m b par] 24
  let f := c.accRec m b par
  if 65535 ≤ f.n then c
  else
    let c := c.sampled (lineNozzle m b) l
    let c := c.put (c.accAddr m b par) (f.add ⟨1, x, x * x, r, x * r⟩).bytes
    match mapNozzle c.newest.tabs.map m with
    | some (_, _, h) =>
      c.setPf { c.pf with nth := Tab.set (fun _ => none) c.pf.nth m (widen (Tab.get (fun _ => none) c.pf.nth m) (c.theta h)) }
    | none => c

/-- The nozzle that a cell's PLAN names. -/
def planNozzle (k col plan : Nat) : Option Nat :=
  match plan with
  | 1 => some (nozzle k 0 col)
  | 2 => some (nozzle k 1 col)
  | 3 => some (nozzle k 1 (col - 1))
  | _ => none

/-- The sample of a cell of density `d` of a line (R218). -/
def Core.cellSample (c : Core) (l k col par : Nat) (e : Cell) (d : Int) : Core :=
  let i := e.t6 / 256
  let slope : Int := (c.densEntry k (i + 1) : Int) - c.densEntry k i
  match planNozzle k col e.plan with
  | some m =>
    if e.excl || decide (slope < max 1 (c.f F.PF_MISC_MIN_SLOPE)) then c
    else c.sample l m e.bin par i (clampTo (-8191) 8191 ((d - c.dens k e.t6) * 256 / slope))
  | none => c

/-! ### Accumulation (R218, R221) -/

/-- A pixel sum by cell or block. -/
abbrev PixSum := Tab (Nat × Int)

/-- The sum of a plane over the pixels of a frame by key: the row's and the column's place of a pixel give the key. -/
def pixSum (w h : Nat) (key : Nat → Nat → Option Nat) (plane : Img) : PixSum :=
  (List.range h).foldl (fun t y => (List.range w).foldl (fun t x =>
    match key x y with
    | some k => let e := Tab.get (fun _ => (0, 0)) t k; Tab.set (fun _ => (0, 0)) t k (e.1 + 1, e.2 + plane x y)
    | none => t) t) []

/-- A cell's density for the placement of its segment (R224): kept for an ink with TRIM_EN, from the line of the segment's last trim
change, while no trim change of it waits. -/
def Core.plcKeep (c : Core) (l k col par : Nat) (e : Cell) (d : Int) : Core :=
  match planNozzle k col e.plan with
  | some m =>
    let seg := m / 64
    if c.fb (F.PF_INK_TRIM_EN k) && (Tab.get (fun _ => none) c.pf.trimPend seg).isNone &&
        decide (Tab.get (fun _ => 0) c.pf.trimFrom seg ≤ l) then
      let tone := fun (l : Nat) => match c.cell l k col with
        | some x => x.t6
        | none => e.t6
      let i := 2 * seg + par
      let x : PlcCell := ⟨d, e.t6, if l = 0 then e.t6 else tone (l - 1), tone (l + 1)⟩
      (c.setPf { c.pf with plc := Tab.set (fun _ => []) c.pf.plc i (Tab.get (fun _ => []) c.pf.plc i ++ [x]) }).sampled (lineSeg seg) l
    else c
  | none => c

/-- The bar that fires the nozzle of a PLAN. -/
def Gen.planBar (g : Gen) (k plan : Nat) : Nat := if plan = 1 then g.bar0 k else g.bar1 k

/-- A frame of a traversing camera accumulated, the pixels outside the window counted (R213, R218); a frame that overlaps a re-skew
gives no placement (R236). -/
def Core.accTraverse (c : Core) (n : Nat) (f : CamFrame) (dy dx : Int) (skew : Bool) : Core :=
  let q := f.pipe
  let line := fun y => c.rowLine n f y + dy
  let col := fun x => c.pixCol n f x + dx
  let place := fun x y : Nat => if 0 ≤ line y ∧ 0 ≤ col x ∧ col x < 131072 then some ((line y).toNat * 131072 + (col x).toNat) else none
  let inWin := fun key k : Nat => (c.cell (key / 131072) k (key % 131072)).any fun e => bit e.win n
  let out := (List.range f.height).foldl (fun m y => m + (List.range f.width).countP fun x =>
    match place x y with
    | some key => !c.newest.inks.any (inWin key)
    | none => true) 0
  let c := c.addN R.PF_OUTWIN_CNT out
  c.eachOf ((c.densInks n).filter fun k => c.f (F.PF_INK_MODE k) = 2) fun k c =>
    let sums := pixSum f.width f.height (fun x y => (place x y).filter fun key => inWin key k) (q.s8 k)
    c.eachOf sums fun e c =>
      let l := e.1 / 131072
      let col := e.1 % 131072
      match c.cell l k col with
      | some x =>
        if c.noSample l ((c.genAt l).planBar k x.plan) then c
        else
          let d := roundDiv e.2.2 (max 1 e.2.1)
          let c := if skew then c else c.plcKeep l k col (f.fn % 2) x d
          c.cellSample l k col (f.fn % 2) x d
      | none => c

/-- Where an engine's sums of an ink, a zone and a parity lie. -/
def zoneKey (eng k z par : Nat) : Nat := eng * 1024 + (k * 64 + z) * 2 + par

/-- The heads of an ink with nozzles in the columns `a` to `b`. -/
def Gen.headsAt (g : Gen) (k a b : Nat) : List Nat :=
  ((g.tabs.map.filter fun r => r.start / 262144 = k ∧ r.start % 131072 ≤ b ∧ a ≤ r.last % 131072).map (·.head)).eraseDups

/-- A block's sample of a zone (R221), from the line that the zone accumulates from, by the engine that serves the camera. -/
def Core.blockSample (c : Core) (eng k bl bc par : Nat) (d : Int) : Core :=
  let g := c.newest
  let z := g.zoneOf (8 * bc : Nat)
  let zk := k * 64 + z
  let key := zoneKey eng k z par
  if decide (8 * bl < Tab.get (fun _ => 0) c.pf.zFrom zk) ||
      (List.range 8).any fun i => c.noSample (8 * bl + i) (g.bar0 k) || c.noSample (8 * bl + i) (g.bar1 k) then c
  else match c.blockMean k bl bc with
    | none => c
    | some p =>
      let a := Tab.get (fun _ => {}) c.pf.zacc key
      let heads := g.headsAt k (8 * bc) (8 * bc + 7)
      c.setPf { c.pf with
        zacc := Tab.set (fun _ => {}) c.pf.zacc key { a with n := a.n + 1, spd := a.spd + p * d, spp := a.spp + p * p }
        zrange := Tab.set (fun _ => none) c.pf.zrange key
          (heads.foldl (fun o h => widen o (c.theta h)) (Tab.get (fun _ => none) c.pf.zrange key))
        zth := heads.foldl (fun t h =>
          let e := Tab.get (fun _ => (0, 0)) t (zk * 1024 + h)
          Tab.set (fun _ => (0, 0)) t (zk * 1024 + h) (e.1 + 1, e.2 + c.theta h)) c.pf.zth
        lastLine := Tab.set (fun _ => 0) c.pf.lastLine (lineZone zk) (8 * bl + 7) }

/-- A frame of a fixed camera accumulated (R221). -/
def Core.accFixed (c : Core) (n : Nat) (f : CamFrame) (dy dx : Int) : Core :=
  let q := f.pipe
  let par := f.fn % 2
  let eng := c.f (F.PF_CAM_CFG_ENGINE n)
  let place := fun x y : Nat =>
    let l := c.rowLine n f y + dy
    let k := c.pixCol n f x + dx
    if 0 ≤ l ∧ 0 ≤ k ∧ k < 131072 then some (l.toNat / 8 * 16384 + k.toNat / 8) else none
  let inks := (c.densInks n).filter fun k => c.f (F.PF_INK_MODE k) = 1 || c.f (F.PF_INK_MODE k) = 2
  c.eachOf inks fun k c =>
    let sums := pixSum f.width f.height place (q.s8 k)
    let c' := c.eachOf sums fun e c => c.blockSample eng k (e.1 / 16384) (e.1 % 16384) par (roundDiv e.2.2 (max 1 e.2.1))
    c'.each 64 fun z c'' =>
      let i := zoneKey eng k z par
      let a := Tab.get (fun _ => ({} : ZAcc)) c''.pf.zacc i
      if a.n = (Tab.get (fun _ => ({} : ZAcc)) c.pf.zacc i).n then c''
      else c''.setPf { c''.pf with zacc := Tab.set (fun _ => {}) c''.pf.zacc i { a with frames := a.frames + 1 } }

/-- The offsets of the zones that a fixed camera places, and one more frame of their parity (R217, R221). -/
def Core.accZones (c : Core) (n : Nat) (f : CamFrame) : Core :=
  let eng := c.f (F.PF_CAM_CFG_ENGINE n)
  let par := f.fn % 2
  let last := ((List.range f.height).foldl (fun m y => max m (c.rowLine n f y)) 0).toNat
  let seen := (List.range 64).filter fun z => (c.zoneShift n f z).isSome
  let dacc := (List.range 64).foldl (fun t z =>
    match c.zoneShift n f z with
    | some o =>
      let i := (eng * 64 + z) * 2 + par
      let a := Tab.get (fun _ => ({} : ZAcc)) t i
      Tab.set (fun _ => {}) t i { n := a.n + 1, spd := a.spd + o.1, spp := a.spp + o.2, frames := a.frames + 1 }
    | none => t) c.pf.dacc
  let i := eng * 2 + par
  (c.setPf { c.pf with dacc := dacc, dframes := Tab.set (fun _ => 0) c.pf.dframes i (Tab.get (fun _ => 0) c.pf.dframes i + 1) }).eachOf
    seen fun z c => c.sampled (lineDist eng z) last

/-! ### Results (R237) -/

/-- A record of 32 bytes put into the results ring, or dropped. -/
def Core.pfResult (c : Core) (l : List Byte) : Core :=
  let g := c.newest
  let size := g.n R.PF_RES_SIZE
  let wr := c.n R.PF_RES_WR
  let next := if size = 0 then 0 else (wr + 32) % size
  if size = 0 ∨ next = c.n R.PF_RES_RD then
    let c := c.inc R.PF_RES_DROP_CNT
    c.postLim sec 0x050A 31 (c.n R.PF_RES_DROP_CNT)
  else (c.put (g.n64 R.PF_RES_BASE_LO + wr) l).setN R.PF_RES_WR next

/-- A detail record of a solve that line `last` was sampled for last. -/
def Core.detail (c : Core) (kind outcome b id last : Nat) (e0 e1 change th : Int) : Core :=
  if c.fb F.PF_CFG_DETAIL_EN then
    let x := wrap 32 e0
    c.pfResult (leBytes 1 2 ++ leBytes 1 kind ++ leBytes 1 outcome ++ leBytes 1 b ++ leBytes 4 id ++ leBytes 2 x ++
      leBytes 2 (x / 65536) ++ leBytes 4 (wrap 32 e1) ++ leBytes 4 (wrap 32 change) ++ leBytes 2 (wrap 16 th) ++
      leBytes 2 0 ++ leBytes 6 last ++ leBytes 2 0)
  else c

/-- A discarded solve counted: outcome 2 disagree, 3 ill-conditioned, 4 temperature spread; 0x0503 at most once a second
with the discards of the last second. -/
def Core.discard (c : Core) (engine outcome : Nat) : Core :=
  let c := c.inc (match outcome with
    | 2 => R.PF_DISAGREE_CNT
    | 3 => R.PF_ILLCOND_CNT
    | _ => R.PF_TSPREAD_CNT)
  let l := c.now :: (Tab.get (fun _ => []) c.pf.discAt engine).filter fun t => c.now < t + sec
  (c.setPf { c.pf with discAt := Tab.set (fun _ => []) c.pf.discAt engine l }).postLim sec 0x0503 engine l.length

/-! ### Ages (R233, R234) -/

/-- The web travelled since a mark, in m. -/
def Core.ageM (c : Core) (mark : Nat) : Nat := (c.pf.travel - mark) / (1000000000 * 2 ^ 32)

/-- A validated solve that covers a head restarts its age. -/
def Core.headSolved (c : Core) (h : Nat) : Core :=
  let age := c.ageM (Tab.get (fun _ => 0) c.pf.ages h)
  let c := c.setPf { c.pf with ages := Tab.set (fun _ => 0) c.pf.ages h c.pf.travel }
  let w := R.PF_STALE (h / 32)
  if bit (c.n w) (h % 32) then (c.setN w (setBits (c.n w) (h % 32) 1 0)).post 0x0505 h age else c

/-- The stale count of an ink's bin, and its event at 0. -/
def Core.binCount (c : Core) (seg b : Nat) (on : Bool) : Core :=
  let k := seg / 4096
  let i := seg * 4 + b
  let staleIn := fun (c : Core) => c.pf.binStale.countP fun e => e.2 && e.1 / 16384 == k && e.1 % 4 == b
  let before := staleIn c
  let c := c.setPf { c.pf with binStale := Tab.set (fun _ => false) c.pf.binStale i on }
  let after := staleIn c
  let c := c.setN (R.PF_INK_BSTALE k) (setBits (c.n (R.PF_INK_BSTALE k)) (8 * b) 8 (min 255 after))
  if before = 0 ∧ after ≠ 0 then c.post 0x050C k (2 ^ 31 + b)
  else if before ≠ 0 ∧ after = 0 then c.post 0x050C k b else c

/-- A validated coverage solve restarts a bin's age. -/
def Core.binSolved (c : Core) (seg b : Nat) : Core :=
  let i := seg * 4 + b
  let c := c.setPf { c.pf with binAges := Tab.set (fun _ => 0) c.pf.binAges i c.pf.travel }
  if Tab.get (fun _ => false) c.pf.binStale i then c.binCount seg b false else c

/-- HEAD_STALE: a head's age reaches PF_STALE_LEN (R233). -/
def execHeadStale (h : Fin 1024) (s : State) : Host.Outcome State Fault Refusal :=
  let c := s.core
  let w := R.PF_STALE (h / 32)
  let age := c.ageM (Tab.get (fun _ => 0) c.pf.ages h)
  let due := !bit (c.n w) (h % 32) && decide (c.f F.PF_STALE_LEN_LEN ≤ age)
  .next { s with core := if due then (c.setN w (setBits (c.n w) (h % 32) 1 1)).post 0x0504 h age else c }

/-- BIN_STALE: a bin's age reaches PF_STALE_LEN (R234). -/
def execBinStale (seg : Fin 32768) (b : Fin 4) (s : State) : Host.Outcome State Fault Refusal :=
  let c := s.core
  let i := seg.val * 4 + b
  let due := !Tab.get (fun _ => false) c.pf.binStale i &&
    decide (c.f F.PF_STALE_LEN_LEN ≤ c.ageM (Tab.get (fun _ => 0) c.pf.binAges i))
  .next { s with core := if due then c.binCount seg b true else c }

/-! ### Nozzle solves (R222) -/

/-- Too few samples, or too little variance. -/
def Core.illFit (c : Core) (f : Fit) : Bool :=
  decide (f.n < c.f F.PF_MIN_N) || decide (f.v ≤ 0) || decide (f.v < c.f F.PF_MIN_VAR * f.n * f.n)

/-- The gains of two parities differ by more than TOL.GAIN (in 1/1,000). -/
def Core.gainApart (c : Core) (f0 f1 : Fit) : Bool :=
  decide ((c.f F.PF_TOL_A_GAIN : Int) * 256 * f0.v * f1.v < ((f0.a * f1.v - f1.a * f0.v) * 1000).natAbs)

/-- The offsets of two parities differ by more than TOL.OFS tone steps. -/
def Core.ofsApart (c : Core) (f0 f1 : Fit) : Bool :=
  let d0 := f0.n * f0.v
  let d1 := f1.n * f1.v
  decide ((c.f F.PF_TOL_A_OFS : Int) * 256 * d0 * d1 < (f0.b * d1 - f1.b * d0).natAbs)

/-- G_TGT and O_TGT of pooled sums, saturated at their fields. -/
def Fit.target (f : Fit) : Int × Int :=
  let d := 256 * f.v + f.a
  if d ≤ 0 then (4095, if 0 ≤ f.b then -128 else 127)
  else (clampTo 0 4095 (roundDiv (2048 * 256 * f.v) d), clampTo (-128) 127 (roundDiv (-f.b) (f.n * d)))

def Core.tgtAddr (c : Core) (m : Nat) : Nat := c.newest.n64 R.PF_TGT_BASE_LO + 8 * m

/-- GAIN and OFFSET that the sets in force give a nozzle at a temperature (R176). -/
def Core.setsAt (c : Core) (g : Gen) (m : Nat) (th : Int) : Int × Int :=
  let w := c.interp g m th
  ((w / 256 : Nat), sext 8 (w % 256))

/-- A nozzle's target made valid or not. -/
def Core.setTarget (c : Core) (m : Nat) (gain ofs th : Int) (valid : Bool) : Core :=
  let w := wrap 12 gain + wrap 8 ofs * 2 ^ 12 + wrap 16 th * 2 ^ 20 + b2n valid * 2 ^ 36
  let c := c.put (c.tgtAddr m) (leBytes 8 w)
  let t := c.pf.targets.filter (· ≠ m)
  c.setPf { c.pf with targets := if valid then t ++ [m] else t }

/-- A head's share of solved nozzles; handed over at HANDOVER percent (R211). -/
def Core.handover (c : Core) (m : Nat) : Core :=
  let g := c.newest
  match mapNozzle g.tabs.map m with
  | none => c
  | some (_, _, h) =>
    let c := c.setPf { c.pf with solved := if c.pf.solved.contains m then c.pf.solved else m :: c.pf.solved }
    let all := (g.tabs.map.filter (·.head == h)).flatMap MapRun.nozzles
    let able := all.filter fun j => let st := c.nzNow j / 2 ^ 30; st == 0 || (st == 1 && !g.fb F.NZ_CFG_HIDE_WEAK)
    let got := able.countP fun j => c.pf.solved.contains j
    let c := c.headSolved h
    if able.length * c.f F.PF_MISC_HANDOVER ≤ got * 100 ∧ ¬ c.pf.handed.contains h then
      (c.setPf { c.pf with handed := h :: c.pf.handed }).post 0x050B h (got * 100 / max 1 able.length)
    else c

/-- The solve of a nozzle. -/
def Core.solveNozzle (c : Core) (m : Nat) : Core :=
  let k := m / 262144
  let b := c.f F.PF_CFG_NZ_BIN
  let eng := c.f (F.PF_INK_ENGINE k)
  let f0 := c.accRec m b 0
  let f1 := c.accRec m b 1
  let st := c.nzNow m / 2 ^ 30
  let (lo, hi) := (Tab.get (fun _ => none) c.pf.nth m).getD (0, 0)
  let gainE := fun (f : Fit) => if f.v ≤ 0 then 0 else roundDiv (f.a * 256) f.v
  let ofsE := fun (f : Fit) => if f.v ≤ 0 ∨ f.n = 0 then 0 else roundDiv f.b (f.n * f.v)
  let th := (lo + hi) / 2
  let last := c.lastOf (lineNozzle m b)
  let both := fun (og oo : Nat) (dg dofs : Int) (c : Core) =>
    (c.detail 0 og b m last (gainE f0) (gainE f1) dg th).detail 1 oo b m last (ofsE f0) (ofsE f1) dofs th
  let put := fun (outcome : Nat) (c : Core) => both outcome outcome 0 0 c
  if 2 ≤ st then c
  else if c.illFit f0 || c.illFit f1 then put 3 (c.discard eng 3)
  else if c.gainApart f0 f1 || c.ofsApart f0 f1 then put 2 (c.discard eng 2)
  else if hi - lo > c.f F.PF_MISC_TBAND then put 4 (c.discard eng 4)
  else
    let (gt, ot) := (f0.add f1).target
    let c := (c.setTarget m gt ot th true).inc R.PF_SOLVE_CNT
    let g := c.newest
    let (gn, on) := c.setsAt g m th
    let sg : Int := c.f F.PF_SLEW_A_GAIN
    let so : Int := c.f F.PF_SLEW_A_OFS
    let dg := gt - gn
    let dofs := ot - on
    let off := !g.fb F.NZ_CFG_TSET_EN
    let outcome := fun (s d : Int) => if off then 6 else if s < d.natAbs then 1 else 0
    let app := fun (s d : Int) => if off then 0 else clampTo (-s) s d
    (both (outcome sg dg) (outcome so dofs) (app sg dg) (app so dofs) c).handover m

/-! ### Coverage and placement solves (R223, R224) -/

/-- The nozzles of a segment. -/
def segNozzles (seg : Nat) : List Nat := (List.range 64).map fun i => 64 * seg + i

/-- The sums of a segment's nozzles in a bin and parity. -/
def Core.segFit (c : Core) (seg b par : Nat) : Fit := (segNozzles seg).foldl (fun f m => f.add (c.accRec m b par)) {}

def Core.pendCC (c : Core) (seg b : Nat) (v : Option Int) : Core :=
  c.setPf { c.pf with ccPend := Tab.set (fun _ => none) c.pf.ccPend (4 * seg + b) v }

/-- The coverage solve of a segment's bin. -/
def Core.solveBin (c : Core) (seg b : Nat) : Core :=
  let nb := c.f F.PF_CFG_NZ_BIN
  let eng := c.f (F.PF_INK_ENGINE (seg / 4096))
  let r0 := c.segFit seg nb 0
  let r1 := c.segFit seg nb 1
  let f0 := c.segFit seg b 0
  let f1 := c.segFit seg b 1
  let num := fun (r f : Fit) => (256 * r.v + r.a) * (256 * f.v)
  let den := fun (r f : Fit) => (256 * f.v + f.a) * (256 * r.v)
  let est := fun (r f : Fit) => if den r f ≤ 0 then 0 else roundDiv ((num r f - den r f) * 65536) (den r f)
  let last := max (c.lastOfSeg seg b) (c.lastOfSeg seg nb)
  let put := fun (outcome : Nat) (ch : Int) (c : Core) => c.detail 2 outcome b seg last (est r0 f0) (est r1 f1) ch 0
  let ill := [r0, r1, f0, f1].any c.illFit
  if ill || decide (den r0 f0 ≤ 0) || decide (den r1 f1 ≤ 0) then put 3 0 (c.discard eng 3)
  else if (c.f F.PF_TOL_A_GAIN : Int) * den r0 f0 * den r1 f1 <
      ((num r0 f0 * den r1 f1 - num r1 f1 * den r0 f0) * 1000).natAbs then put 2 0 (c.discard eng 2)
  else
    let r := r0.add r1
    let f := f0.add f1
    let tgt := clampTo (-4) 3 (roundDiv (32 * num r f) (max 1 (den r f)) - 32)
    let cur := segCC (Tab.get (fun _ => 0) c.newest.tabs.seg seg).toNat b
    let c := ((c.pendCC seg b (if tgt = cur then none else some tgt)).inc R.PF_SOLVE_CNT).binSolved seg b
    put (if 1 < (tgt - cur).natAbs then 1 else 0) (clampTo (-1) 1 (tgt - cur)) c

/-- The coverage solves of a segment; the CC of NZ_BIN is set to 0, whatever change of it was pending. -/
def Core.solveCoverage (c : Core) (seg : Nat) : Core :=
  let nb := c.f F.PF_CFG_NZ_BIN
  let c := c.each 4 fun b c => if b = nb then c else c.solveBin seg b
  let cur := segCC (Tab.get (fun _ => 0) c.newest.tabs.seg seg).toNat nb
  c.pendCC seg nb (if cur = 0 then none else some 0)

/-- The placement solve of a segment: nothing is solved where a parity saw none of its cells, or a trim change waits. -/
def Core.solvePlacement (c : Core) (seg : Nat) : Core :=
  let eng := c.f (F.PF_INK_ENGINE (seg / 4096))
  let last := c.lastOf (lineSeg seg)
  match c.plcShift seg 0, c.plcShift seg 1 with
  | some even, some odd =>
    if (Tab.get (fun _ => none) c.pf.trimPend seg).isSome then c
    else if (c.f F.PF_TOL_A_TRIM : Int) * 4 < (even - odd).natAbs then
      (c.discard eng 2).detail 3 2 0 seg last even odd 0 0
    else
      let d := -roundDiv (even + odd) 8
      let lim : Int := c.f F.PF_SLEW_A_TRIM
      let c := (c.setPf { c.pf with trimPend := Tab.set (fun _ => none) c.pf.trimPend seg (if d = 0 then none else some d) }).inc
        R.PF_SOLVE_CNT
      c.detail 3 (if lim < d.natAbs then 1 else 0) 0 seg last even odd (clampTo (-lim) lim d) 0
  | _, _ => c

/-- Every record of a segment cleared. -/
def Core.clearSeg (c : Core) (seg : Nat) : Core :=
  let c := c.setPf { c.pf with plc := Tab.set (fun _ => []) (Tab.set (fun _ => []) c.pf.plc (2 * seg) []) (2 * seg + 1) []
                               lastLine := c.pf.lastLine.filter fun e => e.1 / 256 ≠ seg && e.1 ≠ lineSeg seg }
  c.eachOf (segNozzles seg) fun m c =>
    (c.put (c.accAddr m 0 0) (List.replicate 192 0)).setPf
      { c.pf with nth := Tab.set (fun _ => none) c.pf.nth m none }

/-- The end of a segment's dwell: coverage, placement, nozzles, and the records cleared (R222). -/
def Core.segDone (c : Core) (seg : Nat) : Core :=
  let k := seg / 4096
  if c.f (F.PF_INK_MODE k) = 2 then
    let c := (c.byReq (48 + c.f (F.PF_INK_ENGINE k))).proofReads ((segNozzles seg).map fun m => c.accAddr m 0 0) 192
    let c := if c.fb (F.PF_INK_CC_EN k) then c.solveCoverage seg else c
    let c := if c.fb (F.PF_INK_TRIM_EN k) then c.solvePlacement seg else c
    let c := c.eachOf (segNozzles seg) fun m c =>
      if (mapNozzle c.newest.tabs.map m).isSome then c.solveNozzle m else c
    c.clearSeg seg
  else c

/-- The camera's window as it stands over the web now. -/
def Core.windowNow (c : Core) (n : Nat) : Nat := c.camWindow c.newest n ((gridLine c.web.grid
  (c.webPosRaw - (if c.web.rev then -1 else 1) * c.i64 (R.PF_CAM_DIST_LO n) * p32) - c.sTof).toNat)

/-- The camera's window contains the whole segment now. -/
def Core.inWindow (c : Core) (n j : Nat) : Bool :=
  decide (c.windowNow n ≤ 64 * j) && decide (64 * j + 64 ≤ c.windowNow n + c.newest.f (F.PF_CAM_WIN_WIN n))

/-! ### Zone and distortion solves (R225, R226) -/

/-- A head handed over (R211). -/
def Core.isHanded (c : Core) (h : Nat) : Bool := c.pf.handed.contains h

/-- The heads that a zone's solve covers: of the ink's nozzles in the zone, those not handed over (R225). -/
def Core.zoneHeads (c : Core) (k z : Nat) : List Nat :=
  let g := c.newest
  ((g.tabs.map.filter fun r => r.start / 262144 == k && !c.isHanded r.head &&
    r.nozzles.any fun m => g.zoneOf ((m % 131072 : Nat) : Int) == z).map (·.head)).eraseDups

/-- The head's mean temperature over a zone's samples. -/
def Core.zoneTheta (c : Core) (zk h : Nat) : Int :=
  let e := Tab.get (fun _ => (0, 0)) c.pf.zth (zk * 1024 + h)
  if e.1 = 0 then c.theta h else roundDiv e.2 e.1

/-- The zone's sums, of either engine, start anew from a line. -/
def Core.zoneClear (c : Core) (zk fromLine : Nat) : Core :=
  let mine := fun (key : Nat) => key % 1024 / 2 == zk
  c.setPf { c.pf with zacc := c.pf.zacc.filter (fun e => !mine e.1), zrange := c.pf.zrange.filter (fun e => !mine e.1)
                      zth := c.pf.zth.filter (fun e => e.1 / 1024 ≠ zk)
                      zFrom := Tab.set (fun _ => 0) c.pf.zFrom zk fromLine }

def ZAcc.add (a b : ZAcc) : ZAcc := ⟨a.n + b.n, a.spd + b.spd, a.spp + b.spp, a.frames + b.frames⟩

/-- The sums of a zone in a parity: those of both engines (log entry 56). -/
def Core.zoneSum (c : Core) (k z par : Nat) : ZAcc :=
  (Tab.get (fun _ => {}) c.pf.zacc (zoneKey 0 k z par)).add (Tab.get (fun _ => {}) c.pf.zacc (zoneKey 1 k z par))

/-- The range of temperatures of a zone over both parities. -/
def Core.zoneRange (c : Core) (k z : Nat) : Option (Int × Int) :=
  [zoneKey 0 k z 0, zoneKey 0 k z 1, zoneKey 1 k z 0, zoneKey 1 k z 1].foldl (fun o key =>
    match Tab.get (fun _ => none) c.pf.zrange key with
    | some r => widen (widen o r.1) r.2
    | none => o) none

/-- The change of a gain that a zone's sums ask for (R225, R227). -/
def zoneDelta (gain spd spp : Int) : Int := if spd ≤ 0 then 0 else roundDiv (gain * (spp - spd)) spd

/-- The density solve of a zone: a pending relative change, or a discard. The detail record gives the change of a gain of 1.0
(log entry 56). -/
def Core.solveZone (c : Core) (k z : Nat) : Core :=
  let zk := k * 64 + z
  let a0 := c.zoneSum k z 0
  let a1 := c.zoneSum k z 1
  let need := max 1 (c.f F.PF_MISC_ZFRAMES)
  if a0.frames < need ∨ a1.frames < need then c
  else
    let eng := c.f (F.PF_INK_ENGINE k)
    let est := fun (a : ZAcc) => if a.spp ≤ 0 then 0 else roundDiv ((a.spd - a.spp) * 65536) a.spp
    let (lo, hi) := (c.zoneRange k z).getD (0, 0)
    let slew : Int := c.f F.PF_SLEW_A_GAIN
    let delta := zoneDelta 2048 (a0.spd + a1.spd) (a0.spp + a1.spp)
    let put := fun (outcome : Nat) (change : Int) (c : Core) => c.detail 4 outcome 0 zk (c.lastOf (lineZone zk)) (est a0) (est a1) change ((lo + hi) / 2)
    let keep := Tab.get (fun _ => 0) c.pf.zFrom zk
    if a0.spp ≤ 0 ∨ a1.spp ≤ 0 then (put 3 0 (c.discard eng 3)).zoneClear zk keep
    else if (c.f F.PF_TOL_A_GAIN : Int) * a0.spp * a1.spp < ((a0.spd * a1.spp - a1.spd * a0.spp) * 1000).natAbs then
      (put 2 0 (c.discard eng 2)).zoneClear zk keep
    else if c.f F.PF_MISC_TBAND < hi - lo then (put 4 0 (c.discard eng 4)).zoneClear zk keep
    else
      let c := c.inc R.PF_SOLVE_CNT
      let c := c.eachOf (c.zoneHeads k z) fun h c => c.headSolved h
      if c.newest.fb F.NZ_CFG_TSET_EN then
        let c := put (if slew < delta.natAbs then 1 else 0) (clampTo (-slew) slew delta) c
        let c := c.setPf { c.pf with zPend := Tab.set (fun _ => none) c.pf.zPend zk (some (a0.spd + a1.spd, a0.spp + a1.spp)) }
        let zth := c.pf.zth
        let c := c.zoneClear zk (2 ^ 48)
        c.setPf { c.pf with zth := zth }
      else (put 6 0 c).zoneClear zk keep

/-- The sums of the offsets of a zone in a parity, of an engine. -/
def Core.zoneOfs (c : Core) (eng z par : Nat) : ZAcc := Tab.get (fun _ => {}) c.pf.dacc ((eng * 64 + z) * 2 + par)

/-- Distortion results are held (R158, R229). -/
def Core.distHeld (c : Core) : Bool :=
  c.fb F.SC_CFG_DIST_LOCK || (List.range 64).any fun n => c.fb (F.PR_CFG_EN n)

/-- δ_z and ξ_z of an engine in a parity, x 256 (1/64 line or column). -/
def ZAcc.mean256 (a : ZAcc) : Int × Int := (roundDiv (a.spd * 256) (max 1 a.n), roundDiv (a.spp * 256) (max 1 a.n))

/-- ε_z in a parity, in 2^-20: of the zone and the next, ε_63 of the last pair. -/
def Core.zoneEps (c : Core) (eng z par : Nat) : Int :=
  let z := min z 62
  let x := fun z => ((c.zoneOfs eng z par).mean256).2
  roundDiv ((x (z + 1) - x z) * 2 ^ 20) (max 1 c.newest.zoneW * 64 * 256)

/-- The distortion solve of an engine (R226), once both parities hold ZFRAMES frames, over the zones seen in both. The results of a
zone on which the parities disagree are discarded; the others are targets. -/
def Core.solveDist (c : Core) (eng : Nat) : Core :=
  let need := max 1 (c.f F.PF_MISC_ZFRAMES)
  let frames := fun par => Tab.get (fun _ => 0) c.pf.dframes (eng * 2 + par)
  if c.fb F.PF_CFG_DIST_EN && decide (need ≤ frames 0) && decide (need ≤ frames 1) then
    let g := c.newest
    let seen := (List.range 64).filter fun z => decide (0 < (c.zoneOfs eng z 0).n) && decide (0 < (c.zoneOfs eng z 1).n)
    let d := fun z par => ((c.zoneOfs eng z par).mean256).1
    let eps := fun z par => c.zoneEps eng z par
    let pair := fun z => seen.contains (min z 62) && seen.contains (min z 62 + 1)
    let mean := roundDiv ((seen.map fun z => d z 0 + d z 1).sum) (max 1 seen.length)
    let limS : Int := c.f F.PF_SLEW_A_SHIFT
    let limT : Int := c.f F.PF_SLEW_B_STRETCH
    let held := c.distHeld
    let last := fun z => c.lastOf (lineDist eng z)
    let out := fun (lim d : Int) => if held then 5 else if lim < d.natAbs then 1 else 0
    let app := fun (lim d : Int) => if held then 0 else clampTo (-lim) lim d
    let apart := fun z => decide ((c.f F.PF_TOL_B_SHIFT : Int) * 256 < (d z 0 - d z 1).natAbs) ||
      (pair z && decide ((c.f F.PF_TOL_B_STRETCH : Int) < (eps z 0 - eps z 1).natAbs))
    let c := if seen.any fun z => !apart z then c.inc R.PF_SOLVE_CNT else c
    let c := c.eachOf seen fun z c =>
      if apart z then
        let c := (c.discard eng 2).detail 5 2 0 z (last z) (d z 0 / 256) (d z 1 / 256) 0 0
        if pair z then c.detail 6 2 0 z (last z) (eps z 0) (eps z 1) 0 0 else c
      else
        let sh := roundDiv (d z 0 + d z 1 - mean) 512
        let st := roundDiv (eps z 0 + eps z 1) 2
        let ds := sh - g.shift z
        let dt := st - g.stretch z
        let c := c.setPf { c.pf with shiftPend := Tab.set (fun _ => none) c.pf.shiftPend z (if ds = 0 then none else some sh) }
        let c := c.detail 5 (out limS ds) 0 z (last z) (d z 0 / 256) (d z 1 / 256) (app limS ds) 0
        if pair z then
          (c.setPf { c.pf with strPend := Tab.set (fun _ => none) c.pf.strPend z (if dt = 0 then none else some st) }).detail 6
            (out limT dt) 0 z (last z) (eps z 0) (eps z 1) (app limT dt) 0
        else c
    c.setPf { c.pf with dacc := c.pf.dacc.filter (fun e => e.1 / 128 ≠ eng), dframes := c.pf.dframes.filter fun e => e.1 / 2 ≠ eng }
  else c

/-! ### Results pending -/

/-- The heads handed over carry a nozzle (R211). -/
def Core.handedOver (c : Core) (m : Nat) : Bool :=
  match mapNozzle c.newest.tabs.map m with
  | some (_, _, h) => c.isHanded h
  | none => false

/-- The targets that the nozzle loop may act on. -/
def Core.liveTargets (c : Core) : List Nat :=
  c.pf.targets.filter fun m => c.f (F.PF_INK_MODE (m / 262144)) == 2 && c.handedOver m

/-- The pending zone gains, CC, trims and distortion of the loops that run (R211). -/
def Core.livePend (c : Core) : Tab (Option (Int × Int)) × Tab (Option Int) × Tab (Option Int) × Bool :=
  let mode := fun k => c.f (F.PF_INK_MODE k)
  (c.pf.zPend.filter (fun e => mode (e.1 / 64) = 1 ∨ mode (e.1 / 64) = 2),
   c.pf.ccPend.filter (fun e => mode (e.1 / 16384) = 2 ∧ c.fb (F.PF_INK_CC_EN (e.1 / 16384))),
   c.pf.trimPend.filter (fun e => mode (e.1 / 4096) = 2 ∧ c.fb (F.PF_INK_TRIM_EN (e.1 / 4096))),
   c.fb F.PF_CFG_DIST_EN && (decide (c.pf.shiftPend ≠ []) || decide (c.pf.strPend ≠ [])))

/-- Results wait for a boundary. -/
def Core.pfPending (c : Core) : Bool :=
  let p := c.livePend
  (c.newest.fb F.NZ_CFG_TSET_EN && (decide (p.1 ≠ []) || decide (c.liveTargets ≠ []))) ||
    decide (p.2.1 ≠ []) || decide (p.2.2.1 ≠ []) || p.2.2.2

/-- PF_STAT.WAIT as the results stand. -/
def Core.waitSync (c : Core) : Core := c.setB F.PF_STAT_WAIT c.pfPending

/-- The camera dwells on the segment: its window held it at a frame, and its dwell has not ended since
(when a dwell begins: log entry 56). -/
def Core.dwells (c : Core) (n j : Nat) : Bool := (Tab.get (fun _ => []) c.pf.dwell n).contains j

/-- DWELL_END: the segment of every ink and row is solved once the camera's window, which held it, no longer contains the whole of
it (R222); a replay solves nothing (R231). -/
def execDwellEnd (n : Fin 4) (j : Fin 2048) (s : State) : Host.Outcome State Fault Refusal :=
  let c := s.core
  let r :=
    if !c.replay && c.fb F.PF_CFG_EN && c.fb (F.PF_CAM_CFG_EN n) && c.fb (F.PF_CAM_CFG_TYPE n) && c.dwells n j &&
        !c.inWindow n j then
      let c := c.setPf { c.pf with
        dwell := Tab.set (fun _ => []) c.pf.dwell n ((Tab.get (fun _ => []) c.pf.dwell n).filter (· ≠ j.val)) }
      let c := c.eachOf (c.newest.inks) fun k c => (c.segDone (4096 * k + j)).segDone (4096 * k + 2048 + j)
      c.waitSync
    else c
  .next { s with core := r }

/-! ### Frames (R210, R214, R215, R217, R236) -/

/-- When a frame was exposed, in 1.25 ns units: EXP_NS about its mid-exposure; T32_SOF is 48 ns before
the frame start (spec/09_inspection_cameras.md R252, R253). -/
def Core.exposure (c : Core) (n : Nat) (f : CamFrame) : Int × Int :=
  let e : Int := ((c.cam n).set f.expset).expNs
  let m := sext 32 ((f.mid + 2 ^ 32 - f.sof) % 2 ^ 32) - 48
  ((f.start : Int) + (2 * m - e) * 2 / 5, (f.start : Int) + (2 * m + e) * 2 / 5)

/-- The frame's exposure overlaps a re-skew of the member's link (R236). -/
def Core.reskewed (c : Core) (n : Nat) (f : CamFrame) : Bool :=
  let (a, b) := c.exposure n f
  c.fb F.CREW_STAT_FORMED && !c.fb F.CREW_STAT_LEAD && c.crew.ports.any fun p =>
    (match p.2.since with
     | some t => decide ((t : Int) ≤ b)
     | none => false) || (decide ((p.2.span.1 : Int) ≤ b) && decide (a ≤ p.2.span.2) && decide (p.2.span ≠ (0, 0)))

/-- The lines of the job that a frame's rows lie in. -/
def Core.frameLines (c : Core) (n : Nat) (f : CamFrame) : List Nat :=
  ((List.range f.height).filterMap fun y =>
    let l := c.rowLine n f y
    if l < 0 ∨ (c.genAt l.toNat).jobLast < l.toNat then none else some l.toNat).eraseDups

/-- The lines a frame registers to are all in the ring, for every ink that they print with. -/
def Core.inRing (c : Core) (n : Nat) (f : CamFrame) : Bool :=
  (c.frameLines n f).all fun l => (c.genAt l).inks.all (c.ringWhole l)

/-- The poisoned burst that the read of the ring for a frame meets first. -/
def Core.ringFail (c : Core) (n : Nat) (f : CamFrame) : Option Nat := (c.frameLines n f).findSome? c.ringPoison

/-- A frame that passed every check is accumulated and the solves that are due run. -/
def Core.useFrame (c : Core) (n : Nat) (f : CamFrame) : Core :=
  let (dy, dx) := c.corrPeak n f none
  let c := ((c.setF (F.PF_CAM_REG_DY n) (wrap 16 (dy * 64))).setF (F.PF_CAM_REG_DX n) (wrap 16 (dx * 64))).inc (R.PF_CAM_FRAMES n)
  let c := (c.setN (R.PF_CAM_LASTFN n) f.fn).perf (84 + n)
  let skew := c.reskewed n f
  let c := if skew then c.inc R.PF_FLYWHEEL_CNT else c
  if c.fb (F.PF_CAM_CFG_TYPE n) then
    let c := c.accTraverse n f dy dx skew
    let seen := (List.range 2048).filter fun j => c.dwells n j || c.inWindow n j
    c.setPf { c.pf with dwell := Tab.set (fun _ => []) c.pf.dwell n seen }
  else
    let c := c.accFixed n f dy dx
    let c := if skew || !c.fb F.PF_CFG_DIST_EN then c else (c.accZones n f).solveDist (c.f (F.PF_CAM_CFG_ENGINE n))
    c.each 8 fun k c =>
      if c.f (F.PF_INK_MODE k) = 1 ∨ c.f (F.PF_INK_MODE k) = 2 then c.each 64 fun z c => c.solveZone k z else c

/-- The samples that an engine has taken in the last second (R210): when, and how many. -/
def Core.engLoad (c : Core) (eng : Nat) : List (Nat × Nat) :=
  (Tab.get (fun _ => []) c.pf.load eng).filter fun e => decide (c.now < e.1 + sec)

/-- PROOF_FRAME: the oldest frame of a camera's proof feed: usable (R215), within its engine's load (R210), in the ring (R214) and
with a peak (R217), it is accumulated. -/
def execProofFrame (x : ProofFrame) (s : State) : Host.Outcome State Fault Refusal :=
  let c := s.core
  let n := x.cam.val
  let u := c.cam n
  let r :=
    match u.feed with
    | [] => c
    | f :: rest =>
      let c := c.setCam n { u with feed := rest }
      let eng := c.f (F.PF_CAM_CFG_ENGINE n)
      let load := c.engLoad eng
      let px := f.width * f.height
      if !(c.fb F.PF_CFG_EN && c.fb (F.PF_CAM_CFG_EN n)) then c
      else if c.replay = true ∨ c.st ≠ stPrinting ∨ f.flags % 16 ≠ 0 ∨ f.state % 4 ≠ 0 then c.inc R.PF_SKIPFR_CNT
      else if 400000000 < (load.map (·.2)).sum + px then c.inc R.PF_BUSY_CNT
      else
        let c := (c.byReq (48 + eng)).setPf { c.pf with load := Tab.set (fun _ => []) c.pf.load eng ((c.now, px) :: load) }
        if x.ringErr || !c.inRing n f || (c.ringFail n f).isSome then
          let c := match c.ringFail n f with
            | some b => c.deliverPoison (64 * b)
            | none => c
          (c.inc R.PF_LATE_CNT).postLim sec 0x0507 n f.fn
        else if (c.corrAt n f none (c.corrPeak n f none)).value < 256 * c.f (F.PF_CAM_CFG_MINCORR n) then
          (c.inc R.PF_NOLOCK_CNT).postLim sec 0x0508 n f.fn
        else (c.useFrame n f).waitSync
  .next { s with core := r }

/-! ### PF_CLEAR and LOOP_SUSPEND (spec/14_command_reference.md R394) -/

/-- PF_CLEAR. -/
def Core.cmdPfClear (c : Core) (q : CmdIn) : CmdOut :=
  c.judge [((c.asyncOf 0x50).isSome, rBusy), (decide (7 < q.u8 1) || q.u16 2 != 0, rBadParam)] fun c =>
    accepted (c.start 0x50 q (q.u8 0) (q.u8 1))

/-- The work of PF_CLEAR done: records, targets and ages of the named inks. -/
def Core.pfClear (c : Core) (inks what : Nat) : Core :=
  let on := fun (k : Nat) => bit inks k
  let c := if bit what 0 then
      let base := c.newest.n64 R.PF_ACC_BASE_LO
      let size := 262144 * 192
      let c := c.eachOf ((List.range 8).filter on) fun k c => (c.byReq (48 + c.f (F.PF_INK_ENGINE k))).zeroDram (base + k * size) size
      c.setPf { c.pf with
        zacc := c.pf.zacc.filter fun e => !on (e.1 % 1024 / 128)
        zrange := c.pf.zrange.filter fun e => !on (e.1 % 1024 / 128)
        zth := c.pf.zth.filter fun e => !on (e.1 / 65536)
        plc := c.pf.plc.filter fun e => !on (e.1 / 8192)
        nth := c.pf.nth.filter fun e => !on (e.1 / 262144)
        dacc := if inks = 255 then [] else c.pf.dacc
        dframes := if inks = 255 then [] else c.pf.dframes }
    else c
  let c := if bit what 1 then
      c.eachOf (c.pf.targets.filter fun m => on (m / 262144)) fun m c =>
        (c.byReq (48 + c.f (F.PF_INK_ENGINE (m / 262144)))).setTarget m 0 0 0 false
    else c
  if bit what 2 then
    let heads := (c.newest.tabs.map.filter fun r => on (r.start / 262144)).map (·.head)
    let c := c.eachOf heads.eraseDups fun h c => c.headSolved h
    let c := c.each 8 fun k c => if on k then
        c.eachOf ((c.pf.binStale.filter fun e => e.1 / 16384 == k).map (·.1)) fun i c => c.binSolved (i / 4) (i % 4)
      else c
    let segs := (List.range 8).filter on
    c.eachOf segs fun k c => c.each 16384 fun i c =>
      c.setPf { c.pf with binAges := Tab.set (fun _ => 0) c.pf.binAges (16384 * k + i) c.pf.travel }
  else c

/-- PF_CLEAR_DONE. -/
def execPfClearDone (s : State) : Host.Outcome State Fault Refusal :=
  let c := s.core
  .next { s with core := match c.asyncOf 0x50 with
    | some a => (c.pfClear a.a a.b).asyncEnd a rDone
    | none => c }

/-- LOOP_SUSPEND. -/
def Core.cmdLoopSuspend (c : Core) (q : CmdIn) : CmdOut :=
  c.judge [(decide (1 < q.u8 0) || q.u8 1 != 0 || q.u16 2 != 0, rBadParam)] fun c =>
    done (c.setPf { c.pf with suspended := bit (q.u8 0) 0 })

end Sys2Proof.Machine
end

