-- ==== Sys2Proof/Machine/LoopGen.lean ====
section
/-!
DEFINITION. Loop generations and derate generations as formed (spec/08_density_and_placement_loops.md R227-R229,
spec/11_head_health.md R303), and what their acceptance does.
-/

namespace Sys2Proof.Machine

/-! ### Gains and offsets into the calibration sets (R227) -/

/-- A change distributed over the sets at a temperature: (set, change). -/
def spread (sets : List (Nat × Int)) (th d : Int) : List (Nat × Int) :=
  match sets.filter (fun s => s.2 ≤ th), sets.filter (fun s => th < s.2) with
  | [], [] => []
  | [], (m, _) :: _ => [(m, d)]
  | lo, [] => [((lo.getLastD (0, 0)).1, d)]
  | lo, (m, tm) :: _ =>
    let (j, tj) := lo.getLastD (0, 0)
    let w := (th - tj) * 65536 / (tm - tj)
    let u := 65536 - w
    let q := u * u + w * w
    [(j, roundDiv (d * u * 65536) q), (m, roundDiv (d * w * 65536) q)]

/-- New words of the sets by set x 2^21 + nozzle. -/
abbrev SetWords := Tab (Option Nat)

/-- The gain and offset changes of a nozzle laid over the words of the sets; a word that its field's range keeps as it is is no change. -/
def Core.setChange (c : Core) (g : Gen) (t : SetWords) (m : Nat) (th dg dofs : Int) : SetWords :=
  let word := fun (t : SetWords) j => (Tab.get (fun _ => none) t (j * 2 ^ 21 + m)).getD (c.setWord g j m)
  let put := fun (t : SetWords) (j w w' : Nat) => if w' = w then t else Tab.set (fun _ => none) t (j * 2 ^ 21 + m) (some w')
  let t := (spread g.sets th dg).foldl (fun t e =>
    let w := word t e.1
    put t e.1 w (setBits w 20 12 (clampTo 0 4095 ((bits w 20 12 : Nat) + e.2)).toNat)) t
  (spread g.sets th dofs).foldl (fun t e =>
    let w := word t e.1
    put t e.1 w (setBits w 12 8 (wrap 8 (clampTo (-128) 127 (sext 8 (bits w 12 8) + e.2))))) t

/-- The changes of gains and offsets while they are formed. -/
structure GainOut where
  words : SetWords := []
  zones : List Nat := []
  nozzles : Nat := 0
  slewed : Nat := 0
  maxG : Nat := 0

/-- A nozzle's change, clamped per update. -/
def Core.gainStep (c : Core) (g : Gen) (o : GainOut) (m : Nat) (th dg dofs : Int) : GainOut :=
  let sg : Int := c.f F.PF_SLEW_A_GAIN
  let so : Int := c.f F.PF_SLEW_A_OFS
  let a := clampTo (-sg) sg dg
  let b := clampTo (-so) so dofs
  if dg = 0 ∧ dofs = 0 then o
  else
    { o with words := c.setChange g o.words m th a b, nozzles := o.nozzles + 1
             slewed := o.slewed + b2n (decide (a ≠ dg) || decide (b ≠ dofs)), maxG := max o.maxG a.natAbs }

/-- The pending zone gains (R225): every nozzle of the ink in the zone whose head is not handed over. -/
def Core.zoneGains (c : Core) (g : Gen) (o : GainOut) : GainOut :=
  c.livePend.1.foldl (fun o e =>
    match e.2 with
    | none => o
    | some (spd, spp) =>
      let k := e.1 / 64
      let z := e.1 % 64
      let mine := (g.tabs.map.filter fun r => r.start / 262144 == k).flatMap MapRun.nozzles
      let mine := mine.filter fun m => g.zoneOf ((m % 131072 : Nat) : Int) == z && !c.handedOver m
      let o := { o with zones := e.1 :: o.zones }
      mine.foldl (fun o m =>
        let h := match mapNozzle g.tabs.map m with
          | some (_, _, h) => h
          | none => 0
        let th := c.zoneTheta e.1 h
        c.gainStep g o m th (zoneDelta (c.setsAt g m th).1 spd spp) 0) o) o

/-- What a nozzle's target asks of the sets of a generation: gain, offset and temperature (R227). -/
def Core.targetDelta (c : Core) (g : Gen) (m : Nat) : Option (Int × Int × Int) :=
  (c.rd (c.tgtAddr m) 8).map fun l =>
    let w := le l 0 8
    let th := sext 16 (bits w 20 16)
    let (gn, on) := c.setsAt g m th
    ((bits w 0 12 : Int) - gn, sext 8 (bits w 12 8) - on, th)

/-- The valid targets of handed-over heads. -/
def Core.targetGains (c : Core) (g : Gen) (o : GainOut) : GainOut :=
  c.liveTargets.foldl (fun o m =>
    match c.targetDelta g m with
    | none => o
    | some (dg, dofs, th) => c.gainStep g o m th dg dofs) o

/-- The valid targets read by the engines (R333). -/
def Core.readTargets (c : Core) : Core :=
  c.eachOf c.liveTargets fun m c => (c.byReq (48 + c.f (F.PF_INK_ENGINE (m / 262144)))).proofReads [c.tgtAddr m] 8

/-- The targets whose remaining change under the generation in force is 0 become invalid (R227). -/
def Core.targetsReached (c : Core) : Core :=
  let c := c.readTargets
  c.eachOf c.liveTargets fun m c =>
    match c.targetDelta c.newest m, c.rd (c.tgtAddr m) 8 with
    | some (dg, dofs, _), some l =>
      let w := le l 0 8
      if dg = 0 ∧ dofs = 0 then c.setTarget m (bits w 0 12) (sext 8 (bits w 12 8)) (sext 16 (bits w 20 16)) false else c
    | _, _ => c

/-- The pending changes of zones are done with: the zones accumulate again from a line (R225). -/
def Core.zonesDone (c : Core) (zones : List Nat) (fromLine : Nat) : Core :=
  c.setPf { c.pf with
    zPend := c.pf.zPend.filter fun e => !zones.contains e.1
    zth := c.pf.zth.filter fun e => !zones.contains (e.1 / 1024)
    zFrom := zones.foldl (fun t z => Tab.set (fun _ => 0) t z fromLine) c.pf.zFrom }

/-- A range of DRAM copied by a requester: poison that it meets is delivered, and the bursts written from it are poisoned (R333; log entry
62); at or above C - M nothing is read or written (R324). -/
def Core.copyDram (c : Core) (src dst n : Nat) : Core :=
  let d := c.mem.dram
  let top := c.dramTop
  let kept := d.filter fun e => e.1 < dst || decide (dst + n ≤ e.1)
  let moved := (d.filter fun e => src ≤ e.1 && decide (e.1 < min top (src + n)) && decide (e.1 - src + dst < top)).foldl
    (fun t e => Tab.set (fun _ => 0) t (e.1 - src + dst) e.2) kept
  let bad := (c.mem.poison.filter fun e => e.2 && decide (src < 64 * e.1 + 64) && decide (64 * e.1 < src + n)).map (·.1)
  let c := (c.touch src n false).touch dst n true
  let c := c.eachOf bad fun b c => c.deliverPoison (64 * b)
  let c := if top < src + n then c.decodePoison (max src top) else c
  let c := if top < dst + n then c.decodeErr (max dst top) else c
  let poison := bad.foldl (fun t b => Tab.set (fun _ => false) t ((64 * b - src + dst) / 64) true) (clearPoison c.mem.poison dst n)
  { c with mem := { c.mem with dram := moved, poison := poison } }

/-- A set copied to another buffer, with new words laid over it, by PROOF0 (log entry 62). -/
def Core.copySet (c : Core) (src dst : Nat) (words : SetWords) : Core :=
  ((c.byReq 48).copyDram src dst (8 * 2 ^ 20)).eachOf words fun e c => c.put (dst + 4 * (e.1 % 2 ^ 21)) (leBytes 4 (e.2.getD 0))

/-- The updated sets written into their alternate buffers, which the generation names. -/
def Core.writeSets (c : Core) (g : Gen) (o : GainOut) : Core × Gen × List (Nat × Nat) :=
  (g.sets.map (·.1)).foldl (fun (c, g, l) j =>
    let mine := o.words.filter fun e => e.1 / 2 ^ 21 = j
    if mine = [] then (c, g, l)
    else
      let src := g.n64 (R.NZ_TSET_BASE_LO j)
      let dst := c.n64 (R.PF_TSET_ALT_LO j)
      let c := c.copySet src dst mine
      let regs := Tab.set regReset (Tab.set regReset g.regs (R.NZ_TSET_BASE_LO j) (BitVec.ofNat 32 dst))
        (R.NZ_TSET_BASE_LO j + 4) (BitVec.ofNat 32 (dst / 2 ^ 32))
      (c, { g with regs := regs }, l ++ [(j, src)])) (c, g, [])

/-! ### Segments and distortion (R228, R229) -/

def Gen.seg (g : Gen) (s : Nat) : Nat := (Tab.get (fun _ => 0) g.tabs.seg s).toNat

def Gen.setSeg (g : Gen) (s v : Nat) : Gen :=
  { g with tabs := { g.tabs with seg := Tab.set (fun _ => 0) g.tabs.seg s (BitVec.ofNat 32 v) } }

/-- The head of a segment: that of the lowest of its nozzles that the head map reaches (R303). -/
def Gen.segHead (g : Gen) (s : Nat) : Option Nat :=
  (segNozzles s).findSome? fun m => (mapNozzle g.tabs.map m).map (·.2.2)

/-- A CC of a segment. -/
def Gen.cc (g : Gen) (s b : Nat) : Int := segCC (g.seg s) b

def Gen.setCC (g : Gen) (s b : Nat) (v : Int) : Gen := g.setSeg s (setBits (g.seg s) (4 + 3 * b) 3 (wrap 3 v))

def Gen.trim (g : Gen) (s : Nat) : Int := sext 16 (bits (g.seg s) 16 16)

def Gen.setTrim (g : Gen) (s : Nat) (v : Int) : Gen := g.setSeg s (setBits (g.seg s) 16 16 (wrap 16 v))

/-- The ink of a segment has a pending version. -/
def Core.segWaits (c : Core) (s : Nat) : Bool := c.pendingVer (s / 4096)

/-- The pending CC changes: a step towards the target, but on warm heads and inks that wait. -/
def Core.ccChanges (c : Core) (g : Gen) : Gen × List Nat :=
  c.livePend.2.1.foldl (fun (g, l) e =>
    let s := e.1 / 4
    let b := e.1 % 4
    let warm := match g.segHead s with
      | some h => c.fb (F.HH_THETA_WARM h)
      | none => false
    match e.2 with
    | none => (g, l)
    | some t => if warm || c.segWaits s || decide (t = g.cc s b) then (g, l)
        else (g.setCC s b (g.cc s b + clampTo (-1) 1 (t - g.cc s b)), s :: l)) (g, [])

/-- The pending trims, clamped per update. -/
def Core.trimChanges (c : Core) (g : Gen) : Gen × List Nat :=
  let lim : Int := c.f F.PF_SLEW_A_TRIM
  c.livePend.2.2.1.foldl (fun (g, l) e =>
    match e.2 with
    | none => (g, l)
    | some d => if c.segWaits e.1 then (g, l)
        else (g.setTrim e.1 (clampTo (-32768) 32767 (g.trim e.1 + clampTo (-lim) lim d)), e.1 :: l)) (g, [])

/-- SHIFT_z and STRETCH_z set. -/
def Gen.setZone (g : Gen) (z : Nat) (sh st : Int) : Gen :=
  let put := fun (g : Gen) (x : Fld) (v : Int) =>
    ({ g with regs := Tab.set regReset g.regs x.off (BitVec.ofNat 32 (setBits (g.n x.off) x.lo x.wid (wrap 16 v))) } : Gen)
  put (put g (F.SC_ZONE_SHIFT z) sh) (F.SC_ZONE_STRETCH z) st

/-- A generation's distortion with its changes scaled by j/16. -/
def Core.distScaled (c : Core) (g : Gen) (j : Int) : Gen :=
  let limS : Int := c.f F.PF_SLEW_A_SHIFT
  let limT : Int := c.f F.PF_SLEW_B_STRETCH
  (List.range 64).foldl (fun g z =>
    let a := Tab.get (fun _ => none) c.pf.shiftPend z
    let b := Tab.get (fun _ => none) c.pf.strPend z
    if a = none ∧ b = none then g
    else
      let step := fun (lim cur : Int) (t : Option Int) => cur + (clampTo (-lim) lim (t.getD cur - cur) * j).tdiv 16
      g.setZone z (step limS (g.shift z) a) (step limT (g.stretch z) b)) g

/-- The edge zones keep R143 against the neighbours' (spec/08_density_and_placement_loops.md R235). -/
def Core.edgeOk (c : Core) (g : Gen) : Bool :=
  let ok := fun (z : Nat) (other : Option Int) => match other with
    | some s => decide ((g.shift z - s).natAbs * g.stepY * 8 ≤ 64 * g.zoneW * g.stepXz z)
    | none => true
  !(c.fb F.CREW_STAT_FORMED && g.distEn) ||
    ((!g.fb F.CREW_CFG_LEFT_EN || ok (g.zoneOf g.firstCol) c.crew.edge.1) &&
      (!g.fb F.CREW_CFG_RIGHT_EN || ok (g.zoneOf ((g.lastCol - 1 : Nat) : Int)) c.crew.edge.2))

/-- SHIFT and STRETCH of every zone as another generation has them. -/
def Gen.undist (g h : Gen) : Gen := (List.range 64).foldl (fun g z => g.setZone z (h.shift z) (h.stretch z)) g

/-- The largest factor j/16 that keeps R143, R147 and R148 against the generation in force, with fuel. -/
def Core.distFit (c : Core) (g : Gen) (le : Nat) : Nat → Gen
  | 0 => g
  | j + 1 =>
    let h := c.distScaled g (j + 1 : Nat)
    if h.rangeScale || h.jumps c.inForce le || !c.edgeOk h then c.distFit g le j else h

/-! ### Formation (R228, R229) -/

/-- The loop generation for a boundary: what is formed (none where nothing changes), and the reasons for what waits. -/
def Core.buildLoop (c : Core) (le : Nat) : Core × Option LoopOut × List Nat :=
  let g := c.newest
  let tset := g.fb F.NZ_CFG_TSET_EN
  let live := c.livePend
  let gainsWait := tset && (decide (live.1 ≠ []) || decide (c.liveTargets ≠ []))
  let anyPend := (List.range 8).any c.pendingVer
  let reasonsG := if !gainsWait then [] else if anyPend then [2] else if c.pf.altBusy ≠ [] then [3] else []
  let o : GainOut := if gainsWait && reasonsG.isEmpty then c.targetGains g (c.zoneGains g {}) else {}
  let (c, g1, sets) := c.writeSets g o
  let (g2, ccs) := c.ccChanges g1
  let (g3, trims) := c.trimChanges g2
  let blocked := decide (trims ≠ []) && c.trimsClose g3 le
  let c := if blocked then c.post 0x0509 31 trims.length else c
  let (g4, trims) := if blocked then (g2, []) else (g3, trims)
  let distWait := live.2.2.2
  let held := c.distHeld
  let zonesHeld := ((c.pf.shiftPend ++ c.pf.strPend).map (·.1)).eraseDups.length
  let c := if distWait && held then
      let c' := c.setB F.PF_STAT_HELD true
      if c.pf.held then c' else (c'.setPf { c.pf with held := true }).post 0x0506 31 zonesHeld
    else (c.setB F.PF_STAT_HELD false).setPf { c.pf with held := false }
  let g5 := if distWait && !held then c.distFit g4 le 16 else g4
  let inkWait := (live.2.1.any fun e => c.segWaits (e.1 / 4)) || live.2.2.1.any fun e => c.segWaits e.1
  let reasons := reasonsG ++ (if inkWait then [2] else []) ++ (if blocked then [5] else []) ++
    (if distWait && held then [6] else [])
  let distOn := decide (g5.regs ≠ g4.regs)
  let segs := (ccs ++ trims).eraseDups
  if sets = [] ∧ segs = [] ∧ ¬ distOn then ((c.zonesDone o.zones le).targetsReached.waitSync, none, reasons)
  else
    let zOn := decide (o.zones ≠ []) && decide (sets ≠ [])
    let content := b2n (decide (sets ≠ [])) + 2 * b2n (decide (ccs ≠ [])) + 4 * b2n (decide (trims ≠ [])) + 8 * b2n distOn +
      16 * b2n zOn
    (c, some { gen := g5, le := le, content := content, zones := o.zones, nozzles := o.nozzles, slewed := o.slewed
               segs := segs.length, maxG := o.maxG, sets := sets, words := o.words, trims := trims }, reasons)

/-! ### Acceptance -/

/-- The fields and segments in which a generation differs from the one it was built on, laid over another. -/
def Gen.rebase (g base on : Gen) : Gen :=
  let offs := ((g.regs ++ base.regs).map (·.1)).eraseDups.filter fun o => g.n o ≠ base.n o
  let segs := ((g.tabs.seg ++ base.tabs.seg).map (·.1)).eraseDups.filter fun s => g.seg s ≠ base.seg s
  segs.foldl (fun h s => h.setSeg s (g.seg s))
    { on with regs := offs.foldl (fun t o => Tab.set regReset t o (BitVec.ofNat 32 (g.n o))) on.regs }

/-- The changed fields of a generation written into the shadow where the shadow still equals the generation in force
before it (R228). -/
def Core.shadowFollow (c : Core) (prev g : Gen) : Core :=
  let offs := ((List.range 4).flatMap fun j => [R.NZ_TSET_BASE_LO j, R.NZ_TSET_BASE_LO j + 4]) ++
    (List.range 64).flatMap fun z => [(F.SC_ZONE_SHIFT z).off, (F.SC_ZONE_STRETCH z).off]
  let part := fun (o : Nat) (lo wid : Nat) (c : Core) =>
    let old := bits (prev.n o) lo wid
    let new := bits (g.n o) lo wid
    if old ≠ new ∧ bits (c.n o) lo wid = old then c.setN o (setBits (c.n o) lo wid new) else c
  let c := c.eachOf offs.eraseDups fun o c =>
    if prev.n o = g.n o then c
    else if (List.range 4).any fun j => o == R.NZ_TSET_BASE_LO j || o == R.NZ_TSET_BASE_LO j + 4 then part o 0 32 c
    else part o 16 16 (part o 0 16 c)
  let segs := ((g.tabs.seg ++ prev.tabs.seg).map (·.1)).eraseDups.filter fun s => g.seg s ≠ prev.seg s
  let fields : List (Nat × Nat) := [(4, 3), (7, 3), (10, 3), (13, 3), (16, 16)]
  c.eachOf segs fun s c =>
    let cur := (Tab.get (fun _ => 0) c.job.shadow.seg s).toNat
    let w := fields.foldl (fun w f =>
      if bits w f.1 f.2 = bits (prev.seg s) f.1 f.2 then setBits w f.1 f.2 (bits (g.seg s) f.1 f.2) else w) cur
    c.setShadow { c.job.shadow with seg := Tab.set (fun _ => 0) c.job.shadow.seg s (BitVec.ofNat 32 w) }

/-- The changed fields of a generation for the logbook: register offsets, words of the calibration sets and segments, each with its
value (R231; the layout is the model's, log entry 57). -/
def changedBytes (prev g : Gen) (words : SetWords) : List Byte :=
  let offs := ((g.regs ++ prev.regs).map (·.1)).eraseDups.filter fun o => g.n o ≠ prev.n o
  let segs := ((g.tabs.seg ++ prev.tabs.seg).map (·.1)).eraseDups.filter fun s => g.seg s ≠ prev.seg s
  (offs.flatMap fun o => leBytes 4 o ++ leBytes 4 (g.n o)) ++ (words.flatMap fun e => leBytes 4 (2 ^ 30 + e.1) ++ leBytes 4 (e.2.getD 0)) ++
    segs.flatMap fun s => leBytes 4 (2 ^ 31 + s) ++ leBytes 4 (g.seg s)

/-- A loop generation accepted at its boundary: events, results, what stays pending (R225, R227, R228, R237). -/
def Core.loopAccepted (c : Core) (o : LoopOut) : Core :=
  let prev := c.newest
  let c := c.accept o.gen o.le 1 rDone (changedBytes prev o.gen o.words)
  let g := c.newest
  let c := (c.shadowFollow prev g).targetsReached.zonesDone o.zones o.le
  let p := c.pf
  let c := c.setPf { p with
    ccPend := p.ccPend.filter fun e => e.2 ≠ some (g.cc (e.1 / 4) (e.1 % 4))
    trimPend := p.trimPend.filter fun e => !o.trims.contains e.1
    shiftPend := p.shiftPend.filter fun e => e.2 ≠ some (g.shift e.1)
    strPend := p.strPend.filter fun e => e.2 ≠ some (g.stretch e.1)
    altBusy := p.altBusy ++ o.sets }
  let c := ((c.inc R.PF_UPDATE_CNT).setF F.PF_STAT_LAST_GEN g.num).post 0x0501 31 (g.num + 256 * o.content)
  let stale := ((List.range 32).map fun w => (List.range 32).countP fun i => bit (c.n (R.PF_STALE w)) i).sum
  let c := c.pfResult (leBytes 1 1 ++ leBytes 1 g.num ++ leBytes 1 o.content ++ leBytes 1 0 ++ leBytes 6 o.le ++
    leBytes 2 o.zones.length ++ leBytes 4 c.t32 ++ leBytes 4 o.nozzles ++ leBytes 4 o.slewed ++ leBytes 4 o.segs ++
    leBytes 2 o.maxG ++ leBytes 2 stale)
  c.waitSync

/-- The former buffers become the alternates once every version that used them has cleared (R227). -/
def Core.altSync (c : Core) : Core :=
  if c.pf.altBusy ≠ [] ∧ ¬ (List.range 8).any c.pendingVer then
    (c.eachOf c.pf.altBusy fun e c => c.set64 (R.PF_TSET_ALT_LO e.1) e.2).setPf { c.pf with altBusy := [] }
  else c

/-! ### Derates (spec/11_head_health.md R303) -/

/-- The segments of a head. -/
def Gen.headSegs (g : Gen) (h : Nat) : List Nat :=
  let segs := (((g.tabs.map.filter fun r => r.head = h).flatMap MapRun.nozzles).map (· / 64)).eraseDups
  segs.filter fun s => g.segHead s = some h

/-- The derate generation of a head, or its restoring one, with the changes made. -/
def Core.buildDerate (c : Core) (h : Nat) (on : Bool) : DerateOut :=
  let g := c.newest
  let le := ((c.web.s : Int) - c.dMin + c.job.catchN + c.n R.NZ_LEAD + 1).toNat
  if on then
    let w := match g.headBar h with
      | some b => sext 3 (c.f (F.HH_BAR_CFG_WARN_CC b))
      | none => 0
    let (g', l) := (g.headSegs h).foldl (fun (g, l) s =>
      let d := (List.range 4).map fun b => clampTo (-4) 3 (g.cc s b + w) - g.cc s b
      ((List.range 4).foldl (fun g b => g.setCC s b (g.cc s b + d.getD b 0)) g, l ++ [(s, d)])) (g, [])
    { head := h, on := true, gen := g', le := le, rec_ := l }
  else
    let g' := (c.head h).derate.foldl (fun g e =>
      (List.range 4).foldl (fun g b => g.setCC e.1 b (clampTo (-4) 3 (g.cc e.1 b - e.2.getD b 0))) g) g
    { head := h, on := false, gen := g', le := le, rec_ := [] }

/-- A derate generation accepted. -/
def Core.derateAccepted (c : Core) (o : DerateOut) : Core :=
  let prev := c.newest
  let c := c.accept o.gen o.le 2 rDone (changedBytes prev o.gen [])
  let c := c.shadowFollow prev c.newest
  let c := c.setHead o.head { c.head o.head with derate := o.rec_, wantDerate := (c.head o.head).wantDerate.drop 1 }
  c.post 0x0806 o.head (b2n o.on * 2 ^ 31 + c.newest.num)

end Sys2Proof.Machine
end

