-- ==== Sys2Proof/Machine/Crew.lean ====
section
/-!
DEFINITION. The crew's commit token and job control (spec/17_time_and_crew.md R469, R470), and how a generation formed on
the device is submitted.
-/

namespace Sys2Proof.Machine

/-- The device is a member of a crew whose links it heeds (in REPLAY they are ignored, R506). -/
def Core.formed (c : Core) : Bool := c.fb F.CREW_STAT_FORMED && !c.replay
def Core.isLead (c : Core) : Bool := c.fb F.CREW_STAT_LEAD
def Core.seat (c : Core) : Nat := c.f F.CREW_CFG_SEAT
def Core.setCrew (c : Core) (v : Crew) : Core := { c with crew := v }

/-- The seats of the other members; seat j is reached on port CPj (R457). -/
def Core.peers (c : Core) : List Nat := (List.range (c.f F.CREW_CFG_SIZE)).filter (· ≠ c.seat)

def Core.crewPort (c : Core) (p : Nat) : CrewPort := Tab.get (fun _ => {}) c.crew.ports p
def Core.setCrewPort (c : Core) (p : Nat) (v : CrewPort) : Core :=
  c.setCrew { c.crew with ports := Tab.set (fun _ => {}) c.crew.ports p v }

/-- A message sent on a crew port, its kind 0x400 + TYPE; held while the link re-skews (R466). -/
def Core.crewEmit (c : Core) (p type : Nat) (fields : List Int) : Core :=
  let u := c.crewPort p
  match u.since with
  | some _ =>
    let held := if type = 0xF2 then u.held.filter (fun m => m.kind ≠ 0x4F2) else u.held
    c.setCrewPort p { u with held := held ++ [⟨p, 0x400 + type, fields⟩] }
  | none => (if type = 0xF2 then c.perf 239 else c).emit p (0x400 + type) fields

/-- A BULK message sent, and kept to be sent again (R458). -/
def Core.bulkSend (c : Core) (p : Nat) (fields : List Int) : Core :=
  (c.setCrewPort p { c.crewPort p with bulk := some fields }).crewEmit p 0xF8 fields

/-- CREW_LAT in 1.25 ns units. -/
def Core.crewLat (c : Core) : Nat := c.f F.CREW_LAT_NS * 4 / 5

/-! ### Requests and votes -/

/-- The words of a request in a message. -/
def reqFields : CrewReq → List Int
  | .commit k l n s => [0, k, l, n, b2n s]
  | .loops le => [1, le]
  | .derate le => [2, le]
  | .job op id p pos => [3, op, id, b2n p, pos]

/-- The request makes a generation. -/
def reqGen : CrewReq → Bool
  | .job .. => false
  | _ => true

/-- The crew-common fields of a generation (R469). -/
def Core.commons (c : Core) (g : Gen) : List Nat :=
  [g.n64 R.WEB_PITCH_LO, g.f F.WEB_CTRL_PRINT_DIR, g.f F.NIB_CFG_CATCH, g.f F.NIB_CFG_W, g.n R.JOB_REPEAT_INT,
   g.n R.JOB_REPEAT_FRAC, g.jobLast, c.f F.PF_CFG_POLICY, c.n R.PF_INTERVAL]

/-- O_b of a bar in 2^-32 of a pitch, by the alignment offset of the direction in force (R78): PB0 has none. -/
def Core.barOffset (c : Core) (b : Nat) (pitch : Nat) (rev : Bool) : Int :=
  if b = 0 ∨ pitch = 0 then 0
  else c.i64 (if rev then R.FIRE_ALIGN_REV_LO b else R.FIRE_ALIGN_FWD_LO b) * p32 * p32 / pitch

/-- The smallest B_b of the bars that a generation uses (R190). -/
def Core.minBOf (c : Core) (g : Gen) : Int :=
  let bb := fun b => c.barOffset b c.web.pitch c.web.rev / p32
  g.barsInUse.foldl (fun m b => min m (bb b)) (bb (g.barsInUse.headD 0))

/-- The smallest B_b of the bars in use (R190). -/
def Core.ownMinB (c : Core) : Int := c.minBOf c.newest

/-- The crew's smallest B_b after a decision: while a job prints D_min follows it (spec/04_surfaces_and_layers.md R127). -/
def Core.setMinB (c : Core) (b : Int) : Core :=
  let c := c.setCrew { c.crew with minB := some b }
  if c.job.tof then { c with job := { c.job with crewDMin := some (b + c.sTof) } } else c

/-- A member's vote on a generation. -/
def Core.voteFor (c : Core) (g : Gen) (status : Nat) : CrewVote :=
  { status := BitVec.ofNat 8 status
    left := if g.fb F.CREW_CFG_LEFT_EN && g.fb F.CREW_CFG_U0_CHAIN then some (Fin.ofNat 4 (g.f F.CREW_CFG_LEFT)) else none
    u0 := sext 64 (g.n64 R.SC_U0_LO), u16 := g.u g.lastCol
    u0Range := if c.job.tof && c.chained g then some (g.u0Range c.inForce) else none
    minB := c.minBOf g, lead := c.leadOf g }

/-- NOT_NOW, where the member's state does not let a request's command run (spec/04_surfaces_and_layers.md R125,
spec/14_command_reference.md R382): of a generation that of COMMIT. -/
def Core.voteState (c : Core) (req : CrewReq) : Nat :=
  if c.opLegal (match req with
    | .job op .. => op
    | _ => 0x30) then rDone else rNotNow

/-- A request prepared: its generation, checked in the order of R125 up to CAPACITY and against the lead's common
fields. A derate generation is that of the most recently accepted one as it stands now. -/
def Core.prepare (c : Core) (id seat : Nat) (req : CrewReq) (commons : List Nat) : Core × CrewVote :=
  let keep := fun (c : Core) (g : Gen) (st : Nat) (o : Option LoopOut) =>
    (c.setCrew { c.crew with prep := some { id := id, seat := seat, req := req, gen := g, status := st, loops := o } }, c.voteFor g st)
  let now := c.voteState req
  match req with
  | .commit kind l n _ =>
    let g := c.shadowGen
    let (st, _) := c.commitJudge g kind l n false
    let st := if st = rDeferred then rDone else st
    let st := if st ≠ rBusy ∧ c.commons g ≠ commons then rBadParam else st
    let st := if now = rDone then st else now
    keep (c.capStat g st) g st none
  | .loops le =>
    match c.crew.frozen with
    | some (at_, base, some o) =>
      if at_ = le then
        let g := o.gen.rebase base c.newest
        keep c g now (some { o with gen := g })
      else keep c c.newest now none
    | _ => keep c c.newest now none
  | .derate _ =>
    match if seat = c.seat then c.crew.own.find? (fun x => x.1 = req) else none with
    | some (_, some d) => keep c (c.buildDerate d.head d.on).gen now none
    | _ => keep c c.newest now none
  | .job .. => keep c c.newest now none

/-! ### The lead (R469) -/

/-- The next request's exchange opens: PREPARE to every member, the lead's own vote taken at once. -/
def Core.tokenNext (c : Core) : Core :=
  match c.crew.exch, c.crew.decided, c.crew.asks with
  | none, none, (seat, req) :: rest =>
    let id := c.crew.nextId
    let commons := c.commons (match req with
      | .commit .. => c.shadowGen
      | _ => c.newest)
    let c := c.setCrew { c.crew with asks := rest, nextId := (id + 1) % 256 }
    let c := c.eachOf c.peers fun p c => c.crewEmit p 0xF5 ([1, (id : Int), (seat : Int)] ++ reqFields req ++ commons.map Int.ofNat)
    let (c, v) := c.prepare id seat req commons
    c.setCrew { c.crew with exch := some { id := id, seat := seat, req := req, sentAt := c.now, votes := [(c.seat, v)] } }
  | _, _, _ => c

/-- The first failing status in the order of R125. -/
def firstFail (l : List Nat) : Nat :=
  match [rNotNow, rBusy, rBadParam, rRange, rAlign, rOverlap, rCapacity].find? l.contains with
  | some st => st
  | none => (l.find? (· ≠ rDone)).getD rDone

/-- Stroke events that the lead's updates under way bring before T_a (R462, R469). -/
def Core.strokesAhead (c : Core) : Nat :=
  match c.crew.queue.getLast? with
  | none => 0
  | some m =>
    let d := if c.web.rev then c.web.bNext - m.pos else m.pos - c.web.bNext
    if d < 0 ∨ c.web.pitch = 0 then 0 else (d / c.web.pitch).toNat + 1

/-- The chained SC_U0 of a seat (R468), with fuel. -/
def chainU0 (votes : List (Nat × CrewVote)) : Nat → Nat → Option Int
  | 0, _ => none
  | f + 1, seat =>
    match votes.find? (fun v => v.1 = seat) with
    | none => none
    | some (_, v) =>
      match v.left with
      | none => none
      | some l =>
        match votes.find? (fun w => w.1 = l.val) with
        | none => none
        | some (_, w) => some (match chainU0 votes f l.val with
          | some u => u + (w.u16 - w.u0)
          | none => w.u16)

/-- The decision's words in a message. -/
def decFields (d : CrewDec) : List Int :=
  [d.status.toNat, d.le, d.gen.toNat, d.ta.toNat, b2n d.u0.isSome, d.u0.getD 0, d.minB, b2n d.loops, b2n d.dist]

/-- A decision taken up: it waits for T_a; generations decided and refused are counted. The smallest B_b is that of what is accepted. -/
def Core.takeDecision (c : Core) (req : Option CrewReq) (d : CrewDec) (at_ : Nat) : Core :=
  let gen : Bool := match req with
    | some r => reqGen r
    | none => true
  let ok := d.status.toNat = rDone ∨ d.status.toNat = rDeferred
  let c := if gen = true then c.inc R.CREW_TOKEN_CNT else c
  let c := if gen = true ∧ ¬ ok then c.inc R.CREW_TOKEN_REFUSE_CNT else c
  c.setCrew { c.crew with decided := some { at_ := at_, dec := d }, minB := if ok then some d.minB else c.crew.minB }

/-- A member's chained SC_U0 lies beyond what R148 lets its generation take (R468). -/
def torn (votes : List (Nat × CrewVote)) : Bool :=
  votes.any fun v => match chainU0 votes 4 v.1, v.2.u0Range with
    | some u, some (a, b) => decide (u < a) || decide (b < u)
    | _, _ => false

/-- The lead decides: the votes and the chained SC_U0 combined (R468), then lateness judged against the stroke events before T_a, by the
smallest B_b and the earliest cut-off of any member, and the effective line that results against JOB_LAST
(spec/04_surfaces_and_layers.md R128). A COMMIT whose chained u tears is out of RANGE; a loop or a derate generation then goes without
SHIFT and STRETCH, and U0 stays. -/
def Core.tokenDecide (c : Core) (x : Exch) : Core :=
  let votes := x.votes.map (·.2)
  let host := match x.req with
    | .commit .. => true
    | _ => false
  let tears := torn x.votes
  let st := firstFail ((votes.map fun v => v.status.toNat) ++ if host && tears then [rRange] else [])
  let minB := (votes.filter fun v => v.status.toNat ≠ rBusy).foldl (fun m v => min m v.minB) c.ownMinB
  let lead := votes.foldl (fun m v => max m v.lead) 0
  let g := match c.crew.prep with
    | some p => p.gen
    | none => c.newest
  let ahead := { c with web := { c.web with s := c.web.s + c.strokesAhead } }.setMinB minB
  let (st, le) := match x.req with
    | .commit kind l n strict =>
      let (le, late) := ahead.effAhead g kind l n lead
      (if st ≠ rDone then st else if late then (if strict then rRange else rDeferred) else rDone, le)
    | .loops l | .derate l =>
      let (le, late) := ahead.effAhead g 2 l 1 lead
      (if st ≠ rDone then st else if late then rDeferred else rDone, le)
    | .job .. => (st, 0)
  let st := if reqGen x.req = true ∧ (st = rDone ∨ st = rDeferred) ∧ g.jobLast + 1 < le then rRange else st
  let gen := BitVec.ofNat 8 (if reqGen x.req && (st == rDone || st == rDeferred) then c.job.genNum + 1 else c.job.genNum)
  let ta := BitVec.ofNat 32 (c.t32 + c.f F.CREW_LAT_NS)
  let here := fun seat : Nat => match x.req with
    | .loops l => seat == c.seat || c.crew.delivered.contains (seat, l)
    | _ => true
  let dec := fun seat : Nat => ({ status := BitVec.ofNat 8 st, le := le, gen := gen, ta := ta
                                  u0 := if tears then none else chainU0 x.votes 4 seat
                                  minB := minB, loops := here seat, dist := !tears } : CrewDec)
  let c := c.eachOf c.peers fun p c => c.crewEmit p 0xF5 ([3, (x.id : Int)] ++ decFields (dec p))
  let c := match x.req with
    | .loops l => if c.peers.all here || c.crew.waited == some l then c else c.post 0x0502 31 4
    | _ => c
  (c.setCrew { c.crew with exch := none }).takeDecision (some x.req) (dec c.seat) (c.now + c.crewLat)

/-- A vote reaches the lead; with all in, it decides. -/
def Core.tokenVote (c : Core) (seat id : Nat) (v : CrewVote) : Core :=
  match c.crew.exch with
  | none => c
  | some x =>
    if x.id ≠ id ∨ (x.votes.any fun w => w.1 = seat) ∨ ¬ c.peers.contains seat then c
    else
      let x := { x with votes := x.votes ++ [(seat, v)] }
      if c.f F.CREW_CFG_SIZE ≤ x.votes.length then c.tokenDecide x else c.setCrew { c.crew with exch := some x }

/-- A request made here: put in the lead's line, or sent to it with the changes of its generation (R458, R469). -/
def Core.askToken (c : Core) (req : CrewReq) (d : Option DerateOut) : Core :=
  let c := c.setCrew { c.crew with own := c.crew.own ++ [(req, d)] }
  if c.isLead then (c.setCrew { c.crew with asks := c.crew.asks ++ [(c.seat, req)] }).tokenNext
  else
    let h := match req, d with
      | .commit .., _ => c.shadowGen
      | _, some o => o.gen
      | _, none => c.newest
    let c := if reqGen req then c.bulkSend 0 ((changedBytes c.newest h []).map fun b => (b.toNat : Int)) else c
    c.crewEmit 0 0xF5 ([0, (c.seat : Int)] ++ reqFields req)

/-! ### Acceptance by the host and by the token -/

/-- A host's generation accepted. -/
def Core.hostAccept (c : Core) (g : Gen) (le origin status : Nat) : Core :=
  let prev := c.newest
  let c := (c.accept g le origin status []).derateDiscard g prev
  c.perf (if status = rDeferred then 77 else 76)

/-- A job command carried out (spec/14_command_reference.md R388, R391), where the state still lets it run (R369). -/
def Core.jobOp (c : Core) (op id : Nat) (byPos : Bool) (pos : Int) : Core :=
  if !c.opLegal op then c
  else match op with
  | 0x20 => c.openJob id
  | 0x21 => c.closeJob.goto stIdle
  | 0x31 => c.armJob byPos pos
  | 0x32 => c.tofJob
  | 0x33 => c.disarmJob
  | _ => c.abortJob

/-- RESULT of a COMMIT: L_e and GEN. -/
def commitResult (le gen : Nat) : List Byte := leBytes 6 le ++ leBytes 1 gen

/-- The reply of the member that asked, or 0x0C0C on the others. -/
def Core.tokenReply (c : Core) (req : CrewReq) (mine : Bool) (status le gen : Nat) : Core :=
  let ok := status = rDone ∨ status = rDeferred
  if mine then
    match req with
    | .commit .. => (c.answerWaiting 0x30 status (if ok then commitResult le gen else [])).bridgeHeard 0x30 status
    | .job op _ _ _ => (c.answerWaiting op (if op = 0x34 ∧ ok ∧ c.st ≠ stReady then rAccepted else status)).bridgeHeard op status
    | _ => c
  else if reqGen req = true then c.post 0x0C0C 31 (gen * 256 + status)
  else c

/-- A decision leaves the exchange; loop changes frozen for a boundary leave with the decision for it, and not with another's. -/
def Core.tokenTaken (c : Core) (asked : Option CrewReq) : Core :=
  let past := fun (le : Nat) => match c.crew.prep with
    | some p => (match p.req with
      | .loops l => decide (le ≤ l)
      | _ => false)
    | none => false
  c.setCrew { c.crew with
    decided := none, prep := none
    own := c.crew.own.eraseP (fun (x : CrewReq × Option DerateOut) => asked.any fun (a : CrewReq) => x.1 = a)
    frozen := c.crew.frozen.filter fun f => !past f.1
    delivered := c.crew.delivered.filter fun e => !past e.2 }

/-- A standstill that came while a job command was in execution takes effect after it (R57, R372). -/
def Core.afterWait (c : Core) : Core := if c.st = stPrinting && c.webStands && !c.jobWaits then c.webStill else c

/-- T_a: the decided generation or job command is applied (R469, R470). -/
def Core.tokenApply (c : Core) : Core :=
  match c.crew.decided with
  | none => c
  | some x =>
    let d := x.dec
    let st := d.status.toNat
    let ok := st = rDone ∨ st = rDeferred
    let prep := c.crew.prep
    let own := c.crew.own
    let lead := c.isLead
    let asked := match prep with
      | some p => if p.seat = c.seat then own.find? (fun (x : CrewReq × Option DerateOut) => x.1 = p.req) else none
      | none => none
    let mine := asked.isSome
    let drate := asked.bind (·.2)
    let c := c.tokenTaken (asked.map (·.1))
    let chain := fun (g : Gen) => match d.u0 with
      | some u => ({ g with regs := Tab.set regReset (Tab.set regReset g.regs R.SC_U0_LO (BitVec.ofInt 32 u)) R.SC_U0_HI
                              (BitVec.ofInt 32 (u / p32)) } : Gen)
      | none => g
    let c := match prep with
      | none => c.post 0x0C0C 31 (d.gen.toNat * 256 + st)
      | some p =>
        let c := if ok then
            match p.req with
            | .commit .. => (c.setMinB d.minB).hostAccept (chain p.gen) d.le (if mine then 0 else 3) st
            | .loops _ => (match p.loops, d.loops with
              | some o, true =>
                let g := if d.dist then o.gen else o.gen.undist c.newest
                (c.setMinB d.minB).loopAccepted { o with gen := chain g, le := d.le }
              | _, _ => (c.setMinB d.minB).loopAccepted { gen := chain c.newest, le := d.le })
            | .derate _ => (match drate with
              | some o => (let o := c.buildDerate o.head o.on; (c.setMinB d.minB).derateAccepted { o with gen := chain o.gen, le := d.le })
              | none => (c.setMinB d.minB).accept (chain p.gen) d.le 2 st [])
            | .job op id b pos => c.jobOp op id b pos
          else c
        c.tokenReply p.req mine st d.le d.gen.toNat
    let c := c.afterWait
    if lead then c.tokenNext else c

/-- A derate generation submitted: accepted at once, or through the token, where one of its head does not wait there. -/
def Core.submitDerate (c : Core) (o : DerateOut) : Core :=
  if c.formed then
    (if c.crew.own.any fun x => x.2.any fun d => d.head = o.head then c else c.askToken (.derate o.le) (some o))
  else c.derateAccepted o

/-- A command of the host waits for the token. -/
def Core.hostAsked (c : Core) : Bool := c.crew.own.any fun x => match x.1 with
  | .commit .. => true
  | .job .. => true
  | _ => false

/-- The derate generations due while a job prints, of each head the one that waits longest (R303): a head waits while eight
generations are live or an ink of it has a pending version, and where JOB_LAST would refuse the generation
(spec/04_surfaces_and_layers.md R128). -/
def Core.deratesDue (c : Core) : Core :=
  if c.printing then
    c.eachOf (c.heads.filterMap fun e => e.2.wantDerate.head?.map fun on => (e.1, on)) fun e c =>
      let o := c.buildDerate e.1 e.2
      if 8 ≤ c.job.gens.length || (c.newest.headInks e.1).any c.pendingVer || decide (o.gen.jobLast + 1 < o.le) then c
      else c.submitDerate o
  else c

/-! ### The commands -/

/-- The cox works: its switch-over keeps it from votes and decisions (R469). -/
def Core.coxHere (c : Core) : Bool := !c.fb F.COX_EPOCH_SWITCHING

/-- CREW_TOKEN_REQ. -/
def execCrewTokenReq (seat : Fin 4) (req : CrewReq) (s : State) : Host.Outcome State Fault Refusal :=
  let c := s.core
  .next { s with core := if c.formed && c.isLead && c.peers.contains seat then
    (c.setCrew { c.crew with asks := c.crew.asks ++ [(seat.val, req)] }).tokenNext else c }

/-- CREW_PREPARE. -/
def execCrewPrepare (id : BitVec 8) (seat : Fin 4) (req : CrewReq) (commons : List Nat) (s : State) : Host.Outcome State Fault Refusal :=
  let c := s.core
  let r :=
    if c.formed && !c.isLead && c.coxHere then
      let (c, v) := c.prepare id.toNat seat req commons
      c.crewEmit 0 0xF5 [2, c.seat, id.toNat, v.status.toNat, (match v.left with
        | some l => l.val
        | none => 4), v.u0, v.u16, b2n v.u0Range.isSome, (v.u0Range.getD (0, 0)).1, (v.u0Range.getD (0, 0)).2, v.minB, v.lead]
    else c
  .next { s with core := r }

/-- CREW_VOTE. -/
def execCrewVote (seat : Fin 4) (id : BitVec 8) (vote : CrewVote) (s : State) : Host.Outcome State Fault Refusal :=
  let c := s.core
  .next { s with core := if c.formed && c.isLead then c.tokenVote seat id.toNat vote else c }

/-- CREW_VOTE_TIMEOUT: no vote within 15 µs of PREPARE counts as BUSY. -/
def execCrewVoteTimeout (seat : Fin 4) (s : State) : Host.Outcome State Fault Refusal :=
  let c := s.core
  let r := match c.crew.exch with
    | some x => if c.formed && c.isLead && decide (x.sentAt + 15 * usec ≤ c.now) then
        c.tokenVote seat x.id { status := BitVec.ofNat 8 rBusy, left := none, u0 := 0, u16 := 0, u0Range := none, minB := 0 } else c
    | none => c
  .next { s with core := r }

/-- CREW_DECIDE. -/
def execCrewDecide (id : BitVec 8) (dec : CrewDec) (s : State) : Host.Outcome State Fault Refusal :=
  let c := s.core
  let r :=
    if c.formed && !c.isLead && c.coxHere then
      let dt := sext 32 ((dec.ta.toNat + 2 ^ 32 - c.t32) % 2 ^ 32)
      let c := match c.crew.prep with
        | some p => if p.id = id.toNat then c else c.setCrew { c.crew with prep := none }
        | none => c
      c.takeDecision (c.crew.prep.map (·.req)) dec (c.now + (max 0 dt).toNat * 4 / 5)
    else c
  .next { s with core := r }

/-- CREW_TOKEN_APPLY: at T_a. -/
def execCrewTokenApply (s : State) : Host.Outcome State Fault Refusal :=
  let c := s.core
  .next { s with core := match c.crew.decided with
    | some x => if x.at_ ≤ c.now then c.tokenApply else c
    | none => c }

end Sys2Proof.Machine
end

