-- ==== Sys2Proof/Machine/JobCmds.lean ====
section
/-!
DEFINITION. The job and commit commands (spec/14_command_reference.md R387-R391, spec/17_time_and_crew.md R470).
-/

namespace Sys2Proof.Machine

/-! ### Jobs (R387, R388, R390, R391; in a crew spec/17_time_and_crew.md R470) -/

/-- A job command: on a crew's member BUSY, on its lead under the token, else carried out at once. -/
def Core.jobCommand (c : Core) (op id : Nat) (byPos : Bool) (pos : Int) : CmdOut :=
  if c.formed then
    if c.isLead && !c.hostAsked then (c.askToken (.job op id byPos pos) none, none) else (c, some (rBusy, []))
  else
    let later := op == 0x34 && c.st != stArmed
    (c.jobOp op id byPos pos, some (if later then rAccepted else rDone, []))

def cmdJobOpen (c : Core) (q : CmdIn) : CmdOut := c.jobCommand 0x20 (q.u32 0) false 0
def cmdJobClose (c : Core) (_q : CmdIn) : CmdOut := c.jobCommand 0x21 0 false 0
def cmdTof (c : Core) (_q : CmdIn) : CmdOut := c.jobCommand 0x32 0 false 0
def cmdDisarm (c : Core) (_q : CmdIn) : CmdOut := c.jobCommand 0x33 0 false 0

/-- ABORT: BUSY while one is under way (R379). -/
def cmdAbort (c : Core) (_q : CmdIn) : CmdOut := c.judge [(c.job.aborting, rBusy)] fun c => c.jobCommand 0x34 0 false 0

/-- ARM: BAD_PARAM without a COMMIT since JOB_OPEN, RANGE without a pitch (R391). -/
def cmdArm (c : Core) (q : CmdIn) : CmdOut :=
  let trig := q.u8 0
  c.judge [(c.formed && !c.isLead, rBusy), (!c.job.committed || decide (1 < trig) || le q.par 1 7 != 0, rBadParam),
    (c.newest.n64 R.WEB_PITCH_LO == 0, rRange)] fun c => c.jobCommand 0x31 0 (trig == 1) (sext 64 (q.u64 8))

/-- COMMIT (R125, R126, R390, R391): judged and accepted here, in a crew by the token. -/
def cmdCommit (c : Core) (q : CmdIn) : CmdOut :=
  let l := le q.par 0 6
  let kind := q.u8 6
  let n := q.u32 8
  if c.formed then
    let refused := fun (st : Nat) => (c.capStat c.shadowGen st, some (st, []))
    if c.hostAsked || c.commitBusy c.shadowGen then refused rBusy
    else if q.u8 7 ≠ 0 then refused rBadParam
    else (c.askToken (.commit kind l n q.strict) none, none)
  else
    let g := c.shadowGen
    let (st, le) := c.commitJudge g kind l n q.strict
    let st := if q.u8 7 ≠ 0 ∧ st ≠ rBusy then rBadParam else st
    let c := c.capStat g st
    if st = rDone ∨ st = rDeferred then
      let c := c.hostAccept g le 0 st
      (c, some (st, commitResult le c.job.genNum))
    else (c, some (st, []))

end Sys2Proof.Machine
end

