-- ==== Sys2Proof/Machine/Bridge.lean ====
section
/-!
DEFINITION. The legacy bridge's native work (spec/15_lh460_compatibility.md R415-R421).
-/

namespace Sys2Proof.Machine

/-! ### Native commands (R421) -/

/-- The rules of the commands that the bridge issues. -/
def bridgeRule (op : Nat) : Core → CmdIn → CmdOut :=
  match op with
  | 0x20 => cmdJobOpen
  | 0x21 => cmdJobClose
  | 0x25 => Core.cmdPanelQueue
  | 0x30 => cmdCommit
  | 0x31 => cmdArm
  | 0x32 => cmdTof
  | 0x41 => Core.cmdServiceEnter
  | 0x42 => Core.cmdServiceLeave
  | _ => Core.cmdSpit

/-- What a command carried out means to the bridge: its job opened or closed, a band bound, a spit begun. -/
def Core.bridgeNote (c : Core) (x : NatCmd) : Core :=
  match x.op with
  | 0x20 => c.setB F.LG_STAT_OWNER true
  | 0x21 => c.lpClosed
  | 0x25 =>
    let n := le x.par 0 1
    let q := 1023 - n * (c.f F.LG_CFG_POOL + 1) - le x.par 2 2
    if q = c.f F.LG_CFG_POOL then c
    else
      let k := ((c.layer n).panels.getLast?.map (·.k)).getD 0
      let u := c.pers n
      let bands := u.bands.map fun (b : LBand) => if b.q = q ∧ b.bound = none then { b with bound := some k } else b
      let c := c.setPers n { u with bands := bands, repeats := u.repeats ++ [k] }
      c.setLg { c.lg with kLast := some (max k (c.lg.kLast.getD 0)) }
  | 0x44 => c.setLg { c.lg with spit := some (x.owners, x.lsp) }
  | _ => c

/-- JOB_LAST of the COMMIT that ends the job, by its L_e as it is issued (R417); in a crew by the L_e at its T_a. -/
def Core.bridgeLast (c : Core) : Core :=
  let ahead := if c.formed then { c with web := { c.web with s := c.web.s + c.strokesAhead } } else c
  let (le, _) := ahead.effLine c.shadowGen 0 0 1
  let last := max (match c.lg.kLast with
    | some k => 64 * (k + 1) - 1
    | none => 0) (le - 1)
  (c.setN R.JOB_LAST_LO last).setF F.JOB_LAST_HI_LAST (last / 2 ^ 32)

/-- A native command carried out: its status, or none where it waits for the crew's token. -/
def Core.bridgeDo (c : Core) (x : NatCmd) : Core × Option Nat :=
  if c.fb F.COX_EPOCH_SWITCHING then (c, some rBusy)
  else
    let c := if x.last then c.bridgeLast else c
    let pkt := leBytes 1 x.op ++ leBytes 4 0 ++ leBytes 1 x.par.length ++ leBytes 2 0 ++ (x.par ++ List.replicate 56 0).take 56
    let c := c.logRec 5 (leBytes 1 0xFF ++ leBytes 1 (c.f F.COX_EPOCH_EPOCH) ++ pkt ++ x.lsp)
    if !c.opLegal x.op then (c, some rNotNow)
    else
      let (c, r) := bridgeRule x.op c { sq := 255, seq := 0, flags := 0, par := x.par }
      (c, r.map (·.1))

/-- A native command's status: carried out now, or as the token has answered; a request that has left the line without an answer has
failed. None while it waits. -/
def Core.bridgeStatus (c : Core) (x : NatCmd) : Core × Option Nat :=
  match x.heard with
  | some st => (c, some st)
  | none => if x.asked then (c, if c.hostAsked then none else some rHwFault) else c.bridgeDo x

/-- The commands in line: BUSY is retried every 1 ms for up to 1 s from the first, any other refusal faults whose command it was. One
that waits for the crew's token holds the line. The last COMMIT that the token's line passes (RANGE) is tried again, with JOB_LAST
anew (log entry 64). -/
def Core.bridgePump : Nat → Core → Core
  | 0, c => c
  | f + 1, c =>
    match c.lg.queue with
    | [] => c
    | x :: rest =>
      let (c, r) := c.bridgeStatus x
      let st := r.getD rDone
      if r.isNone then c.setLg { c.lg with queue := { x with asked := true } :: rest }
      else if st ≤ rDeferred then
        let c := c.bridgeNote x
        Core.bridgePump f (c.setLg { c.lg with queue := rest })
      else if (st = rBusy ∨ (x.last ∧ x.asked ∧ st = rRange)) ∧ c.now < x.busyAt.getD c.now + sec then
        c.setLg { c.lg with
          queue := { x with busyAt := some (x.busyAt.getD c.now), tried := c.now, asked := false, heard := none } :: rest }
      else
        let c := (c.setLg { c.lg with queue := rest }).inc R.LG_NATIVE_REFUSE_CNT
        Core.bridgePump f (c.eachOf x.owners fun n c => c.lpFault n 5 st)

/-- A native command issued. -/
def Core.bridgeAsk (c : Core) (op : Nat) (par lsp : List Byte) (owners : List Nat) (last : Bool := false) : Core :=
  let x : NatCmd := { op := op, par := par, lsp := lsp, owners := owners, tried := c.now, last := last }
  let first := c.lg.queue.isEmpty
  let c := c.setLg { c.lg with queue := c.lg.queue ++ [x] }
  if first then c.bridgePump 2 else c

/-- A pool surface bound to a layer's next repeat: q = POOL is the blank. -/
def Core.bridgeBind (c : Core) (n q : Nat) (lsp : List Byte) : Core :=
  c.bridgeAsk 0x25 (leBytes 1 n ++ leBytes 1 0 ++ leBytes 2 (c.lpId n q) ++ List.replicate 16 0) lsp [n]

/-- Every held band of a personality bound, in order. -/
def Core.bridgeBindAll (c : Core) (n : Nat) (lsp : List Byte) : Core :=
  c.eachOf ((c.pers n).bands.filter (·.bound.isNone)) fun b c => c.bridgeBind n b.q lsp

/-- A COMMIT of the shadow. -/
def Core.bridgeCommit (c : Core) (kind line : Nat) (lsp : List Byte) (owners : List Nat) (last : Bool := false) : Core :=
  c.bridgeAsk 0x30 (leBytes 6 line ++ leBytes 1 kind ++ leBytes 5 0) lsp owners last

/-! ### The job (R415, R417, R419) -/

/-- The personalities that are enabled. -/
def Core.lpsOn (c : Core) : List Nat := (List.range 8).filter c.lpOn

/-- WEB_PITCH of P and PITCH (R419), of the personality that opens the job. -/
def Core.lpPitch (c : Core) (p pitch : Nat) : Nat := (p * pitch * c.n64 (R.ENC_SCALE_LO 0) + 32768) / 65536

/-- The bridge's values in the shadow. -/
def Core.bridgeShadow (c : Core) (p pitch : Nat) : Core :=
  let inks := (c.lpsOn.flatMap c.lpInks).foldl (fun m k => setBits m k 1 1) 0
  let c := (c.setF F.JOB_CFG_SPACE 0).setF F.JOB_CFG_INKS inks
  let c := (c.setN R.JOB_REPEAT_INT 64).setN R.JOB_REPEAT_FRAC 0
  let c := (c.setN R.JOB_LAST_LO 0xFFFFFFFF).setF F.JOB_LAST_HI_LAST 0xFFFF
  let c := (c.setN R.SC_STEP_X 0x08000000).setN R.SC_STEP_Y 0x10000000
  let c := (c.set64 R.SC_U0_LO (wrap 64 (-(2 ^ 26)))).set64 R.SC_V0_LO 0
  let c := (c.setB F.SC_CFG_BYPASS_X true).setB F.SC_CFG_BYPASS_Y true
  let c := c.set64 R.WEB_PITCH_LO (c.lpPitch p pitch)
  c.eachOf c.lpsOn fun n c =>
    let mask := (c.lpInks n).foldl (fun m k => setBits m k 1 1) 0
    let c := (((c.setN (R.LAY_CFG n) 0).setB (F.LAY_CFG_EN n) true).setB (F.LAY_CFG_SRC n) true).setF (F.LAY_CFG_MODE n) 2
    let c := ((c.setF (F.LAY_CFG_ORDER n) n).setB (F.LAY_CFG_TILE_Y n) true).setF (F.LAY_CFG_POLICY n) 2
    let c := (c.setF (F.LAY_CFG_CH_MASK n) mask).setN (R.LAY_TILE_H n) 64
    let c := (c.setN (R.LAY_X0 n) (c.f (F.LG_LP_C0_C0 n) / 2)).setN (R.LAY_W n) 12800
    (c.setN (R.LAY_Y0_LO n) 0).setF (F.LAY_Y0_HI_Y0 n) 0

/-- The line pitch by which a personality's offsets count: the job's WEB_PITCH, or before a job is open the one that it would open it
with (R420; log entry 64). -/
def Core.lpWebPitch (c : Core) (n : Nat) : Nat :=
  if c.fb F.LG_STAT_OWNER then c.n64 R.WEB_PITCH_LO else c.lpPitch (c.f (F.LG_LP_DIV_P n)) (c.n (R.LG_LP_PITCH n))

/-- FIRE_ALIGN_FWD of an offset in lines (R420). -/
def Core.lpAlign (c : Core) (n lines : Nat) : Nat := (lines * c.lpWebPitch n + 2 ^ 31) / 2 ^ 32

/-- The offset of a personality's ink written to its bar (R420); PB0 ignores writes (spec/03_firing.md R78). -/
def Core.lpAlignBar (c : Core) (n i : Nat) : Core :=
  match c.lpInk n i with
  | some k =>
    if c.fb F.LG_CFG_APPLY_OFS && c.newest.bar0 k != 0 then c.set64 (R.FIRE_ALIGN_FWD_LO (c.newest.bar0 k)) (c.lpAlign n (c.n (R.LG_LP_OFS n i))) else c
  | none => c

/-- The bridge's job opened for personality `n`. Offsets given before take its pitch. -/
def Core.bridgeOpen (c : Core) (n : Nat) (lsp : List Byte) : Core :=
  let p := c.f (F.LG_LP_DIV_P n)
  let pitch := c.n (R.LG_LP_PITCH n)
  let c := c.setLg { c.lg with pitch := (p, pitch) }
  let c := (c.bridgeAsk 0x20 (leBytes 4 0) lsp [n]).bridgeShadow p pitch
  let c := c.eachOf (c.lg.ofsSet.filter fun e => c.lpOn (e / 4)) fun e c => c.lpAlignBar (e / 4) (e % 4)
  c.bridgeCommit 0 0 lsp [n]

/-- The job has ended: JOB_CLOSE. -/
def Core.bridgeJobEnd (c : Core) : Core :=
  if c.fb F.LG_STAT_OWNER && c.st == stReady then c.bridgeAsk 0x21 [] c.lg.endLsp [] else c

/-- With no personality LOADED or RUN, the job is made to end (R417). In READY no line is to print, and it closes at once (log entry
64). `lsp` is the packet that caused it. -/
def Core.bridgeEnd (c : Core) (lsp : List Byte) : Core :=
  let busy := c.lpsOn.any fun n => c.lpSt n == lpLoaded || c.lpSt n == lpRun
  if c.fb F.LG_STAT_OWNER && !busy && !c.lg.ending && (c.running || c.st == stArmed || c.st == stReady) then
    ((c.setLg { c.lg with ending := true, endLsp := lsp }).bridgeCommit 0 0 lsp [] true).bridgeJobEnd
  else c

/-! ### Decision events (R416-R418) -/

/-- A decision event of repeat k as a personality sees it: its band decided, or an underrun where its layer is not ready; the blank
bound to the next repeat where it does not run. A band whose layer is not ready fires no line. -/
def Core.bridgeDecideLp (c : Core) (k n : Nat) : Core :=
  let u := c.pers n
  let band := u.bands.find? fun b => b.bound = some k
  let kind := ((c.layer n).decs.head?.map (·.kind)).getD 2
  let run := c.lpSt n == lpRun
  let ready := kind == 0
  let c := (c.setPers n { u with bands := u.bands.filter (fun b => b.bound ≠ some k)
                                 repeats := if ready then u.repeats else u.repeats.filter (· ≠ k) }).lpQueued n
  let c := if run && !ready then
      let c := c.inc (R.LG_LP_UNDER n)
      if c.fb (F.LG_LP_STAT_UNDER_CONT n) then c else c.lpFault n 1 0
    else c
  let last := match band with
    | some b => b.last
    | none => false
  let c := if c.lpSt n == lpRun && last then c.lpGoto n lpIdle else c
  if c.lpSt n ≠ lpRun ∧ c.n (R.LAY_QNEXT n) ≤ k + 1 then c.bridgeBind n (c.f F.LG_CFG_POOL) (leBytes 8 0) else c

def Core.bridgeDecide (c : Core) (line : Nat) : Core :=
  if c.fb F.LG_STAT_OWNER && line % 64 == 0 then
    (c.eachOf c.lpsOn fun n c => c.bridgeDecideLp (line / 64) n).bridgeEnd c.lg.loadLsp
  else c

/-! ### The start window (R416) -/

/-- The window expires: held bands of those that started, blanks for the others, then ARM and TOF. -/
def Core.bridgeStart (c : Core) : Core :=
  let c := c.eachOf c.lpsOn fun n c =>
    let u := c.pers n
    if u.starting then (c.setPers n { u with starting := false }).bridgeBindAll n u.startLsp
    else c.bridgeBind n (c.f F.LG_CFG_POOL) c.lg.startLsp
  let c := c.setLg { c.lg with window := none }
  (c.bridgeAsk 0x31 (leBytes 16 0) c.lg.startLsp c.lpsOn).bridgeAsk 0x32 [] c.lg.startLsp c.lpsOn

/-! ### Bands (R411-R415) -/

/-- The base address of a pool surface. -/
def Core.lpBase (c : Core) (n q : Nat) : Nat := c.n64 R.LG_BAND_BASE_LO + (n * (c.f F.LG_CFG_POOL + 1) + q) * 6553600

/-- A pool surface zeroed and registered. -/
def Core.lpSurface (c : Core) (n q state : Nat) : Core :=
  let base := c.lpBase n q
  let c := c.byCox.zeroDram base 6553600
  c.setSurf (c.lpId n q) { state := state, fmt := 0, width := 12800, height := 64, stride := 102400, base := base }

/-- A pool surface that no band, panel or HOLD uses. -/
def Core.lpFree (c : Core) (n : Nat) : Option Nat :=
  let u := c.pers n
  (List.range (c.f F.LG_CFG_POOL)).find? fun q =>
    !(u.bands.any fun b => b.q == q) && !((c.layer n).panels.any fun p => p.surf == c.lpId n q) &&
      !((c.holds n).any fun d => d.surf == c.lpId n q)

/-- A band error (R414). -/
def Core.bandError (c : Core) (n kind : Nat) : Core :=
  match (c.pers n).opened with
  | none => c
  | some o =>
    let c := c.post 0x0F03 n (o.num * 65536 + kind)
    let c := c.lpFault n 2 0
    (c.setPers n { c.pers n with opened := none }).bridgeEnd c.lg.loadLsp

/-- A run of a row's columns: the code's tone on the mapped ink's channel. -/
def Core.bandPixels (c : Core) (n : Nat) (o : LOpen) (codes : List Nat) : Core :=
  match c.lpInk n o.ink with
  | none => c
  | some k =>
    let base := c.lpBase n o.q + o.line * 102400 + k
    c.byCox.eachOf codes.zipIdx fun e c =>
      c.put (base + (o.col + e.2) * 8) [if e.1 = 0 then 0 else BitVec.ofNat 8 (bits (c.n R.LG_TONE) (8 * (e.1 - 1)) 8)]

/-- The next row after `o`'s: the next ink of the mask, the next line, or T0. -/
def nextRow (o : LOpen) : LOpen :=
  match (List.range 4).find? fun i => decide (o.ink < i) && bit o.mask i with
  | some i => { o with ink := i, col := 0 }
  | none =>
    if o.line = 63 then { o with part := 4 }
    else { o with line := o.line + 1, ink := ((List.range 4).find? (bit o.mask)).getD 0, col := 0 }

/-- The band is complete: its surface is RESIDENT (R413). -/
def Core.bandDone (c : Core) (n : Nat) (o : LOpen) : Core :=
  let u := c.pers n
  let id := c.lpId n o.q
  let bands := u.bands.map fun (b : LBand) => if b.q = o.q then { b with ready := true } else b
  let c := c.setPers n { u with opened := none, bands := bands }
  let before := c
  let s := c.surf id
  let c := c.setSurf id { s with state := 2 }
  let c := if c.logging then c.logDigest 0 id s.base ((c.rd s.base 6553600).getD []) else c
  (c.squashNotReady before).post 0x0309 31 id

/-- A word of the open band decoded (R411, R414). -/
def Core.bandWord (c : Core) (n : Nat) (w : Nat) : Core :=
  match (c.pers n).opened with
  | none => c
  | some o =>
    let o := { o with sum := (o.sum + w) % 65536 }
    let put := fun (o : LOpen) (c : Core) => c.setPers n { c.pers n with opened := some o }
    let row := fun (codes : List Nat) (c : Core) =>
      if 12800 < o.col + codes.length then c.bandError n 3
      else
        let c := c.bandPixels n o codes
        let o := { o with col := o.col + codes.length }
        put (if o.col = 12800 then nextRow o else o) c
    match o.part with
    | 0 => if w = 0xBA5D then put { o with part := 1 } c else c.bandError n 1
    | 1 => if w = o.num then put { o with part := 2 } c else c.bandError n 2
    | 2 =>
      if 15 < w then c.bandError n 1
      else put { o with mask := w, part := if w = 0 then 4 else 3, ink := ((List.range 4).find? (bit w)).getD 0 } c
    | 3 =>
      if bit w 15 then
        if bit w 14 then c.bandError n 1 else row ((List.range 7).map fun i => bits w (2 * i) 2) c
      else row (List.replicate (w % 8192 + 1) (bits w 13 2)) c
    | 4 => if w = 0xBAE0 then put { o with part := 5 } c else c.bandError n 1
    | _ => if o.sum = 0 then c.bandDone n o else c.bandError n 4

end Sys2Proof.Machine
end

