-- ==== Sys2Proof/Machine/Stroke.lean ====
section
/-!
DEFINITION. A stroke event (spec/01_print_architecture.md R17-R30, spec/02_web_motion.md R51-R53, spec/07_run_ahead_pipeline.md
R190): the grid, top-of-form, the order of what happens at the event, and the end of a job.
-/

namespace Sys2Proof.Machine

/-! ### The grid (R51, R53) -/

/-- S and B_next advance; a pitch or direction that waits takes effect. -/
def Core.strokeGrid (c : Core) (x : Int) : Core :=
  let w := c.web
  let s := w.s + 1
  let b := w.bNext
  let (pitch, rev) := w.pend.getD (w.pitch, w.rev)
  let step : Int := if rev then -(pitch : Int) else pitch
  let turned := rev != w.rev
  let fits := match w.grid with
    | g :: _ => decide (g.step = step) && decide (g.b0 + ((s : Int) - g.s0) * step = b) && !turned
    | [] => false
  let grid := if fits then w.grid else ⟨s, b, step⟩ :: w.grid
  let next := if turned then x + step else b + step
  let grid := if turned then ⟨s + 1, next, step⟩ :: grid else grid
  { c with web := { w with s := s, bNext := next, pitch := pitch, rev := rev, pend := none, grid := grid
                           furthest := if turned then x else w.furthest } }

/-! ### Top-of-form (R18, R78, R190) -/

/-- The columns of a nib lost are restored to a spare that has returned (spec/18_fault_tolerance.md R489; log entry 76). -/
def Core.restoreMap (c : Core) : Core :=
  if c.pipe.degrade then
    match (List.range 18).find? fun n => c.nibState n == 0 with
    | some sp =>
      let q := c.pipe.lostSlice
      let c := c.each 18 fun n c =>
        let sl := c.f (F.NIBN_STAT_SLICE n)
        if c.nibState n = 2 ∧ q ≤ sl then
          (c.setF (F.NIBN_STAT_SLICE n) (sl + 1)).post 0x0409 n ((sl + 1) * 256 + n) else c
      let c := { c with ump := { c.ump with starting := c.ump.starting.map fun (x : Nat × Nat × Nat) => if q ≤ x.2.1 then (x.1, x.2.1 + 1, x.2.2) else x } }
      let c := ((c.setF (F.NIBN_STAT_STATE sp) 2).setF (F.NIBN_STAT_SLICE sp) q).setB F.NIB_STAT_DEGRADED false
      let c := c.post 0x0409 sp (q * 256 + sp)
      { c with pipe := { c.pipe with degrade := false, degFrom := none } }.spareSync.health
    | none => c
  else c

/-- The trigger is taken at this stroke event. -/
def Core.takeTof (c : Core) : Core :=
  let c := c.restoreMap
  let g := c.newest
  let s := c.web.s
  let ct := g.f F.NIB_CFG_CATCH
  let w := g.f F.NIB_CFG_W
  let o := fun b => c.barOffset b c.web.pitch c.web.rev
  let minB := if c.formed then min c.ownMinB (c.crew.minB.getD 0) else c.ownMinB
  let sTof : Int := s + w + 1 - minB
  let pos := c.strokePos sTof
  let c := (c.set64 R.DEV_TOF_LO (wrap 48 sTof)).set64 R.PF_TOF_POS_LO (wrap 64 (pos / p32))
  let c := c.each 16 fun b c =>
    let c := c.setBar b { c.bar b with d := sTof + o b / p32, f := (o b % p32).toNat, pend := [], fresh := true }
    ((c.setI (R.FIRE_OFFSET_INT b) (o b / p32)).setN (R.FIRE_OFFSET_FRAC b) (o b % p32).toNat).pendSync b
  let c := { c with
    job := { c.job with
      tof := true, trig := false, aborting := false, lastTrimLe := none, catchN := ct, w := w
      crewDMin := if c.formed then some (minB + sTof) else none, occs := [] }
    pipe := { c.pipe with
      done := [], done2 := [], bad := [], weak := [], late := [], sent := [], row1 := [], delayOk := [], delay := [], delayed := [], delayWas := [], cov := [], dropped := []
      degFrom := none, unhid := [], seams := [], seamIn := [] }
    pf := { c.pf with rows := [], bad := [], lastLine := [], handed := [], solved := [], trimFrom := [], plc := []
                      zFrom := c.pf.zFrom.filter fun e => (Tab.get (fun _ => none) c.pf.zPend e.1).isSome }
    web := { c.web with forecast := none, ahead := s } }
  let c := c.nibsStop
  let bars := List.range 16
  let c := c.tofWaves.blankSpans true
  let c := c.logRec 0x0F (leBytes 6 s ++ leBytes 6 (wrap 48 sTof) ++ bars.flatMap fun b =>
    leBytes 4 (wrap 32 (o b / p32)) ++ leBytes 4 (o b % p32).toNat)
  c.goto stPrinting

/-- A trigger is due (spec/14_command_reference.md R391): TOF was taken, or with TRIG = 1 the web has reached POS; a job command in
execution comes first (spec/13_host_and_command_protocol.md R372). -/
def Core.tofDue (c : Core) : Bool :=
  c.st == stArmed && !c.jobWaits && (c.job.trig || (c.job.byPos && (if c.web.rev then decide (c.webPos ≤ c.job.pos) else decide (c.job.pos ≤ c.webPos))))

/-! ### Generations at a stroke event (R29, R228, R303) -/

/-- The generations, each with whether no line to be fired needs it, oldest last. -/
def agedGens (s dMax : Int) : List Gen → Option Nat → List (Gen × Bool)
  | [], _ => []
  | g :: gs, none => (g, false) :: agedGens s dMax gs (some g.le)
  | g :: gs, some x => (g, decide ((x : Int) + dMax ≤ s)) :: agedGens s dMax gs (some (min x g.le))

def Core.retireOld (c : Core) : Core :=
  let l := agedGens c.web.s c.dMax c.job.gens none
  let old := (l.filter (·.2)).map (·.1)
  if old = [] then c else c.retireTo ((l.filter fun x => !x.2).map (·.1)) old.reverse

/-- What the loops form for a boundary (R228, R229), with the reasons for what waits. -/
def Core.loopChanges (c : Core) (le : Nat) : Core × Option LoopOut × List Nat :=
  if c.pf.suspended then (c, none, [7])
  else if 8 ≤ c.job.gens.length then (c, none, if c.pfPending then [1] else [])
  else c.buildLoop le

/-- The first reason for what waits posted, which is posted once a boundary (R229). -/
def Core.loopWaits (c : Core) (le : Nat) (reasons : List Nat) : Core :=
  match reasons with
  | r :: _ => (c.setCrew { c.crew with waited := some le }).post 0x0502 31 r
  | [] => c

/-- The changes frozen for a boundary, and delivered to the other members: L_e, the SHIFT of the edge zones, and the changed fields
(spec/08_density_and_placement_loops.md R235). -/
def Core.loopFreeze (c : Core) (le : Nat) (g : Gen) (o : Option LoopOut) : Core :=
  let h := match o with
    | some o => o.gen
    | none => g
  let data := match o with
    | some o => changedBytes g o.gen o.words
    | none => []
  let edges : List Int := [le, h.shift (h.zoneOf h.firstCol), h.shift (h.zoneOf ((h.lastCol - 1 : Nat) : Int))]
  (c.setCrew { c.crew with frozen := some (le, g, o) }).eachOf c.peers fun p c => c.bulkSend p (edges ++ data.map fun b => (b.toNat : Int))

/-- A loop generation formed for a boundary (R228, R229). In a crew the changes are frozen and delivered, and the lead asks for the
token, at every boundary at which it can (R235). -/
def Core.loopForm (c : Core) (le : Nat) : Core :=
  let g := c.newest
  let full := decide (8 ≤ c.job.gens.length)
  let (c, o, reasons) := c.loopChanges le
  let c := c.loopWaits le reasons
  if c.formed then
    let c := c.loopFreeze le g o
    if c.isLead && !full then c.askToken (.loops le) none else c
  else match o with
    | some o => c.loopAccepted o
    | none => c

/-- The loops run on the device: it prints, no replay decides for them, and they are enabled (R211). -/
def Core.loopsRun (c : Core) : Bool := c.fb F.PF_CFG_EN && !c.replay && c.st == stPrinting

/-- A loop boundary's formation event (R228). In a crew it is the lead's: the members freeze their changes as its message comes
(R235). -/
def Core.loopStroke (c : Core) : Core :=
  let g := c.newest
  let l : Int := (c.web.s : Int) - c.dMin + c.job.catchN + c.n R.NZ_LEAD + c.f F.PF_PREP_PREP
  let le := l.toNat
  let every := c.n R.PF_INTERVAL
  let here := if c.fb F.PF_CFG_POLICY then decide (every ≠ 0) && le % every == 0
    else decide (g.rpt ≠ 0) && g.lk (g.rptOf le) == le
  if c.loopsRun && (!c.formed || c.isLead) && decide (0 ≤ l) && here && decide (g.le ≤ le) && decide (le ≤ g.jobLast) then
    c.loopForm le
  else c

/-! ### Seams (spec/17_time_and_crew.md R467, R468) -/

/-- The record of one side's edge column for a stroke: FIRES and the shares. -/
def Core.seamRecord (c : Core) (s : Nat) (right : Bool) : Nat × List Nat :=
  (List.range 8).foldl (fun (fires, vals) k =>
    match c.lineDue s k with
    | none => (fires, vals ++ [0])
    | some l =>
      let x := c.inkCtx k l
      let col := if right then x.g.lastCol - 1 else x.g.firstCol
      let p := c.plan x col
      (if p.fires.isSome then fires + 2 ^ k else fires, vals ++ [(c.shareOf x col).getD 0])) (0, [])

/-- The seam messages for a stroke, to each seam neighbour. -/
def Core.seamSend (c : Core) (s : Nat) : Core :=
  let g := c.newest
  let side := fun (right : Bool) (on port : Fld) (c : Core) =>
    if g.fb on then
      let (fires, vals) := c.seamRecord s right
      c.crewEmit (g.f port) 0xF7 ([((s - c.sTof : Nat) : Int), (fires : Int)] ++ vals.map Int.ofNat)
    else c
  if c.formed then side true F.CREW_CFG_RIGHT_EN F.CREW_CFG_RIGHT (side false F.CREW_CFG_LEFT_EN F.CREW_CFG_LEFT c) else c

/-- The record of a stroke whose slice-lines do not all complete, and of one that enters the window with no line due. -/
def Core.seamSkipped (c : Core) : Core :=
  let next := c.web.s + 1
  let enters := c.web.s + c.job.w
  let c := if !c.job.aborting && (c.inksDue next) != [] && (c.parts next).any fun p => !c.partDone next p.id then c.seamSend next else c
  if decide (c.sTof ≤ enters) && c.inksDue enters == [] then c.seamSend enters else c

/-- A stroke becomes final without its neighbour's record: values 0, with 0x0C09 and a SUBST record. -/
def Core.seamLate (c : Core) (s : Nat) : Core :=
  let g := c.newest
  let sigma := s - c.sTof
  let side := fun (right : Bool) (on : Fld) (c : Core) =>
    if g.fb on && !Tab.get (fun _ => false) c.pipe.seamIn (2 * sigma + b2n right) then
      let c := (c.inc R.CREW_SEAM_LATE_CNT).post 0x0C09 31 sigma
      c.logRec 0x11 (leBytes 1 0xFF ++ leBytes 1 1 ++ leBytes 6 sigma)
    else c
  if c.formed && decide (c.sTof ≤ s) && decide (c.inksDue s ≠ []) then
    side true F.CREW_CFG_RIGHT_EN (side false F.CREW_CFG_LEFT_EN c)
  else c

/-- Records of strokes that have left the window are forgotten. -/
def Core.seamPrune (c : Core) : Core :=
  let old := fun (k : Nat) => decide (k / 2 + c.sTof + 4 < c.web.s)
  { c with pipe := { c.pipe with seams := c.pipe.seams.filter (fun e => !old e.1)
                                 seamIn := c.pipe.seamIn.filter fun e => !old e.1 } }

/-- INK_LINE_COMPLETE; when the last part of a stroke is complete its seam records go out. -/
def execInkLineComplete (n : Fin 18) (ls : LsErr) (sig : AuditSig) (s : State) : Host.Outcome State Fault Refusal :=
  let c := s.core
  let r :=
    if c.nibState n = 2 then
      let st := (c.nib n).cur.map (·.1)
      let c := c.inkComplete n ls sig
      match st with
      | some t => if c.formed && (c.parts t).all (fun p => c.partDone t p.id) then c.seamSend t else c
      | none => c
    else c
  .next { s with core := r }

/-! ### Counters of the event -/

/-- NIBn_STAT.BUSY: the share of the last 1,024 strokes that a nib's datapath worked. -/
def Core.busySync (c : Core) : Core :=
  let times := (c.now :: c.pipe.times).take 1025
  let c := { c with pipe := { c.pipe with times := times } }
  let span := (c.now - times.getLastD c.now) * 1250
  c.each 18 fun n c =>
    let w := (((c.nib n).work.filter fun e => decide (c.web.s < e.1 + 1024)).map (·.2)).sum
    c.setF (F.NIBN_STAT_BUSY n) (if span = 0 then 0 else min 100 (w * 100 / span))

/-- The signature block closes every 2^SIG_K strokes (R501), in a replay with the recorded block. -/
def Core.sigStroke (c : Core) : Core :=
  if c.replay then c
  else if c.log.sigS0 + 2 ^ c.f F.LOG_CFG_SIG_K ≤ c.web.s + 1 then
    (c.logRec 0x18 (leBytes 6 c.log.sigS0 ++ c.sigFolds)).sigBegin
  else c

/-! ### The end of a job (R128, R369, R370) -/

/-- The bar with the largest D_b has passed JOB_LAST: the job ends, after a job command in execution (R372). -/
def Core.jobEnd (c : Core) : Core :=
  let l := (c.web.s : Int) - c.dMax
  if c.printing && decide (0 ≤ l) && decide ((c.genAt l.toNat).jobLast < l.toNat) && !c.job.aborting && !c.jobWaits then
    (c.post 0x0307 31 0).recWriteAll.toReady
  else c

/-- An abort is complete at the stroke event after that of the last line in transmission, every line being fired. -/
def Core.abortEnd (c : Core) : Core :=
  if c.printing && c.job.aborting && decide (c.job.abortLast < c.web.s) && (List.range 16).all fun b => (c.bar b).pend.isEmpty then
    c.abortDone
  else c

/-! ### The event -/

/-- The part of a stroke event that a running job has: catch and decisions, blanks, versions, generations, deadline and
transmission, the window. -/
def Core.strokeJob (c : Core) : Core :=
  let s := c.web.s
  let c := if c.st = stHold then c.goto stPrinting else c
  let c := if c.st = stPrinting then c.setPf { c.pf with travel := c.pf.travel + c.web.pitch } else c
  let c := if s = c.sTof then c.set64 R.PF_TOF_POS_LO (wrap 64 (c.strokePos s / p32)) else c
  let c := c.seamLate (s + c.job.catchN)
  let l := (s : Int) - c.dMin + c.job.catchN
  let c := if 0 ≤ l then
      let c := if c.boundary l.toNat then (c.decideLayers l.toNat).bridgeDecide l.toNat else c
      c.occStart l.toNat
    else c
  let c := c.occsStroke
  let c := c.versionClears.altSync
  let c := c.each 8 fun k c => c.tempUpdate k true
  let c := c.deratesDue.loopStroke
  let c := c.seamSkipped.misses.transmit.forecast
  let c := c.readDelays.auditStroke.fwHandover.nibFillAll.inflightSync
  ((c.releasePanels.pruneDecs.retireOld).seamPrune)

/-- A stroke event at web position `x`: lines whose edges this position reaches fire before it (R84). -/
def Core.strokeEvent (c : Core) (x : Int) : Core :=
  let c := ((c.fireUpdate.strokeGrid x).perf 75).lanesReady
  let c := if c.printing then c.clearSlot (c.web.s + c.job.w) else c
  let c := c.blankClears
  let c := c.limitCheckAll (c.web.s + 1)
  let c := if c.printing then c.strokeJob else if c.tofDue then c.takeTof else c
  let ran := c.printing
  let c := c.slowCheck.jobEnd.abortEnd
  let c := if ran && !c.printing then c.bridgeJobEnd else c
  c.pendLines.busySync.sigStroke

/-- The stroke events that a position reaches or passes (R51, R63), with fuel. -/
def Core.strokesTo : Nat → Core → Int → Core
  | 0, c, _ => c
  | f + 1, c, x =>
    let reached := if c.web.rev then decide (x ≤ c.web.bNext) else decide (c.web.bNext ≤ x)
    if c.web.pitch ≠ 0 ∧ reached then Core.strokesTo f (c.strokeEvent x) x else c

/-- How many strokes a position can pass. -/
def Core.strokeFuel (c : Core) (x : Int) : Nat :=
  let p := match c.web.pend with
    | some (q, _) => if q = 0 then c.web.pitch else min c.web.pitch q
    | none => c.web.pitch
  if p = 0 then 0 else (x - c.web.bNext).natAbs / p + 2

end Sys2Proof.Machine
end

