-- ==== Sys2Proof/Machine/Web.lean ====
section
/-!
DEFINITION. The encoder ports and the web position (spec/02_web_motion.md R37-R66), and the commands of the position-compare
channels (R67-R75).
-/

namespace Sys2Proof.Machine

/-- The web comes from this device's encoders: on a member of a crew it does not (spec/17_time_and_crew.md R462). -/
def Core.ownWeb (c : Core) : Bool := !(c.formed && !c.isLead)

/-- Port n's counts are the web's (R50). -/
def Core.isSource (c : Core) (n : Nat) : Bool := c.ownWeb && !c.fb F.WEB_SRC_LOST && c.f F.WEB_SRC_ACTIVE == n

/-! ### Position updates of the web (R51, R52, R58, R69, R81) -/

/-- The excursion against PRINT_DIR from the furthest position (R52), in whole nm, of which 0x010F has the low 32 bits (R77; log entry
61). -/
def Core.backupCheck (c : Core) : Core :=
  let x := c.webPosRaw
  let back := if c.web.rev then x - c.web.furthest else c.web.furthest - x
  if back ≤ 0 then { c with web := { c.web with furthest := x, backupPosted := false } }
  else if (c.n R.WEB_BACKUP_LIMIT : Int) * p32 < back ∧ ¬ c.web.backupPosted then
    { c with web := { c.web with backupPosted := true } }.post 0x010F 31 (back / p32).toNat
  else c

/-- Overspeed, once an excursion (R58). -/
def Core.overCheck (c : Core) : Core :=
  let exceeded := decide (c.i R.WEB_SPEED_MAX < (c.i R.WEB_SPEED).natAbs)
  let was := c.web.overPosted
  let c := { c with web := { c.web with overPosted := exceeded } }
  if exceeded && !was then c.post 0x010D 31 (c.n R.WEB_SPEED) else c

/-- The lead's update sent as POS to every member (spec/17_time_and_crew.md R461); `again` repeats the last. -/
def Core.posSend (c : Core) (again : Bool) : Core :=
  let act := c.f F.WEB_SRC_ACTIVE
  let lost := c.fb F.WEB_SRC_LOST
  let seq := if again then c.crew.seq else (c.crew.seq + 1) % 2 ^ 16
  let t := if again then (match c.crew.sent with
    | some m => m.t
    | none => c.t32) else c.t32
  let still := c.fb (F.ENC_STATUS_STANDSTILL act)
  let m : PosMsg := { t := t, pos := c.webPosRaw, speed := c.i R.WEB_SPEED, still := still, neg := c.webNeg, lost := lost }
  let c := c.setCrew { c.crew with seq := seq, sent := some m, sentAt := c.now }
  c.eachOf c.peers fun p c => c.crewEmit p 0xF2 [t, m.pos, m.speed, b2n lost * 4 + b2n still * 2 + b2n m.neg, seq]

/-- Everything that a position update of the web brings, from position `p0`: stroke events (on a crew's lead CREW_LAT
later, R462, while lines await their edges from the update on, so that placement does not depend on CREW_LAT), compare channels, the checks of R52 and R58, and the fire instants, which count from `t`, the edge that gave the
position. -/
def Core.webMoved (c : Core) (p0 : Int) (t : Nat) : Core :=
  let c := { c with web := { c.web with upd := t } }
  let x := c.webPosRaw
  let c :=
    if c.formed && c.isLead then
      let m : PosMsg := { t := c.now, pos := x, speed := c.i R.WEB_SPEED, still := false, neg := c.webNeg, lost := false }
      Core.pendAhead (c.strokeFuel x) ((c.setCrew { c.crew with queue := c.crew.queue ++ [m] }).posSend false) x
    else Core.strokesTo (c.strokeFuel x) c x
  ((c.cmpUpdateAll 0 p0 x).backupCheck.overCheck).fireUpdate

/-- The logbook's record of the web source (spec/19_observation_and_test.md R498). -/
def Core.logWebSrc (c : Core) : Core :=
  let n := c.f F.WEB_SRC_ACTIVE
  c.logRec 3 (leBytes 1 n ++ leBytes 8 (c.enc n).scale ++ leBytes 12 (wrap 96 c.web.offset))

/-- One entry of the logbook's WEB record (spec/19_observation_and_test.md R499). -/
def Core.logWeb (c : Core) (step : Int) : Core :=
  if c.logging && decide (step ≠ 0) then
    let code := (if step < 0 then 1 else 0) + (if step.natAbs = 2 then 2 else 0)
    let first := decide (c.log.web = [])
    let dt := if first then 0 else (c.now - c.log.webLast) / 2
    let e := if dt < 0x3FFF then [code * 2 ^ 14 + dt] else [code * 2 ^ 14 + 0x3FFF, dt % 2 ^ 16, dt / 2 ^ 16 % 2 ^ 16]
    let c := { c with log := { c.log with
      web := c.log.web ++ e, webLast := c.now, webT32 := if first then c.edgeT32 else c.log.webT32
      webS := if first then c.web.s else c.log.webS, webAt := if first then c.now else c.log.webAt } }
    if 30000 ≤ c.log.web.length then c.logWebFlush else c
  else c

/-! ### Faults, fail-over and loss (R43, R44, R60-R65) -/

/-- The web is lost (R64): the record's L is the first line not fired, while a job prints (spec/00_scope.md R8); on a member of a crew with the member's last position (spec/17_time_and_crew.md R463). -/
def Core.webLost (c : Core) : Core :=
  if c.fb F.WEB_SRC_LOST then c
  else
    let c := { c with web := { c.web with lostPos := c.webPosRaw } }.setB F.WEB_SRC_LOST true
    let c := { c with ump := { c.ump with faultN := true } }
    let c := if c.formed && c.isLead then c.posSend false else c
    (c.defect 0x010E 31 (c.firstUnfired.getD noLine) c.webPos 0xFFFFFFFF).enterSafe 1

/-- ENC1 may track: ENC1_TRACK_EN and its port are enabled (R60). -/
def Core.mayTrack (c : Core) : Bool := c.fb F.WEB_CTRL_ENC1_TRACK_EN && c.fb (F.ENC_CFG_EN 1)

/-- ENC1 tracks: it may, and an ENC0 count has anchored its offset since it was armed. Between the arming and that count
it does not, and a fault of ENC0 loses the web (log entry 45). -/
def Core.tracks (c : Core) : Bool := c.web.tracking && c.mayTrack

/-- The end of standstill of the web source: the next line of every bar passes the rate check (R96), and no forecast
is judged at the next stroke event (spec/07_run_ahead_pipeline.md R194). -/
def Core.moves (c : Core) : Core :=
  let c := c.each 16 fun b c => c.setBar b { c.bar b with fresh := true }
  { c with web := { c.web with forecast := none } }

/-- What a change of the active source brings, `still` the former one's STANDSTILL: standstill that ends with it (R56), and HEALTH
(spec/18_fault_tolerance.md R485). -/
def Core.newSource (c : Core) (still : Bool) : Core :=
  (if still && !c.fb (F.ENC_STATUS_STANDSTILL (c.f F.WEB_SRC_ACTIVE)) then c.moves else c).health

/-- Fail-over to ENC1 (R62). Tracking that resumes after a switch-back is a new arming (R60; log entry 61). -/
def Core.failOver (c : Core) (cause : Nat) : Core :=
  let p0 := c.webPosRaw
  let c := { c with web := { c.web with offset := c.web.trackOfs, tracking := false } }
  let still := c.fb (F.ENC_STATUS_STANDSTILL 0)
  let c := ((c.setF F.WEB_SRC_ACTIVE 1).setB F.WEB_SRC_FAILED_OVER true).setF F.WEB_SRC_CAUSE cause
  let c := (((c.post 0x0109 0 cause).decision 10 4 0).logWebSrc).newSource still
  ((c.setR R.WEB_SPEED (c.r (R.ENC_SPEED 1))).cmpErrSyncAll).webMoved p0 ((c.enc 1).lastCount.getD c.now)

/-- Port ENC0 or ENC1 faults, with a CAUSE of WEB_SRC, which a fault that loses the web overwrites (R64; log entry 61). -/
def Core.encFault (c : Core) (n cause : Nat) : Core :=
  if 2 ≤ n ∨ c.fb (F.ENC_STATUS_FAULTED n) then c
  else
    let c := c.setB (F.ENC_STATUS_FAULTED n) true
    if c.isSource n then
      if n = 0 ∧ c.tracks = true ∧ ¬ c.fb (F.ENC_STATUS_FAULTED 1) then c.failOver cause
      else (c.setF F.WEB_SRC_CAUSE cause).webLost
    else if n = 1 ∧ c.ownWeb = true ∧ c.f F.WEB_SRC_ACTIVE = 0 then
      ({ c with web := { c.web with tracking := false } }.post 0x0109 1 (2 ^ 31 + cause)).health
    else c

/-- A suspect edge on ENC0 or ENC1 (R43). -/
def Core.suspectEdge (c : Core) (n : Nat) : Core :=
  if 2 ≤ n then c
  else
    let u := c.enc n
    let l := c.now :: u.suspects.filter fun t => decide (c.now < t + msec)
    let lim := c.f F.WEB_ILL_FAULT_N
    let hit := decide (lim ≠ 0) && decide (lim ≤ l.length)
    let c := c.setEnc n { u with suspects := l, lastSuspectFault := if hit then some c.now else u.lastSuspectFault }
    if hit then c.encFault n 3 else c

/-- The tracking offset is anchored anew at an ENC0 count (R60, R61). 0x010B has SOURCE 31 (R77; log entry 61). -/
def Core.track (c : Core) : Core :=
  let ok := c.mayTrack && !c.fb (F.ENC_STATUS_FAULTED 0) && !c.fb (F.ENC_STATUS_FAULTED 1) && c.isSource 0
  if ok then
    let w := c.web
    let o := c.webPosRaw - (c.enc 1).pos
    let base := if w.tracking then w.trackRef else o
    let dev := (o - base) / p32
    let exceeded := decide ((c.n R.WEB_TRACK_TOL : Int) < dev.natAbs)
    let c := { c with web := { w with tracking := true, trackOfs := o, trackRef := base, disagreePosted := exceeded } }
    let c := c.setI R.WEB_TRACK_DEV dev
    let c := if w.tracking then c else c.health
    if exceeded && !w.disagreePosted then c.post 0x010B 31 (c.n R.WEB_TRACK_DEV) else c
  else c

/-- The switch back to ENC0 that R66 leaves to ENC0's next count: the latched faults of both ports clear (R38), the web
has ENC0's speed, and a web lost after the fail-over has its source again. 0x010A has SOURCE 0, and the change rounded towards minus
infinity (R77; log entry 61). -/
def Core.switchBackNow (c : Core) : Core :=
  let old := c.web.offset
  let o := c.webPosRaw - (c.enc 0).pos
  let still := c.fb (F.ENC_STATUS_STANDSTILL (c.f F.WEB_SRC_ACTIVE))
  let c := { c with web := { c.web with offset := o, switchBack := false } }
  let c := (c.setF F.WEB_SRC_ACTIVE 0).setB F.WEB_SRC_FAILED_OVER false
  let c := ((c.setB F.WEB_SRC_LOST false).setB (F.ENC_STATUS_FAULTED 0) false).setB (F.ENC_STATUS_FAULTED 1) false
  let c := (c.setR R.WEB_SPEED (c.r (R.ENC_SPEED 0))).cmpErrSyncAll
  let d := max (-(2 ^ 31)) (min (2 ^ 31 - 1) ((o - old) / p32))
  ((c.post 0x010A 0 (wrap 32 d)).logWebSrc).newSource still

/-! ### Counts (R39-R42, R47, R49, R54) -/

/-- Speed in s16.16 m/s from a distance in 2^-32 nm and a time in 1.25 ns units, to the nearest. -/
def speedOf (dist dt : Nat) : Nat := (8 * dist + 5 * 65536 * dt) / (10 * 65536 * dt)

/-- ENCn_SPEED, and WEB_SPEED where the port is the web's source. -/
def Core.setSpeed (c : Core) (n : Nat) (v : Int) : Core :=
  let c := c.setI (R.ENC_SPEED n) v
  if c.isSource n then c.setI R.WEB_SPEED v else c

/-- The distance in counts that a legal count moves the position, by the pending correction (R47). -/
def corrStep (u : EncPort) : Nat × Int × Nat :=
  if u.corr = 0 then (1, 0, 0)
  else if u.corrPhase + 1 < 64 then (1, u.corr, u.corrPhase + 1)
  else if 0 < u.corr then (0, u.corr - 1, 0)
  else (2, u.corr + 1, 0)

/-- A legal count on a port, `neg` its sign. An overrate count counts first, and is then a suspect edge (R42, R43). The
speed is averaged over 2^SPEED_EDGES counts, for 7 as for 0 to 6 (log entry 45). -/
def Core.legalCount (c : Core) (n : Nat) (neg : Bool) : Core :=
  let c := c.perf (230 + n)
  let u := c.enc n
  let dt := u.lastCount.map fun t => c.now - t
  let fast := match dt with
    | some d => decide (d < 16)
    | none => false
  let still := c.fb (F.ENC_STATUS_STANDSTILL n)
  let turned := c.fb (F.ENC_STATUS_DIR n) != neg
  let sgn : Int := if neg then -1 else 1
  let (k, corr, phase) := corrStep u
  let stamps := (c.now :: (if turned then [] else u.stamps)).take (2 ^ c.f (F.ENC_CFG_SPEED_EDGES n) + 1)
  let back := n == 0 && c.web.switchBack
  let p0 := if n < 2 then c.webPosRaw else u.pos
  let u := { u with
    count := u.count + sgn, pos := u.pos + sgn * k * u.scale, corr := corr, corrPhase := phase
    sinceIdx := u.sinceIdx + sgn, idxTurn := u.idxTurn || turned, monotone := (if turned then 0 else u.monotone) + 1
    stamps := stamps, lastCount := some c.now, lastNeg := neg }
  let c := (c.setEnc n u).setN (R.ENC_LAST_EDGE n) c.edgeT32
  let c := c.setB (F.ENC_STATUS_DIR n) neg
  let c := if still then
      let c := (c.setB (F.ENC_STATUS_STANDSTILL n) false).post 0x0108 n (b2n neg)
      if c.isSource n then c.moves else c
    else c
  let c := if fast then
      (c.setB (F.ENC_STATUS_OVERRATE n) true).postLim msec 0x0106 n ((dt.getD 0) / 2)
    else c
  let span := stamps.headD 0 - stamps.getLastD 0
  let m := stamps.length - 1
  let v : Int := if span = 0 then 0 else sgn * speedOf (m * u.scale) span
  let c := c.setSpeed n v
  if 2 ≤ n then c.cmpUpdateAll (n - 1) p0 u.pos
  else
    let c := if back then c.switchBackNow else c
    let c := if c.isSource n then ((c.logWeb (sgn * k)).webMoved p0 c.now) else c
    let c := if fast then c.suspectEdge n else c
    if n = 0 then c.track else c

/-- An illegal transition (R41). -/
def Core.illegalCount (c : Core) (n : Nat) : Core :=
  let c := (c.inc (R.ENC_ILLEGAL_CNT n)).setB (F.ENC_STATUS_ILLEGAL n) true
  (c.postLim msec 0x0103 n (c.n (R.ENC_ILLEGAL_CNT n))).suspectEdge n

/-- The quadrature state as a number of quarter periods: 00, 10, 11, 01 in the order of a positive count (R39). -/
def quad (a b : Bool) : Nat :=
  match a, b with
  | false, false => 0
  | true, false => 1
  | true, true => 2
  | false, true => 3

/-- The encoder inputs count: the port is enabled, no replay runs, and no test generator stands in for them
(spec/19_observation_and_test.md R506, R515). A port that is not enabled asserts neither STANDSTILL nor LOS nor AMP_FAULT
(log entry 45). -/
def Core.encOn (c : Core) (n : Nat) : Bool :=
  c.fb (F.ENC_CFG_EN n) && !c.replay && !(c.f F.TST_CTRL_IF == 3 && c.f F.TST_CTRL_INDEX == n)

/-- ENC_COUNT (R39-R43). -/
def execEncCount (n : Fin 4) (a b : Bool) (s : State) : Host.Outcome State Fault Refusal :=
  let c := s.core
  let u := c.enc n
  let step := (quad a b + 4 - quad u.a u.b) % 4
  let c := c.setEnc n { u with a := a, b := b }
  let c := if !c.encOn n then c
    else if step = 0 then c
    else if step = 2 then c.illegalCount n
    else c.legalCount n ((step == 3) != c.fb (F.ENC_CFG_INVERT n))
  .next { s with core := c }

/-! ### The index (R45-R48) -/

/-- A qualified index. -/
def Core.index (c : Core) (n : Nat) : Core :=
  let u := c.enc n
  let exp := c.n (R.ENC_INDEX_EXP n)
  let tol : Int := c.f (F.ENC_INDEX_TOL_TOL n)
  let c := (c.setB (F.ENC_STATUS_INDEX_SEEN n) true).setEnc n
    { u with sinceIdx := 0, idxValid := true, idxTurn := false, monotone := 0, missed := false }
  if !u.idxValid || u.idxTurn || exp == 0 then c
  else
    let err : Int := (u.sinceIdx.natAbs : Int) - exp
    let c := c.setI (R.ENC_INDEX_ERR n) err
    let bad := fun (c : Core) =>
      let c := (c.setB (F.ENC_STATUS_INDEX_ERR n) true).post 0x0104 n (wrap 32 err)
      if c.fb (F.ENC_CFG_IDX_FAULT n) then c.encFault n 4 else c
    if tol < err.natAbs then bad c
    else if c.fb (F.ENC_CFG_IDX_CORR_EN n) then
      let corr := u.corr + err
      if tol < corr.natAbs then bad (c.setEnc n { c.enc n with corr := 0, corrPhase := 0 })
      else c.setEnc n { c.enc n with corr := corr }
    else c

/-- ENC_INDEX: a Z pulse, qualified in the state of Z_GATE (R45). -/
def execEncIndex (n : Fin 4) (s : State) : Host.Outcome State Fault Refusal :=
  let c := s.core
  let u := c.enc n
  let gate := b2n u.a * 2 + b2n u.b == c.f (F.ENC_CFG_Z_GATE n)
  .next { s with core := if c.encOn n && c.fb (F.ENC_CFG_Z_EN n) && gate then c.index n else c }

/-- ENC_INDEX_MISSING: no qualified index within 1.5 x INDEX_EXP counts of monotonic motion (R48). DATA is the magnitude of the net
count since the last index, from reset where none has come (R77; log entry 61). -/
def execEncIndexMissing (n : Fin 4) (s : State) : Host.Outcome State Fault Refusal :=
  let c := s.core
  let u := c.enc n
  let exp := c.n (R.ENC_INDEX_EXP n)
  let due := c.encOn n && c.fb (F.ENC_CFG_Z_EN n) && exp != 0 && !u.missed && decide (3 * exp ≤ 2 * u.monotone)
  .next { s with core := if due then
    ((c.setEnc n { u with missed := true }).setB (F.ENC_STATUS_INDEX_MISSING n) true).post 0x0105 n u.sinceIdx.natAbs else c }

/-! ### Signal faults (R38, R44) -/

/-- ENC_LOS: A or B below 100 mV for 200 ns; `onB` names the input. -/
def execEncLos (n : Fin 4) (onB : Bool) (s : State) : Host.Outcome State Fault Refusal :=
  let c := s.core
  .next { s with core := if c.encOn n && !c.fb (F.ENC_STATUS_LOS n) then
    ((c.setB (F.ENC_STATUS_LOS n) true).post 0x0101 n (b2n onB)).encFault n 1 else c }

/-- ENC_LOS_CLEAR: both differentials above 100 mV for 1 µs. -/
def execEncLosClear (n : Fin 4) (s : State) : Host.Outcome State Fault Refusal :=
  let c := s.core
  .next { s with core := if c.fb (F.ENC_STATUS_LOS n) then
    (c.setB (F.ENC_STATUS_LOS n) false).setEnc n { c.enc n with cleanSince := c.now } else c }

/-- ENC_AMP_FAULT: two consecutive samples outside the window, in sin/cos mode (R38). -/
def execEncAmpFault (n : Fin 4) (radius : BitVec 16) (s : State) : Host.Outcome State Fault Refusal :=
  let c := s.core
  let out := decide (radius.toNat < c.f (F.ENC_AMP_AMP_LO n)) || decide (c.f (F.ENC_AMP_AMP_HI n) < radius.toNat)
  .next { s with core := if c.encOn n && c.f (F.ENC_CFG_MODE n) == 1 && out && !c.fb (F.ENC_STATUS_AMP_FAULT n) then
    ((c.setB (F.ENC_STATUS_AMP_FAULT n) true).post 0x0102 n radius.toNat).encFault n 2 else c }

/-- ENC_AMP_CLEAR: two consecutive samples inside the window. -/
def execEncAmpClear (n : Fin 4) (s : State) : Host.Outcome State Fault Refusal :=
  let c := s.core
  .next { s with core := if c.fb (F.ENC_STATUS_AMP_FAULT n) then
    (c.setB (F.ENC_STATUS_AMP_FAULT n) false).setEnc n { c.enc n with cleanSince := c.now } else c }

/-! ### Speed between counts and standstill (R55-R57) -/

/-- The source's speed has fallen between counts: an excursion above WEB_SPEED_MAX may have ended (R58), and without speed
no edge is predicted (R83). -/
def Core.speedFell (c : Core) (n : Nat) : Core :=
  if c.isSource n then (if c.r R.WEB_SPEED = 0 then c.overCheck.unpredict else c.overCheck) else c

/-- ENC_SPEED_DECAY: the time since the last count exceeds the period of the speed (R55). The reduced speed is rounded
towards zero (log entry 45). -/
def execEncSpeedDecay (n : Fin 4) (s : State) : Host.Outcome State Fault Refusal :=
  let c := s.core
  let u := c.enc n
  let v := c.i (R.ENC_SPEED n)
  let r := match u.lastCount with
    | some t =>
      let w := if c.now ≤ t then v.natAbs else u.scale * 4 / (5 * 65536 * (c.now - t))
      if v ≠ 0 ∧ w < v.natAbs then (c.setSpeed n (if v < 0 then -(w : Int) else w)).speedFell n else c
    | none => c
  .next { s with core := r }

/-- ENC_STANDSTILL: no legal count for ENCn_STANDSTILL, clamped to 10-10,000,000 µs at its use (R56): the register reads
back as written (log entry 45). -/
def execEncStandstill (n : Fin 4) (s : State) : Host.Outcome State Fault Refusal :=
  let c := s.core
  let u := c.enc n
  let limit := max 10 (min 10000000 (c.f (F.ENC_STANDSTILL_TIMEOUT n))) * usec
  let due := match u.lastCount with
    | some t => decide (t + limit ≤ c.now)
    | none => decide (limit ≤ c.now)
  let r :=
    if due && (c.encOn n || (c.replay && c.isSource n)) && !c.fb (F.ENC_STATUS_STANDSTILL n) then
      let c := (c.setEnc n { u with stamps := [], lastNeg := false }).setB (F.ENC_STATUS_STANDSTILL n) true
      let c := ((c.setSpeed n 0).speedFell n).post 0x0107 n 0
      if c.isSource n then c.webStill else c
    else c
  .next { s with core := r }

/-! ### The compare channels' commands (R67-R75) -/

/-- A write of CMPm_TARGET_HI (R68). -/
def Core.cmpTarget (c : Core) (m : Nat) (w : Win) (hi : Word) : Core :=
  let lo := c.lowOf w (R.CMP_TARGET_LO m)
  let c := ((c.stageUsed w (R.CMP_TARGET_LO m)).setR (R.CMP_TARGET_LO m) lo).setR (R.CMP_TARGET_HI m) hi
  c.cmpArm m (sext 64 (lo.toNat + hi.toNat * 2 ^ 32))

/-- CMP_TARGET_WRITE. -/
def execCmpTargetWrite (m : Fin 16) (w : Win) (hi : Word) (s : State) : Host.Outcome State Fault Refusal :=
  .next { s with core := s.core.hostReg w (R.CMP_TARGET_HI m) hi fun c => c.cmpTarget m w hi }

/-- CMP_CFG_WRITE. -/
def execCmpCfgWrite (m : Fin 16) (v : Word) (s : State) : Host.Outcome State Fault Refusal :=
  .next { s with core := s.core.hostReg .host0 (R.CMP_CFG m) v fun c => c.cmpCfg m v }

/-- CMP_INTERP_FIRE: the predicted crossing has come (R70). -/
def execCmpInterpFire (m : Fin 16) (s : State) : Host.Outcome State Fault Refusal :=
  let c := s.core
  .next { s with core := match (c.cmp m).predicted with
    | some t => if t ≤ c.now then c.cmpFire m else c
    | none => c }

/-- CMP_PULSE_END: CMPm_WIDTH after its start (R70). -/
def execCmpPulseEnd (m : Fin 16) (s : State) : Host.Outcome State Fault Refusal :=
  let c := s.core
  let ended := c.fb (F.CMP_STATUS_ACTIVE m) && decide ((c.cmp m).pulseEnd ≤ c.now)
  .next { s with core := if ended then c.setB (F.CMP_STATUS_ACTIVE m) false else c }

end Sys2Proof.Machine
end

