-- ==== Sys2Proof/Machine/Clock.lean ====
section
/-!
DEFINITION. The local clock, its servo and PTP (spec/17_time_and_crew.md R448-R456).
-/

namespace Sys2Proof.Machine

def tFree : Nat := 0
def tAcquiring : Nat := 1
def tLocked : Nat := 2
def tHoldover : Nat := 3

def Core.timeState (c : Core) : Nat := c.f F.TIME_STAT_STATE

/-- A record of a clock step or a change of the servo's state (spec/19_observation_and_test.md R498). -/
def Core.logClock (c : Core) (step : Int) : Core := c.logRec 0x16 (leBytes 8 (wrap 64 step) ++ leBytes 1 c.timeState)

/-- The rate in force, in 2^-8 ppb: the increment is 10 ns x (1 + r x 10^-9) (R452). -/
def Core.setRate (c : Core) (r : Int) : Core :=
  let inc := (10 * p32 + 10 * p32 * r / 256000000000).toNat
  let c := c.setI R.TIME_RATE (r / 256)
  (c.setF F.TIME_INC_NS_NS (inc / 2 ^ 32)).setN R.TIME_INC_FRAC inc

/-- The servo's state changes (R453); on a member of a crew TIME_LOCKED follows it. -/
def Core.timeGoto (c : Core) (st : Nat) : Core :=
  if c.timeState = st then c
  else
    let c := { c with clk := { c.clk with lockCount := 0 } }.setF F.TIME_STAT_STATE st
    let c := c.setB F.CREW_STAT_TIME_LOCKED (st == tLocked && c.f F.TIME_CFG_SRC == 2)
    c.logClock 0

/-- HOLDOVER, for a reference lost (1) or a change of master (2): the rate without the proportional term. A reference lost within it
makes it last until one returns. -/
def Core.holdover (c : Core) (why : Nat) : Core :=
  if c.timeState = tAcquiring ∨ c.timeState = tLocked then
    let c := (c.setRate c.clk.servoI).timeGoto tHoldover
    { c with clk := { c.clk with reacqFrom := if why = 2 then some c.now else none, refLost := why == 1 } }.post 0x0C04 31 why
  else if c.timeState = tHoldover ∧ why = 2 then
    { c with clk := { c.clk with reacqFrom := some c.now, refLost := false } }.post 0x0C04 31 why
  else if c.timeState = tHoldover then { c with clk := { c.clk with refLost := true } }
  else c

/-- The clock steps by `d` ns (R454). -/
def Core.timeStep (c : Core) (d : Int) : Core :=
  let t := ((c.clk.time : Int) + d * p32) % (2 ^ 96 : Nat)
  let c := { c with clk := { c.clk with time := t.toNat } }
  let c := (c.timeGoto tAcquiring).inc R.TIME_STEP_CNT
  let c := { c with clk := { c.clk with lockCount := 0 } }
  (c.post 0x0C05 31 (wrap 32 (max (-(2 ^ 31)) (min (2 ^ 31 - 1) d)))).logClock d

/-- HOLDOVER after a change of master lasts at least TIME_REACQ ms. -/
def Core.holds2 (c : Core) : Bool :=
  match c.clk.reacqFrom with
  | some t => decide (c.now < t + c.f F.TIME_REACQ_MS * msec)
  | none => false

/-- I and r after an offset, in 2^-8 ppb, with the clamp `lim`: where it is reached, I does not go further that way. -/
def servoStep (kp ki lim old th : Int) : Int × Int :=
  let i1 := old + ki * th
  let full := kp * th + i1
  let i := if lim < full ∧ 0 < th then old else if full < -lim ∧ th < 0 then old else i1
  (i, max (-lim) (min lim (kp * th + i)))

/-- The servo's rate and lock from an offset (R452, R453); where a step is due that the state forbids, the rate is at the clamp
(R454). -/
def Core.servoRate (c : Core) (th : Int) (clamp : Bool) : Core :=
  let lim : Int := c.f F.TIME_SERVO_LIM_PPB * 256
  let (i, r0) := servoStep (c.f F.TIME_SERVO_K_KP) (c.f F.TIME_SERVO_K_KI) lim c.clk.servoI th
  let r := if clamp then (if th < 0 then -lim else lim) else r0
  let k := if th.natAbs ≤ c.f F.TIME_LOCK_THR_NS then c.clk.lockCount + 1 else 0
  let c := { c with clk := { c.clk with servoI := i, lockCount := k } }
  let c := (c.setI R.TIME_HOLD_RATE (i / 256)).setRate r
  if c.timeState = tAcquiring ∧ 16 ≤ k then (c.timeGoto tLocked).post 0x0C03 31 (wrap 32 th) else c

/-- An offset in ns given to the servo (R452-R454). -/
def Core.servo (c : Core) (th : Int) : Core :=
  let c := { c.setI R.TIME_OFFSET th with clk := { c.clk with refLost := false } }
  if !c.fb F.TIME_CFG_SERVO_EN || (c.timeState == tHoldover && c.holds2) then c
  else
    let c := if c.timeState = tFree ∨ c.timeState = tHoldover then c.timeGoto tAcquiring else c
    let free := [stIdle, stReady, stService, stSafe].contains c.devState
    let far := c.fb F.TIME_CFG_AUTO_STEP && decide (c.n R.TIME_STEP_THR < th.natAbs)
    if far && free then c.timeStep (-th) else c.servoRate th far

/-- One tick of the 100 MHz clock (R448). -/
def Core.timeTick (c : Core) : Core := { c with clk := { c.clk with time := (c.clk.time + c.timeInc) % 2 ^ 96 } }

/-! ### PTP (R451, R455, R456) -/

def Core.ptp (c : Core) (p : Nat) : PtpPort := Tab.get (fun _ => {}) c.clk.ptp p
def Core.setPtp (c : Core) (p : Nat) (v : PtpPort) : Core :=
  { c with clk := { c.clk with ptp := Tab.set (fun _ => {}) c.clk.ptp p v } }

/-- The port takes part in PTP: enabled, its link up, in the mode set, and the cox not switching over; on a member
of a crew none does (R464). -/
def Core.ptpOn (c : Core) (p : Nat) : Bool :=
  let m := c.f F.PTP_CFG_MODE
  c.fb (F.ETH_CFG_EN p) && c.fb (F.ETH_STAT_LINK p) && (m == 2 || (m == 1 && c.clk.ptpPort == p)) && c.f F.TIME_CFG_SRC != 2 && c.coxHere

/-- The stamp of a PTP event message in 2^-16 ns, with the fixed correction and the port's own (R451). -/
def Core.ptpStamp (c : Core) (p : Nat) (rx : Bool) : Int :=
  let fixed : Int := match rx, c.fb (F.ETH_CFG_PHY p) with
    | false, false => 128
    | true, false => -230
    | false, true => 880
    | true, true => -1520
  let own := c.i (if rx then R.ETH_ING_CORR p else R.ETH_EGR_CORR p)
  (c.stamp : Int) / 65536 + fixed * 65536 / 10 + own * 65536 / 1000

/-- The clockIdentity: the EUI-64 of ETH0's MAC address. -/
def Core.clockId (c : Core) : Nat :=
  let mac := c.n (R.ETH_MAC_LO 0) + c.f (F.ETH_MAC_HI_MAC 0) * 2 ^ 32
  mac / 2 ^ 24 * 2 ^ 40 + 0xFFFE * 2 ^ 24 + mac % 2 ^ 24

/-- The device's own data set; clockAccuracy and the variance are the 1588 values for an unknown clock. -/
def Core.ownRank (c : Core) : List Nat :=
  [c.f F.PTP_DS_PRIORITY1, c.f F.PTP_DS_CLOCK_CLASS, 0xFE, 0xFFFF, c.f F.PTP_DS_PRIORITY2, c.clockId, 0]

/-- The default data-set comparison: the first set is better. -/
def better : List Nat → List Nat → Bool
  | a :: as, b :: bs => if a = b then better as bs else decide (a < b)
  | _, _ => false

/-- A port may become master: an ordinary clock's unless SLAVE_ONLY is set, a boundary clock's always
(R455). -/
def Core.mayMaster (c : Core) : Bool := c.f F.PTP_CFG_MODE == 2 || !c.fb F.PTP_CFG_SLAVE_ONLY

def Core.setMaster (c : Core) (p id : Nat) : Core := c.set64 (R.ETH_MASTER_LO p) id

/-- A PTP message sent: kind 0x500 + its kind. -/
def Core.ptpSend (c : Core) (p kind seq : Nat) (fields : List Int) : Core :=
  ((c.inc (R.ETH_TX_PTP_CNT p)).perf 237).emit p (0x500 + kind) ((seq : Int) :: fields)

/-- The portState values of IEEE 1588. -/
def psListening : Nat := 4
def psMaster : Nat := 6
def psPassive : Nat := 7
def psSlave : Nat := 9

/-- The data set of the best master that a port has heard, if the port takes part. -/
def Core.heardSet (c : Core) (p : Nat) : Option (List Nat) := if c.ptpOn p then (c.ptp p).master.map (·.2) else none

/-- A port's state by the state decision of IEEE 1588 over the sets heard on both ports (R455): MASTER where the own set is the best
of all, SLAVE on the port of the best set heard (on equal ones port 0), else PASSIVE for the same grandmaster and MASTER for another. A
port that has heard none keeps its state. -/
def Core.ptpRole (c : Core) (p : Nat) : Nat :=
  match c.heardSet p with
  | none => c.f (F.ETH_STAT_PORT_STATE p)
  | some r =>
    let other := if c.f F.PTP_CFG_MODE = 2 then c.heardSet (1 - p) else none
    let beats := fun (l : List Nat) => better l r || (p == 1 && !better r l)
    if c.mayMaster && better c.ownRank r && other.all (better c.ownRank) then psMaster
    else match other with
      | some o => if beats o then (if o[5]? = r[5]? then psPassive else psMaster) else psSlave
      | none => psSlave

/-- The port in SLAVE, with the clockIdentity of its master. -/
def Core.slaveMaster (c : Core) : Option (Nat × Nat) :=
  ((List.range 2).find? fun p => c.f (F.ETH_STAT_PORT_STATE p) == psSlave).bind fun p => (c.ptp p).master.map fun m => (p, m.1)

/-- The port that leads to the master followed, with the master's clockIdentity, as ETHp_MASTER has it. -/
def Core.parent (c : Core) : Option (Nat × Nat) :=
  ((List.range 2).find? fun p => c.n64 (R.ETH_MASTER_LO p) != 0).map fun p => (p, c.n64 (R.ETH_MASTER_LO p))

/-- A master followed stays so while its port is out of use, until its announce receipt timeout (R453). -/
def Core.keptMaster (c : Core) : Option (Nat × Nat) :=
  c.parent.filter fun x => !c.ptpOn x.1 && (c.ptp x.1).master.any fun m => m.1 == x.2

/-- The ports' states, and the master followed, after what was heard has changed: a port that follows another master posts 0x0C01, the
loss of every master 0x0C02; the clock is in HOLDOVER (R453, R456). -/
def Core.ptpDecide (c : Core) : Core :=
  let was := c.parent
  let roles := (List.range 2).map c.ptpRole
  let c := c.each 2 fun p c => if c.ptpOn p then c.setF (F.ETH_STAT_PORT_STATE p) (roles.getD p 0) else c
  let now_ := c.slaveMaster <|> c.keptMaster
  let c := c.each 2 fun p c =>
    let id := match now_ with
      | some (q, id) => if q = p then id else 0
      | none => 0
    if c.n64 (R.ETH_MASTER_LO p) = id then c
    else
      let c := c.setMaster p id
      if id = 0 then c else c.post 0x0C01 p (id % 2 ^ 32)
  match was, now_ with
  | some (p, _), none => (c.post 0x0C02 p 0).holdover 1
  | some (_, a), some (_, b) => if a = b then c else c.holdover 2
  | none, _ => c

/-- The data set that an Announce carries: the own, or the master's with one step more. -/
def Core.announced (c : Core) : List Nat :=
  match c.parent.bind fun x => (c.ptp x.1).master with
  | some (_, r) => r.take 6 ++ [(r.getD 6 0 + 1) % 65536]
  | none => c.ownRank

/-- An Announce: the best master of the port, and the states that follow (R455, R456). -/
def Core.ptpAnnounce (c : Core) (p : Nat) (m : PtpMsg) : Core :=
  let u := c.ptp p
  let id := m.src.toNat
  let same := match u.master with
    | some (old, _) => old == id
    | none => false
  let best := match u.master with
    | some (_, r) => better m.rank r
    | none => true
  if same then (c.setPtp p { u with master := some (id, m.rank), heard := c.now }).ptpDecide
  else if best then (c.setPtp p { u with master := some (id, m.rank), heard := c.now, sync := none, ms := none }).ptpDecide
  else c

/-- An offset from t2 - t1 of a Sync: less the mean path delay, rounded to ns. -/
def Core.ptpOffset (c : Core) (p : Nat) (ms : Int) : Core :=
  let u := c.ptp p
  let c := c.setPtp p { u with ms := some ms, sync := none }
  c.servo (roundDiv (ms - u.mpd) 65536)

/-- The mean path delay formed. -/
def Core.setMpd (c : Core) (p : Nat) (d : Int) : Core :=
  (c.setPtp p { c.ptp p with mpd := d, req := none, resp := none }).setI (R.ETH_MPD p) (roundDiv d 65536)

/-- A message processed (R456). -/
def Core.ptpTake (c : Core) (p : Nat) (m : PtpMsg) : Core :=
  let u := c.ptp p
  let rx := c.ptpStamp p true
  let seq := m.seq.toNat
  let stamp := m.stamp * 65536
  let mine := c.f (F.ETH_STAT_PORT_STATE p) == psSlave && match u.master with
    | some (id, _) => id == m.src.toNat
    | none => false
  let peer := c.fb (F.ETH_CFG_DELAY p)
  match m.kind.val with
  | 0 =>
    if !mine then c
    else if m.twoStep then c.setPtp p { u with sync := some (seq, rx, m.corr) }
    else c.ptpOffset p (rx - (stamp + m.corr))
  | 1 => (match u.sync with
    | some (q, t2, k) => if mine = true ∧ q = seq then c.ptpOffset p (t2 - (stamp + m.corr + k)) else c
    | none => c)
  | 2 =>
    if !peer && c.f (F.ETH_STAT_PORT_STATE p) == 6 then c.ptpSend p 3 seq [rx, m.corr, m.src.toNat] else c
  | 3 => (match u.req, u.ms with
    | some (q, t3), some ms => if mine && !peer && q == seq then c.setMpd p ((ms + (stamp - m.corr - t3)) / 2) else c
    | _, _ => c)
  | 4 =>
    let tx := c.ptpStamp p false
    if !peer then c
    else if c.fb (F.ETH_CFG_TWO_STEP p) then (c.ptpSend p 5 seq [1, rx, m.src.toNat]).ptpSend p 6 seq [tx, m.src.toNat]
    else c.ptpSend p 5 seq [0, rx, tx, m.src.toNat]
  | 5 => (match u.req with
    | some (q, t1) =>
      if peer && q == seq then
        if m.twoStep then c.setPtp p { u with resp := some (seq, stamp, rx - m.corr) }
        else c.setMpd p ((rx - t1 - m.corr) / 2)
      else c
    | none => c)
  | 6 => (match u.req, u.resp with
    | some (q, t1), some (_, t2, t4) =>
      if peer && q == seq then c.setMpd p (((t4 - t1) - (stamp + m.corr - t2)) / 2) else c
    | _, _ => c)
  | _ => c.ptpAnnounce p m

/-! ### The commands -/

/-- PTP_MESSAGE. -/
def execPtpMessage (p : Fin 2) (msg : PtpMsg) (s : State) : Host.Outcome State Fault Refusal :=
  let c := s.core
  let r :=
    if c.ptpOn p then
      let c := (c.inc (R.ETH_RX_PTP_CNT p)).perf 236
      if msg.domain.toNat = c.f F.PTP_DS_DOMAIN then c.ptpTake p msg else c
    else c
  .next { s with core := r }

/-- An interval of 2^e s. -/
def logInterval (e : Int) : Nat := if 0 ≤ e then sec * 2 ^ e.toNat else sec / 2 ^ (-e).toNat

/-- PTP_TX_TIMER: the sync (0), delay-request (1) or announce (2) interval expires (R455). -/
def execPtpTxTimer (p : Fin 2) (kind : Fin 3) (s : State) : Host.Outcome State Fault Refusal :=
  let c := s.core
  let u := c.ptp p
  let (a, b, d) := u.sentAt
  let (x, y, z) := u.seqs
  let master := c.f (F.ETH_STAT_PORT_STATE p) == 6
  let tx := c.ptpStamp p false
  let due := fun (at_ : Nat) (f : Fld) => decide (at_ + logInterval (sext 8 (c.f f)) ≤ c.now)
  let r :=
    if !c.ptpOn p then c
    else match kind.val with
    | 0 =>
      if master && due a (F.ETH_LOG_INT_SYNC p) then
        let c := c.setPtp p { u with sentAt := (c.now, b, d), seqs := ((x + 1) % 65536, y, z) }
        if c.fb (F.ETH_CFG_TWO_STEP p) then (c.ptpSend p 0 x [1, 0]).ptpSend p 1 x [tx] else c.ptpSend p 0 x [0, tx]
      else c
    | 1 =>
      let peer := c.fb (F.ETH_CFG_DELAY p)
      if (peer || c.f (F.ETH_STAT_PORT_STATE p) == psSlave) && due b (F.ETH_LOG_INT_DELAY_REQ p) then
        (c.setPtp p { u with sentAt := (a, c.now, d), seqs := (x, (y + 1) % 65536, z), req := some (y, tx), resp := none }).ptpSend p
          (if peer then 4 else 2) y [tx]
      else c
    | _ =>
      if master && due d (F.ETH_LOG_INT_ANNOUNCE p) then
        (c.setPtp p { u with sentAt := (a, b, c.now), seqs := (x, y, (z + 1) % 65536) }).ptpSend p 7 z (c.announced.map Int.ofNat)
      else c
  .next { s with core := r }

/-- The announce receipt timeout of a port (R453, R455). -/
def Core.announceLimit (c : Core) (p : Nat) : Nat :=
  c.f (F.ETH_LOG_INT_TIMEOUT p) * logInterval (sext 8 (c.f (F.ETH_LOG_INT_ANNOUNCE p)))

/-- No Announce for the timeout: the port has no master, and becomes MASTER if it may, where its link is up. -/
def Core.announceLost (c : Core) (p : Nat) : Core :=
  let c := c.setPtp p { c.ptp p with master := none, heard := c.now, sync := none, ms := none }
  let c := if c.ptpOn p then c.setF (F.ETH_STAT_PORT_STATE p) (if c.mayMaster then psMaster else psListening) else c
  c.ptpDecide

/-- PTP_ANNOUNCE_TIMEOUT: no Announce from the port's master, or since the port listens, for its TIMEOUT (R453, R455). -/
def execPtpAnnounceTimeout (p : Fin 2) (s : State) : Host.Outcome State Fault Refusal :=
  let c := s.core
  let u := c.ptp p
  let listens := u.master.isSome || (c.ptpOn p && c.f (F.ETH_STAT_PORT_STATE p) == psListening)
  .next { s with core := if listens && decide (u.heard + c.announceLimit p ≤ c.now) then c.announceLost p else c }

/-- HOLDOVER_END: TIME_REACQ after a change of master, unless the reference is lost (R453). -/
def execHoldoverEnd (s : State) : Host.Outcome State Fault Refusal :=
  let c := s.core
  .next { s with core := if c.timeState == tHoldover && c.clk.reacqFrom.isSome && !c.holds2 && !c.clk.refLost then
    { c with clk := { c.clk with reacqFrom := none } }.timeGoto tAcquiring else c }

/-- A link's state; a link that comes up has its reference clock. -/
def Core.ethLink (c : Core) (p : Nat) (up : Bool) : Core :=
  if c.fb (F.ETH_STAT_LINK p) = up ∨ (up ∧ ¬ c.fb (F.ETH_CFG_EN p)) then c
  else
    let an := up && c.fb (F.ETH_CFG_PHY p) && c.fb (F.ETH_CFG_AN_EN p)
    let c := (c.setB (F.ETH_STAT_LINK p) up).setB (F.ETH_STAT_AN_DONE p) an
    let c := c.setF (F.ETH_STAT_PORT_STATE p) (if up then psListening else 1)
    let c := if up ∧ (c.ptp p).master.isNone then c.setPtp p { c.ptp p with heard := c.now } else c
    let c := if up then c.setB F.CLK_STAT_ETH_REFCLK_OK true else c
    c.post 0x0C06 p (if up then 2 ^ 31 else 0)

/-- ETH_LINK. -/
def execEthLink (p : Fin 2) (up : Bool) (s : State) : Host.Outcome State Fault Refusal :=
  .next { s with core := s.core.ethLink p up }

/-- ETH_FRAME_DROP: a frame that is not a supported PTP message (R455). -/
def execEthFrameDrop (p : Fin 2) (s : State) : Host.Outcome State Fault Refusal :=
  let c := s.core
  .next { s with core := if c.fb (F.ETH_CFG_EN p) then c.inc (R.ETH_DROP_CNT p) else c }

/-- ETH_REFCLK_LOST: both ports down, and HOLDOVER (spec/20_power_clocks_boot.md R530). -/
def execEthRefclkLost (s : State) : Host.Outcome State Fault Refusal :=
  let c := (((s.core.setB F.CLK_STAT_ETH_REFCLK_OK false).ethLink 0 false).ethLink 1 false).holdover 1
  .next { s with core := c.post 0x0E09 31 0 }

/-- TIME_STEP (R454). -/
def Core.cmdTimeStep (c : Core) (q : CmdIn) : CmdOut :=
  c.judge [(c.formed && !c.isLead, rBusy)] fun c => done (c.timeStep (sext 64 (q.u64 0)))

def execTimeStep (p : Packet) (s : State) : Host.Outcome State Fault Refusal :=
  .next { s with core := s.core.command 0x80 p Core.cmdTimeStep }

/-- PTP begins anew: what the ports heard is forgotten, and a master that was followed is lost (R453, R456). -/
def Core.ptpForget (c : Core) : Core :=
  let was := c.parent
  let c := { c with clk := { c.clk with ptp := [] } }
  let c := c.each 2 fun p c =>
    ((c.setPtp p { heard := c.now }).setMaster p 0).setF (F.ETH_STAT_PORT_STATE p) (if c.fb (F.ETH_STAT_LINK p) then psListening else 1)
  match was with
  | some (p, _) => (c.post 0x0C02 p 0).holdover 1
  | none => c

/-- PTP_MODE (spec/14_command_reference.md R396, R464). -/
def Core.cmdPtpMode (c : Core) (q : CmdIn) : CmdOut :=
  let m := q.u8 1
  c.judge [(c.formed && !c.isLead && m != 0, rBusy), (q.u16 2 != 0, rBadParam), (decide (2 < m) || (m != 2 && decide (1 < q.u8 0)), rRange)]
    fun c =>
      let c := c.setF F.PTP_CFG_MODE m
      let c := { c with clk := { c.clk with ptpPort := q.u8 0 } }
      let c := if c.f F.TIME_CFG_SRC = 2 then c else c.setF F.TIME_CFG_SRC (if m = 0 then 0 else 1)
      done c.ptpForget

def execPtpMode (p : Packet) (s : State) : Host.Outcome State Fault Refusal :=
  .next { s with core := s.core.command 0x81 p Core.cmdPtpMode }

end Sys2Proof.Machine
end

