-- ==== Sys2Proof/Machine/CrewNet.lean ====
section
/-!
DEFINITION. The crew links (spec/17_time_and_crew.md R457-R471): forming, the position broadcast, time, re-skew, seams,
umpire state and the loss of a link.
-/

namespace Sys2Proof.Machine

def cpOff : Nat := 0
def cpTraining : Nat := 1
def cpUp : Nat := 2
def cpSkew : Nat := 3
def cpDown : Nat := 4

def Core.linkUp (c : Core) (p : Nat) (v : Bool) : Core :=
  c.setF F.CREW_STAT_LINKS_UP (setBits (c.f F.CREW_STAT_LINKS_UP) p 1 (b2n v))

/-- The ports not among those named. -/
def Core.crewMember (c : Core) : Bool := c.formed && !c.isLead && !c.replay

/-! ### Forming and leaving (R459, R460) -/

/-- CREW_FORM. -/
def Core.cmdCrewForm (c : Core) (q : CmdIn) : CmdOut :=
  let seat := q.u8 0
  let size := q.u8 1
  let ports := (List.range 4).foldl (fun m j => if j < size ∧ j ≠ seat then m + 2 ^ j else m) 0
  c.judge [(c.formed || c.crew.forming.isSome, rBusy), (q.u8 3 != 0 || q.u8 2 != ports || decide (size ≤ seat), rBadParam),
    (decide (3 < seat) || decide (size < 2) || decide (4 < size), rRange)] fun c =>
    let c := (c.setF F.CREW_CFG_SEAT seat).setF F.CREW_CFG_SIZE size
    let c := c.setCrew { forming := some (ports, c.now) }
    let c := if seat = 0 then c else c.ptpForget.setF F.TIME_CFG_SRC 2
    let c := c.each 4 fun p c =>
      if bit ports p then
        let c := ((c.setF (F.CP_STAT_STATE p) cpTraining).setB (F.CP_STAT_PEER_VALID p) false).setF (F.CP_DELAY_D p) 0
        c.bulkSend p [seat, size, c.n64 R.DEV_UID_LO]
      else c.setF (F.CP_STAT_STATE p) cpOff
    accepted (c.start 0xB0 q)

def execCrewForm (p : Packet) (s : State) : Host.Outcome State Fault Refusal :=
  .next { s with core := s.core.command 0xB0 p Core.cmdCrewForm }

/-- The status with which forming ends, once it can: `locked` tells whether every member is LOCKED; a member's own clock is, after its
step to the lead's time. -/
def Core.formStatus (c : Core) (ports since : Nat) (locked : Bool) : Option Nat :=
  let on := (List.range 4).filter (bit ports)
  let size := c.f F.CREW_CFG_SIZE
  let clash := on.any fun p => match (c.crewPort p).hello with
    | some (seat, n) => seat != p || n != size
    | none => false
  let far := on.any fun p => decide ((c.f F.CREW_LAT_NS - 100) * 16 < c.f (F.CP_DELAY_D p))
  let up := on.all fun p => c.f (F.CP_STAT_STATE p) == cpUp
  let own := c.seat == 0 || (c.crew.stepped && c.timeState == tLocked)
  if clash then some rBadParam
  else if far then some rRange
  else if up && own && locked then some rDone
  else if since + sec ≤ c.now then some rHwFault
  else none

/-- CREW_FORMED. -/
def execCrewFormed (locked : Bool) (s : State) : Host.Outcome State Fault Refusal :=
  let c := s.core
  let r := match c.crew.forming, c.asyncOf 0xB0 with
    | some (ports, since), some a =>
      (match c.formStatus ports since locked with
      | none => c
      | some st =>
        let c := c.asyncDrop a
        let c := c.setCrew { c.crew with forming := none }
        let c := if st = rDone then
            let c := (c.setB F.CREW_STAT_FORMED true).setB F.CREW_STAT_LEAD (c.seat == 0)
            let c := c.setB F.CREW_STAT_TIME_LOCKED (c.seat != 0)
            let c := c.setCrew { c.crew with rxAt := c.now, timeAt := c.now, umpAt := c.now, sentAt := c.now }
            c.each 4 fun j c => c.setCrewPort j { c.crewPort j with due := c.now + j * 150 * sec }
          else
            let c := c.each 4 fun p c => (c.setF (F.CP_STAT_STATE p) cpOff).setB (F.CP_STAT_PEER_VALID p) false
            if c.seat = 0 then c.setF F.CREW_STAT_LINKS_UP 0 else (c.setF F.CREW_STAT_LINKS_UP 0).setF F.TIME_CFG_SRC 0
        c.post 0x0C10 31 st)
    | _, _ => c
  .next { s with core := r }

/-- The crew dissolves (R460); `seat` left or was lost. -/
def Core.dissolve (c : Core) (seat : Nat) : Core :=
  let member := c.crewMember
  let c := ((c.setB F.CREW_STAT_FORMED false).setB F.CREW_STAT_LEAD false).setB F.CREW_STAT_FLYWHEEL false
  let c := c.setB F.CREW_STAT_TIME_LOCKED false
  let c := c.setCrew {}
  let c := if member then ((c.setF F.TIME_CFG_SRC (if c.f F.PTP_CFG_MODE = 0 then 0 else 1)).ptpForget).holdover 1 else c
  c.post 0x0C11 31 seat

/-- CREW_LEAVE. -/
def Core.cmdCrewLeave (c : Core) (_q : CmdIn) : CmdOut :=
  if c.formed then
    let c := c.each 4 fun p c => c.setF (F.CP_STAT_STATE p) cpOff
    done ((c.setF F.CREW_STAT_LINKS_UP 0).dissolve c.seat)
  else done c

def execCrewLeave (p : Packet) (s : State) : Host.Outcome State Fault Refusal :=
  .next { s with core := s.core.command 0xB1 p Core.cmdCrewLeave }

/-! ### Position and speed (R461-R463) -/

/-- The broadcast says that the web stands still (R461): no speed, so no prediction (spec/03_firing.md R83), and HOLD. -/
def Core.memberStill (c : Core) : Core :=
  ((c.setCrew { c.crew with still := true }).setI R.WEB_SPEED 0).overCheck.unpredict.webStill

/-- A position update of instant `t` takes effect on a member (R462): stroke boundary, compare channels, standstill, and the
logbook's POS record. -/
def Core.memberPos (c : Core) (t : Nat) (x v : Int) (neg still : Bool) : Core :=
  let p0 := c.webPosRaw
  let c := { c with web := { c.web with upd := t } }
  let moving := c.crew.still && !still
  let c := c.setCrew { c.crew with pos := x, speed := v, neg := neg, still := still }
  let c := c.setI R.WEB_SPEED (if still then 0 else v)
  let c := if moving then c.moves else c
  let c := (Core.strokesTo (c.strokeFuel x) c x).cmpUpdateAll 0 p0 x
  let c := (c.backupCheck.overCheck).fireUpdate
  if still then c.webStill else c

/-- A POS in force. -/
def Core.posEffect (c : Core) (m : PosMsg) : Core :=
  let t32 := (c.t32 + 2 ^ 32 - (c.now - m.t) * 5 / 4 % 2 ^ 32) % 2 ^ 32
  let c := c.logRec 4 (leBytes 4 t32 ++ leBytes 4 (wrap 32 (m.pos / p32)) ++ leBytes 4 (wrap 32 m.pos) ++ leBytes 4 (wrap 32 m.speed))
  let c := (c.setCrew { c.crew with sent := some m }).setB F.CREW_STAT_FLYWHEEL false
  c.memberPos m.t m.pos m.speed m.neg m.still

/-- A POS that a member receives, with its SEQ: one that repeats the last received brings only its flags; any ends a flywheel (R461-R463). -/
def Core.posTake (c : Core) (m : PosMsg) (again : Bool) : Core :=
  if m.lost then c.webLost
  else if again then
    let c := c.setB F.CREW_STAT_FLYWHEEL false
    if m.still then c.memberStill else c
  else if m.t + c.crewLat < c.now then
    ((c.inc R.CREW_POS_LATE_CNT).postLim sec 0x0C08 31 (c.n R.CREW_POS_LATE_CNT + 1)).posEffect m
  else c.setCrew { c.crew with queue := c.crew.queue ++ [m] }

/-- CREW_POS_RX. -/
def execCrewPosRx (t : BitVec 32) (pos : Int) (speed : BitVec 32) (flags : Fin 8) (seq : BitVec 16) (s : State) :
    Host.Outcome State Fault Refusal :=
  let c := if s.core.crewMember then s.core.perf 238 else s.core
  let age := sext 32 ((c.t32 + 2 ^ 32 - t.toNat) % 2 ^ 32) * 4 / 5
  let m : PosMsg := { t := (c.now - age).toNat, pos := pos, speed := speed.toInt, still := bit flags.val 1, neg := bit flags.val 0
                      lost := bit flags.val 2 }
  let again := c.crew.got && c.crew.seq == seq.toNat
  let r :=
    if c.crewMember then
      let c := c.setCrew { c.crew with rxAt := c.now, seq := seq.toNat, got := true }
      if c.fb F.WEB_SRC_LOST then c else c.posTake m again
    else c
  .next { s with core := r }

/-- CREW_POS_APPLY: at T + CREW_LAT, on a member the POS, on the lead its own update's stroke boundary (R462). -/
def execCrewPosApply (s : State) : Host.Outcome State Fault Refusal :=
  let c := s.core
  let r := match c.crew.queue with
    | [] => c
    | m :: rest =>
      if m.t + c.crewLat ≤ c.now then
        let c := c.setCrew { c.crew with queue := rest }
        if c.isLead then Core.strokesTo (c.strokeFuel m.pos) c m.pos else c.posEffect m
      else c
  .next { s with core := r }

/-- POS_REPEAT: no update for 1 µs (R461); where none has come since the crew was formed, the position as it stands. -/
def execPosRepeat (s : State) : Host.Outcome State Fault Refusal :=
  let c := s.core
  let due := c.formed && c.isLead && decide (c.crew.sentAt + usec ≤ c.now)
  .next { s with core := if due then c.posSend c.crew.sent.isSome else c }

/-- Between POS messages a member's position is extrapolated from the last POS at its speed, and acts CREW_LAT later, as a POS does
(R462, R463). -/
def Core.coast (c : Core) : Core :=
  match c.crew.sent with
  | some m =>
    let at_ := c.now - c.crewLat
    let x := m.pos + m.speed * 65536 * 5 * ((at_ - m.t : Nat) : Int) / 4
    if c.crewMember && !c.fb F.WEB_SRC_LOST && !c.crew.still && m.speed != 0 && decide (m.t < at_) then c.memberPos at_ x m.speed m.neg false
    else c
  | none => c

/-- CREW_FLYWHEEL: no POS for 2 µs. -/
def execCrewFlywheel (s : State) : Host.Outcome State Fault Refusal :=
  let c := s.core
  let r := if c.crewMember && decide (c.crew.rxAt + 2 * usec ≤ c.now) then c.setB F.CREW_STAT_FLYWHEEL true else c
  .next { s with core := r }

/-- CREW_POS_LOSS: no POS for 100 µs (R463). -/
def execCrewPosLoss (s : State) : Host.Outcome State Fault Refusal :=
  let c := s.core
  let r := if c.crewMember && decide (c.crew.rxAt + 100 * usec ≤ c.now) then c.webLost else c
  .next { s with core := r }

/-! ### Time (R464) -/

/-- CREW_TIME_TX: every 1 ms, and while the crew forms. -/
def execCrewTimeTx (s : State) : Host.Outcome State Fault Refusal :=
  let c := s.core
  let on := (c.formed || c.crew.forming.isSome) && c.seat == 0
  let r := if on && decide (c.crew.timeAt + msec ≤ c.now) then
      (c.setCrew { c.crew with timeAt := c.now }).eachOf c.peers fun p c => c.crewEmit p 0xF3 [c.stamp / 2 ^ 32 + 18]
    else c
  .next { s with core := r }

/-- CREW_TIME_RX: θ = t_rx - (t_tx + d); while the crew forms the first sets the clock (R459). The servo is the cox's
(spec/18_fault_tolerance.md R485). -/
def execCrewTimeRx (t : BitVec 64) (s : State) : Host.Outcome State Fault Refusal :=
  let c := s.core
  let rx : Int := (c.stamp / 2 ^ 32 : Nat) - 21
  let th := roundDiv (16 * (rx - t.toNat) - c.f (F.CP_DELAY_D 0)) 16
  let first := c.crew.forming.isSome && !c.crew.stepped
  let r :=
    if (c.formed || c.crew.forming.isSome) && c.seat != 0 && c.coxHere then
      let c := c.setI R.CREW_TIME_OFS th
      if first then ((c.setCrew { c.crew with stepped := true }).setI R.TIME_OFFSET th).timeStep (-th) else c.servo th
    else c
  .next { s with core := r }

/-! ### Re-skew (R465, R466) -/

/-- A SKEW message, never held: on both lanes. -/
def Core.skewEmit (c : Core) (p : Nat) (fields : List Int) : Core := c.emit p 0x4F4 fields

/-- The link carries no traffic from the first SKEW on. -/
def Core.skewBegin (c : Core) (p : Nat) : Core :=
  let c := c.setCrewPort p { c.crewPort p with since := some c.now }
  if c.f (F.CP_STAT_STATE p) = cpUp then c.setF (F.CP_STAT_STATE p) cpSkew else c

/-- The exchange is complete: CPp_DELAY has d, the elastic buffers are centred again, and both lanes must lock anew (R465). -/
def Core.skewDone (c : Core) (p d : Nat) : Core :=
  (c.setF (F.CP_DELAY_D p) d).setCrewPort p { c.crewPort p with relock := some d, rx0 := {}, rx1 := {} }

/-- A held message as it goes out: a TIME carries the stamp of its transmission (R464). -/
def Core.restamp (c : Core) (m : Msg) : Msg := if m.kind = 0x4F3 then { m with fields := [c.stamp / 2 ^ 32 + 18] } else m

/-- Both lanes are back in lock: the link is up, and what was held is sent. -/
def Core.skewEnd (c : Core) (p d : Nat) : Core :=
  let u := c.crewPort p
  let was := c.f (F.CP_STAT_STATE p) == cpSkew
  let c := c.setCrewPort p { u with since := none, span := (u.since.getD c.now, c.now), held := [], relock := none }
  let c := ((c.setF (F.CP_STAT_STATE p) cpUp).linkUp p true).setN (R.CP_LAST_SKEW p) c.t32
  let c := { c with out := (u.held.map c.restamp).reverse ++ c.out }.perfAdd 239 (u.held.countP fun (m : Msg) => m.kind == 0x4F2)
  if was then (c.inc R.CREW_SKEW_CNT).post 0x0C0A p (d / 16) else c

/-- CREW_RESKEW: the lead re-skews a link every 600 s (R466). -/
def execCrewReskew (p : Fin 4) (s : State) : Host.Outcome State Fault Refusal :=
  let c := s.core
  let u := c.crewPort p
  let free := c.crew.exch.isNone && c.crew.decided.isNone && c.peers.all fun j => (c.crewPort j).since.isNone
  let r :=
    if c.formed && c.isLead && c.peers.contains p.val && free && decide (u.due ≤ c.now) && c.f (F.CP_STAT_STATE p) == cpUp then
      (((c.setCrewPort p { u with due := u.due + 600 * sec }).skewBegin p).skewEmit p [0, wrap 32 (c.t32 + 18)])
    else c
  .next { s with core := r }

/-! ### Links and faults (R460, R471) -/

/-- A crew link is down, having lost the lanes of a mask. -/
def Core.crewLinkDown (c : Core) (p lanes : Nat) : Core :=
  let st := c.f (F.CP_STAT_STATE p)
  if st = cpOff ∨ st = cpDown then c
  else
    let c := (c.setF (F.CP_STAT_STATE p) cpDown).linkUp p false
    let c := c.setCrewPort p { c.crewPort p with since := none, held := [], relock := none, rx0 := {}, rx1 := {} }
    let c := c.post 0x0C07 p lanes
    if !c.formed then c
    else if !c.job.isOpen then c.dissolve p
    else
      let c := if c.isLead then c.defect 0x0C0D p (c.firstUnfired.getD noLine) c.webPos 0xFFFFFFFF
        else if p = 0 then (c.holdover 1).webLost
        else c
      if c.fb F.CREW_CFG_SAFE_ALL then c.enterSafe 5 else c

/-- CREW_LINK_DOWN. -/
def execCrewLinkDown (p : CrewLoss) (s : State) : Host.Outcome State Fault Refusal :=
  .next { s with core := s.core.crewLinkDown p.port p.lanes.toNat }

/-- The mask of the lanes of a port that are not in lock. -/
def CrewPort.unlocked (u : CrewPort) : Nat := b2n (!u.rx0.lock) + 2 * b2n (!u.rx1.lock)

/-- A codeword on a crew lane (R458, spec/10_quill_head_link.md R270, R271): counted where it is uncorrectable; with both lanes in lock a
link that relocks is up, and one that is up and loses a lock is down. The marker's lane index is the lane's number, and its UP bit is 0
(log entry 69). -/
def Core.crewWord (c : Core) (p : Nat) (lane : Fin 2) (sym : List Nat) : Core :=
  let u := c.crewPort p
  let rx := if lane = 0 then u.rx0 else u.rx1
  let o := rx.decode lane false sym
  let rx' := rx.step o
  let v := if lane = 0 then { u with rx0 := rx' } else { u with rx1 := rx' }
  let c := c.setCrewPort p v
  let c := if o.cw = .uncorrectable then c.inc (R.CP_FEC_UNCORR p) else c
  match u.relock with
  | some d => if v.unlocked = 0 then c.skewEnd p d else c
  | none => if rx.lock && !rx'.lock && c.f (F.CP_STAT_STATE p) == cpUp then c.crewLinkDown p (2 ^ lane.val) else c

/-- CREW_SKEW_RX: t1 answered with t2 and t3; on the reply d = ((t4 - t1) - (t3 - t2)) / 2 returned; on the final message
d taken, and both ends relock; a lane's codeword. -/
def execCrewSkewRx (p : Fin 4) (m : Skew) (s : State) : Host.Outcome State Fault Refusal :=
  let c := s.core
  let rx := wrap 32 ((c.t32 : Int) - 21)
  let on := (c.formed || c.crew.forming.isSome) && (c.f (F.CP_STAT_STATE p) == cpTraining || c.f (F.CP_STAT_STATE p) == cpUp ||
    c.f (F.CP_STAT_STATE p) == cpSkew)
  let r :=
    if !on then c
    else match m with
    | .ask t1 => (c.skewBegin p).skewEmit p [1, t1.toNat, rx, wrap 32 (c.t32 + 18)]
    | .reply t1 t2 t3 =>
      let round := sext 32 ((rx + 2 ^ 32 - t1.toNat) % 2 ^ 32) - sext 32 ((t3.toNat + 2 ^ 32 - t2.toNat) % 2 ^ 32)
      let d := wrap 16 (round * 8)
      (c.skewEmit p [2, d]).skewDone p d
    | .final d => c.skewDone p d.toNat
    | .word lane msg check => c.crewWord p lane (rsSymbols 514 msg ++ rsSymbols 14 check)
  .next { s with core := r }

/-- CREW_RESKEW_TIMEOUT: not back in lock after 12 µs (R466). -/
def execCrewReskewTimeout (p : Fin 4) (s : State) : Host.Outcome State Fault Refusal :=
  let c := s.core
  let u := c.crewPort p
  let r := match u.since with
    | some t =>
      if c.f (F.CP_STAT_STATE p) = cpSkew ∧ t + 12 * usec ≤ c.now then c.crewLinkDown p (if u.relock.isSome then u.unlocked else 3) else c
    | none => c
  .next { s with core := r }

/-- CREW_UMP_TX: every 10 µs. -/
def execCrewUmpTx (s : State) : Host.Outcome State Fault Refusal :=
  let c := s.core
  let b : Nat := b2n (c.st == stSafe) + b2n c.ump.faultN * 2 + b2n (c.f F.UMP_STAT_HEALTH == 1) * 4
  let r := if c.formed && decide (c.crew.umpAt + 10 * usec ≤ c.now) then
      (c.setCrew { c.crew with umpAt := c.now }).eachOf c.peers fun p c => c.crewEmit p 0xF6 [b]
    else c
  .next { s with core := r }

/-- CREW_UMP_RX: a member in SAFE, with SAFE_ALL, takes the crew to SAFE. -/
def execCrewUmpRx (seat : Fin 4) (safe faultN degraded : Bool) (s : State) : Host.Outcome State Fault Refusal :=
  let c := s.core
  let u := c.crewPort seat
  let new := b2n safe + b2n faultN * 2 + b2n degraded * 4
  let r :=
    if c.formed && c.peers.contains seat.val then
      let c := c.setCrewPort seat { u with ump := new }
      if safe && !bit u.ump 0 && c.fb F.CREW_CFG_SAFE_ALL then (c.post 0x0C0B seat seat).enterSafe 4 else c
    else c
  .next { s with core := r }

/-! ### Seams and bulk messages (R235, R458, R468) -/

/-- The inks in which two seam records differ. -/
def seamDiff (a b : SeamRec) : List Nat :=
  (List.range 8).filter fun k => bit a.fires k != bit b.fires k || a.vals.getD k 0 != b.vals.getD k 0

/-- The edge columns that a seam record lets be judged under spec/06_screening_and_nozzles.md R172: those of the ink-lines that are
a generation's first line, or the line after it. -/
def Core.seamJudge (c : Core) (right : Bool) (s : Nat) : Core :=
  c.each 8 fun k c => c.each 2 fun j c =>
    match c.lineDue (s - j) k with
    | some l =>
      let x := c.inkCtx k l
      let col := if right then x.g.lastCol - 1 else x.g.firstCol
      if c.inkDone x.s k then c.unhidden x col (col + 1) else c
    | none => c

/-- A seam record taken for a stroke that is not final: the changed inks' speculative ink-lines are squashed. -/
def Core.seamTake (c : Core) (right : Bool) (sigma : Nat) (x : SeamRec) : Core :=
  let s := sigma + c.sTof
  let key := 2 * sigma + b2n right
  if !c.formed || !c.printing || c.final s then c
  else
    let old := Tab.get (fun _ => {}) c.pipe.seams key
    let inks := seamDiff old x
    let sel := fun (t : Nat) (_ : Part) (k _ : Nat) => t == s && inks.contains k
    let n := (c.specInks sel).length
    let c := { c with pipe := { c.pipe with seams := Tab.set (fun _ => {}) c.pipe.seams key x
                                            seamIn := Tab.set (fun _ => false) c.pipe.seamIn key true } }
    ((c.addN R.CREW_SEAM_SQ_CNT n).squash 1 sel).seamJudge right s

/-- CREW_SEAM_RX. -/
def execCrewSeamRx (right : Bool) (sigma : BitVec 48) (fires : BitVec 8) (vals : List (BitVec 16)) (s : State) :
    Host.Outcome State Fault Refusal :=
  .next { s with core := s.core.seamTake right sigma.toNat { fires := fires.toNat, vals := (vals.take 8).map (·.toNat) } }

/-- A delivery of loop changes counts for its boundary, and at the lead's the member's own changes are frozen (R235). -/
def Core.bulkDelivery (c : Core) (p le : Nat) (first last : Int) (data : List Byte) : Core :=
  let g := c.newest
  let (l, r) := c.crew.edge
  let l := if g.fb F.CREW_CFG_LEFT_EN && g.f F.CREW_CFG_LEFT == p then some last else l
  let r := if g.fb F.CREW_CFG_RIGHT_EN && g.f F.CREW_CFG_RIGHT == p then some first else r
  let c := c.setCrewPort p { c.crewPort p with changes := data }
  let c := c.setCrew { c.crew with edge := (l, r), delivered := if c.crew.delivered.contains (p, le) then c.crew.delivered
    else c.crew.delivered ++ [(p, le)] }
  if p = 0 ∧ c.loopsRun then c.loopForm le else c

/-- A HELLO (R459): the peer's seat; the one of the lower seat measures the link. -/
def Core.bulkHello (c : Core) (p seat size : Nat) : Core :=
  match c.crew.forming with
  | some (ports, _) =>
    if bit ports p then
      let c := c.setCrewPort p { c.crewPort p with hello := some (seat, size) }
      let c := (c.setF (F.CP_STAT_PEER p) seat).setB (F.CP_STAT_PEER_VALID p) true
      if c.seat < p then (c.skewBegin p).skewEmit p [0, wrap 32 (c.t32 + 18)] else c
    else c
  | none => c

/-- CREW_BULK_RX. A message that fails its CRC is asked for again, and the last one sent goes out again when the peer asks (R458; log
entry 69). -/
def execCrewBulkRx (p : Fin 4) (m : Bulk) (crcOk : Bool) (s : State) : Host.Outcome State Fault Refusal :=
  let c := s.core
  let peer := c.formed && c.peers.contains p.val
  let on := peer || c.crew.forming.any fun x => bit x.1 p
  let r :=
    if !on then c
    else if !crcOk then c.crewEmit p 0xF8 []
    else match m with
    | .changes data => if peer then c.setCrewPort p { c.crewPort p with changes := data } else c
    | .delivery le first last data => if peer then c.bulkDelivery p le first last data else c
    | .hello seat size _ => c.bulkHello p seat size
    | .again => match (c.crewPort p).bulk with
      | some fields => c.crewEmit p 0xF8 fields
      | none => c
  .next { s with core := r }

end Sys2Proof.Machine
end

