-- ==== Sys2Proof/Machine/Commands.lean ====
section
/-!
DEFINITION. The commands of spec/14_command_reference.md that no unit's own file carries out: device, job, commit, cameras
and fault tolerance, and each command row's effect as taken from a queue.
-/

namespace Sys2Proof.Machine

/-- A command row: the command taken from its queue (spec/13_host_and_command_protocol.md R355-R365). -/
def run (op : Nat) (p : Packet) (rule : Core → CmdIn → CmdOut) (s : State) : Host.Outcome State Fault Refusal :=
  .next { s with core := s.core.command op p rule }

/-! ### Device and admin (R383, R384) -/

/-- NOP: the parameter bytes come back. -/
def cmdNop (c : Core) (q : CmdIn) : CmdOut := (c, some (rDone, slice (padTo 8 q.par) 0 8))

/-- IDENTIFY: the image versions. -/
def cmdIdentify (c : Core) (_q : CmdIn) : CmdOut :=
  (c, some (rDone, leBytes 4 (c.n R.DEV_COX_VER) ++ leBytes 4 (c.n R.DEV_NIB_VER)))

/-- RESET: the device reset follows 100 µs later. -/
def cmdReset (c : Core) (q : CmdIn) : CmdOut :=
  c.judge [(q.u32 0 != 0xA55A, rBadParam)] fun c => done (c.start 0x02 q c.now)

/-- The cause of SAFE has cleared (spec/18_fault_tolerance.md R487), and no strobe generator is stuck. -/
def Core.safeCleared (c : Core) : Bool :=
  let stuck := (List.range 16).any fun b => (c.bar b).genStuck
  let ok := match c.f F.UMP_STAT_SAFE_CAUSE with
    | 1 => !c.fb F.WEB_SRC_LOST || (c.crewMember && decide (c.now < c.crew.rxAt + 100 * usec))
    | 2 => decide (16 ≤ (List.range 18).countP fun n => c.nibState n == 2 || c.nibState n == 0)
    | 4 => c.peers.all fun p => !bit (c.crewPort p).ump 0
    | 5 => !c.formed || c.peers.all fun p => c.f (F.CP_STAT_STATE p) == cpUp
    | 7 => true
    | _ => false
  ok && !stuck

/-- Slices without an owner go to spares, the lowest first. -/
def Core.fillSlices (c : Core) : Core :=
  (c.each 16 fun q c =>
    if (List.range 18).any fun n => c.nibState n == 2 && c.f (F.NIBN_STAT_SLICE n) == q then c
    else match (List.range 18).find? fun n => c.nibState n == 0 with
      | some n => (c.setF (F.NIBN_STAT_STATE n) 2).setF (F.NIBN_STAT_SLICE n) q
      | none => c).spareSync

/-- SAFE_LEAVE (R369, R371). -/
def cmdSafeLeave (c : Core) (_q : CmdIn) : CmdOut :=
  if c.safeCleared then
    let c := if c.f F.UMP_STAT_SAFE_CAUSE = 2 ∧ ¬ c.fb F.NIB_STAT_DEGRADED then c.fillSlices else c
    let c := c.setB F.WEB_SRC_LOST false
    let c := { c with ump := { c.ump with faultN := false } }.setF F.UMP_STAT_SAFE_CAUSE 0
    let c := (if c.job.isOpen then c.closeJob else c).clearTof
    done ((c.goto stIdle).health)
  else (c, some (rHwFault, []))

def execNop (p : Packet) (s : State) : Host.Outcome State Fault Refusal := run 0x00 p cmdNop s
def execIdentify (p : Packet) (s : State) : Host.Outcome State Fault Refusal := run 0x01 p cmdIdentify s
def execReset (p : Packet) (s : State) : Host.Outcome State Fault Refusal := run 0x02 p cmdReset s
def execSafeLeave (p : Packet) (s : State) : Host.Outcome State Fault Refusal := run 0x03 p cmdSafeLeave s

/-! ### Configuration and surfaces (R385-R389) -/

def execColourLoad (p : Packet) (s : State) : Host.Outcome State Fault Refusal := run 0x10 p Core.cmdColourLoad s
def execScreenLoad (p : Packet) (s : State) : Host.Outcome State Fault Refusal := run 0x11 p Core.cmdScreenLoad s
def execShadowRevert (p : Packet) (s : State) : Host.Outcome State Fault Refusal := run 0x12 p Core.cmdShadowRevert s
def execSurfRegister (p : Packet) (s : State) : Host.Outcome State Fault Refusal := run 0x22 p Core.cmdSurfRegister s
def execSurfResident (p : Packet) (s : State) : Host.Outcome State Fault Refusal := run 0x23 p Core.cmdSurfResident s
def execSurfRelease (p : Packet) (s : State) : Host.Outcome State Fault Refusal := run 0x24 p Core.cmdSurfRelease s
def execPanelQueue (p : Packet) (s : State) : Host.Outcome State Fault Refusal := run 0x25 p Core.cmdPanelQueue s

/-- SHADOW_REVERT_DONE: the revert ends (R386). -/
def execShadowRevertDone (s : State) : Host.Outcome State Fault Refusal := .next { s with core := s.core.shadowRevert }

/-- SURF_RESIDENT_DONE: the surface's digest is complete (R389). -/
def execSurfResidentDone (id : Fin 1024) (s : State) : Host.Outcome State Fault Refusal := .next { s with core := s.core.surfDone id }

/-! ### Jobs (R387-R391) -/

def execJobOpen (p : Packet) (s : State) : Host.Outcome State Fault Refusal := run 0x20 p cmdJobOpen s
def execJobClose (p : Packet) (s : State) : Host.Outcome State Fault Refusal := run 0x21 p cmdJobClose s
def execCommit (p : Packet) (s : State) : Host.Outcome State Fault Refusal := run 0x30 p cmdCommit s
def execArm (p : Packet) (s : State) : Host.Outcome State Fault Refusal := run 0x31 p cmdArm s
def execTof (p : Packet) (s : State) : Host.Outcome State Fault Refusal := run 0x32 p cmdTof s
def execDisarm (p : Packet) (s : State) : Host.Outcome State Fault Refusal := run 0x33 p cmdDisarm s
def execAbort (p : Packet) (s : State) : Host.Outcome State Fault Refusal := run 0x34 p cmdAbort s

/-! ### Nozzles and heads (R392, R393), loops (R394) -/

def execNozzleMapLoad (p : Packet) (s : State) : Host.Outcome State Fault Refusal := run 0x40 p Core.cmdNozzleMapLoad s
def execServiceEnter (p : Packet) (s : State) : Host.Outcome State Fault Refusal := run 0x41 p Core.cmdServiceEnter s
def execServiceLeave (p : Packet) (s : State) : Host.Outcome State Fault Refusal := run 0x42 p Core.cmdServiceLeave s
def execTestFire (p : Packet) (s : State) : Host.Outcome State Fault Refusal := run 0x43 p Core.cmdTestFire s
def execSpit (p : Packet) (s : State) : Host.Outcome State Fault Refusal := run 0x44 p Core.cmdSpit s
def execTestStop (p : Packet) (s : State) : Host.Outcome State Fault Refusal := run 0x45 p Core.cmdTestStop s
def execGateApply (p : Packet) (s : State) : Host.Outcome State Fault Refusal := run 0x46 p Core.cmdGateApply s
def execHeadUnblank (p : Packet) (s : State) : Host.Outcome State Fault Refusal := run 0x47 p Core.cmdHeadUnblank s
def execWdClear (p : Packet) (s : State) : Host.Outcome State Fault Refusal := run 0x48 p Core.cmdWdClear s
def execPfClear (p : Packet) (s : State) : Host.Outcome State Fault Refusal := run 0x50 p Core.cmdPfClear s
def execLoopSuspend (p : Packet) (s : State) : Host.Outcome State Fault Refusal := run 0x51 p Core.cmdLoopSuspend s

/-! ### Cameras (R394, spec/09_inspection_cameras.md R247-R251, R255) -/

/-- EXP_LOAD. -/
def cmdExpLoad (c : Core) (q : CmdIn) : CmdOut :=
  let n := q.u8 0
  let j := q.u8 1
  let u := c.cam n
  let busy := decide (n < 4) && (c.f (F.CAM_STATUS_EXPSET n) == j || u.selects.contains j || u.sched.any fun x => x.1 == j)
  let out := decide (3 < n) || decide (7 < j)
  c.judge [(busy, rBusy), (le q.par 2 6 != 0, rBadParam)] fun c =>
    match c.coxFetch (q.u64 8) 64 with
    | (c, none) => (c, some (if out then rRange else rMemory, []))
    | (c, some l) =>
      let nw := le l 6 1
      let writes := (List.range nw).map fun i => (le l (8 + 4 * i) 2, le l (10 + 4 * i) 1)
      let rsv := le l 7 1 != 0 || (List.range 14).any fun i => le l (11 + 4 * i) 1 != 0
      if 14 < nw || rsv then (c, some (rBadParam, []))
      else if out then (c, some (rRange, []))
      else
        let e : ExpSet := { expNs := le l 0 4, dgain := le l 4 2, writes := writes }
        done (c.setCam n { c.cam n with sets := Tab.set (fun _ => {}) (c.cam n).sets j e })

/-- EXP_SELECT. -/
def cmdExpSelect (c : Core) (q : CmdIn) : CmdOut :=
  let n := q.u8 0
  let j := q.u8 1
  c.judge [(decide (3 < n) || decide (7 < j), rRange)] fun c =>
    accepted ((c.setCam n { c.cam n with selects := (c.cam n).selects ++ [j] }).expSync n)

/-- SENSOR_ACCESS: `rd` is what a read brings, `nack` a NACK or a stretch beyond 1 ms. -/
def cmdSensorAccess (rd : Byte) (nack : Bool) (c : Core) (q : CmdIn) : CmdOut :=
  let n := q.u8 0
  let write := bit (q.u8 1) 0
  c.judge [(decide (n < 4) && decide ((c.cam n).selects ≠ []), rBusy), (decide (1 < q.u8 1) || q.u8 5 != 0, rBadParam),
    (decide (3 < n), rRange)] fun c =>
      if nack then (c, some (rHwFault, []))
      else if write then (c.cciOut n false (q.u16 2) [q.u8 4], some (rDone, leBytes 1 (q.u8 4)))
      else (c.cciOut n true (q.u16 2) [], some (rDone, [rd]))

/-- DPC_LOAD. -/
def cmdDpcLoad (c : Core) (q : CmdIn) : CmdOut :=
  let n := q.u8 0
  let k := q.u16 2
  c.reading [(q.u8 1 != 0 || q.u32 4 != 0, rBadParam), (decide (3 < n) || decide (8192 < k), rRange)] false (q.u64 8) (4 * k)
    fun c l =>
      let m := (List.range k).map fun i => (le l (4 * i) 2, le l (4 * i + 2) 2)
      done (c.setCam n { c.cam n with mapNext := some m })

/-- SHADING_LOAD. -/
def cmdShadingLoad (c : Core) (q : CmdIn) : CmdOut :=
  let n := q.u8 0
  c.reading [(le q.par 1 7 != 0, rBadParam), (decide (3 < n), rRange)] false (q.u64 8) 6600 fun c l =>
    done (c.setCam n { c.cam n with gridNext := some (pairs16 l) })

def execExpLoad (p : Packet) (s : State) : Host.Outcome State Fault Refusal := run 0x60 p cmdExpLoad s
def execExpSelect (p : Packet) (s : State) : Host.Outcome State Fault Refusal := run 0x61 p cmdExpSelect s
def execSensorAccess (p : Packet) (rd : Byte) (nack : Bool) (s : State) : Host.Outcome State Fault Refusal :=
  run 0x62 p (cmdSensorAccess rd nack) s
def execDpcLoad (p : Packet) (s : State) : Host.Outcome State Fault Refusal := run 0x63 p cmdDpcLoad s
def execShadingLoad (p : Packet) (s : State) : Host.Outcome State Fault Refusal := run 0x64 p cmdShadingLoad s

/-! ### SWITCH_BACK (R397, R399) -/

/-- The conditions of ENC0's return (spec/02_web_motion.md R66). -/
def Core.encClean (c : Core) : Bool :=
  let u := c.enc 0
  let quiet := match u.lastSuspectFault with
    | some t => decide (t + sec ≤ c.now)
    | none => true
  !c.fb (F.ENC_STATUS_LOS 0) && !c.fb (F.ENC_STATUS_AMP_FAULT 0) && decide (u.cleanSince + sec ≤ c.now) && quiet &&
    decide ((c.i R.WEB_TRACK_DEV).natAbs ≤ c.n R.WEB_TRACK_TOL)

/-- A CLASS, INDEX or SUB out of range (R397). -/
def unitRange (cls idx sub : Nat) : Bool :=
  match cls with
  | 0 => decide (17 < idx) || sub != 0
  | 1 => decide (1 < idx) || sub != 0
  | 2 => decide (3 < idx) || decide (3 < sub)
  | 3 => decide (63 < idx) || sub != 0
  | 4 => idx != 0 || sub != 0
  | _ => true

/-- SWITCH_BACK. -/
def cmdSwitchBack (c : Core) (q : CmdIn) : CmdOut :=
  let cls := q.u8 0
  let idx := q.u8 1
  let sub := q.u8 2
  let out := unitRange cls idx sub
  let legal := out || match cls with
    | 0 | 1 => c.isOpenUnit cls idx
    | 2 => c.rankState (4 * idx + sub) == 4
    | 3 => c.f (F.QLN_STATE_MODE idx) == 1
    | _ => c.fb F.WEB_SRC_FAILED_OVER
  let busy := !out && match cls with
    | 0 | 1 => c.ump.returning.contains (cls, idx) || c.selfTesting cls idx sub
    | 2 => c.rankState (4 * idx + sub) == 6 || c.selfTesting cls idx sub || (c.asyncOf 0x70).isSome
    | _ => false
  c.judge [(busy, rBusy), (q.u8 3 != 0 || !legal, rBadParam), (out, rRange)]
    fun c => match cls with
    | 0 | 1 => accepted (c.returnUnit cls idx)
    | 2 => accepted (c.returnRank (4 * idx + sub))
    | 3 => c.groupBack idx
    | _ => if c.encClean then done { c with web := { c.web with switchBack := true } } else (c, some (rHwFault, []))

def execSwitchBack (p : Packet) (s : State) : Host.Outcome State Fault Refusal := run 0xA0 p cmdSwitchBack s

end Sys2Proof.Machine
end

