-- ==== Sys2Proof/Machine/Dma.lean ====
section
/-!
DEFINITION. The DMA engine (spec/16_dma_and_compression.md R427-R437): descriptors, bursts, request lines, completion, bus
errors, resumption and appending; and the EVZ engine's jobs (R441-R445).
-/

namespace Sys2Proof.Machine

/-! ### Channels and their registers (R446) -/

def dIdle : Nat := 0
def dRunning : Nat := 1
def dPaused : Nat := 2
def dStopped : Nat := 3
def dDone : Nat := 4
def dRefused : Nat := 5

def Core.dch (c : Core) (n : Nat) : DmaChan := Tab.get (fun _ => {}) c.dma.chans n
def Core.setDch (c : Core) (n : Nat) (u : DmaChan) : Core :=
  { c with dma := { c.dma with chans := Tab.set (fun _ => {}) c.dma.chans n u } }
def Core.dmaSt (c : Core) (n : Nat) : Nat := c.f (F.DMAN_STATE_STATE n)
def Core.dmaBound (c : Core) (n : Nat) : Bool := c.fb (F.DMAN_STATE_BOUND n)
def Core.setJob (c : Core) (j : EvzJob) : Core := { c with dma := { c.dma with job := some j } }

/-- A count register of 32 bits that saturates. -/
def sat32 (n : Nat) : Nat := min n (2 ^ 32 - 1)

/-- A channel's counts in its registers. -/
def Core.dmaSync (c : Core) (n : Nat) : Core :=
  let u := c.dch n
  (c.setN (R.DMAN_REMAIN n) (sat32 u.remain)).setN (R.DMAN_ACKED n) (sat32 u.acked)

/-- EVZ_STAT. -/
def Core.evzSync (c : Core) : Core :=
  match c.dma.job with
  | none => c.setF F.EVZ_STAT_STATE 0
  | some j =>
    c.setF F.EVZ_STAT_STATE (if c.dmaSt j.outCh = dPaused then 2 else if c.dmaSt j.inCh = dPaused then 3 else 1)

/-- A channel's state, and DMA_STAT. -/
def Core.dmaGo (c : Core) (n st : Nat) : Core :=
  let c := c.setF (F.DMAN_STATE_STATE n) st
  let on := b2n (st == dRunning || st == dPaused)
  let c := c.setF F.DMA_STAT_RUNNING (setBits (c.f F.DMA_STAT_RUNNING) n 1 on)
  (c.setF F.DMA_STAT_STOPPED (setBits (c.f F.DMA_STAT_STOPPED) n 1 (b2n (st == dStopped)))).evzSync

/-- A bit of the interrupt registers sets: the DMA vector fires at once (R432, spec/21_register_map.md R552). -/
def Core.dmaIrq (c : Core) (f : Fld) (n : Nat) : Core :=
  if bit (c.f f) n then c
  else
    let c := c.setF f (setBits (c.f f) n 1 1)
    if c.fb F.DMA_IRQ_CFG_EN then c.fireVec (c.f F.DMA_IRQ_CFG_VEC) else c

/-! ### Descriptors (R427-R429, R436) -/

def DmaDesc.total (d : DmaDesc) : Nat := d.srcLen * d.srcLines

/-- The fields of a descriptor (R428). -/
def parseDesc (l : List Byte) : DmaDesc :=
  let k := le l 48 4
  { src := le l 0 8, dst := le l 8 8, srcLen := le l 16 4, srcStride := le l 20 4, dstLen := le l 24 4
    dstStride := le l 28 4, srcLines := le l 32 3, dstLines := le l 36 3, next := le l 40 8
    srcSpace := bits k 0 2, dstSpace := bits k 2 2, req := bits k 4 5, reqEn := bit k 9, burst := 64 * 2 ^ bits k 10 2
    halfIrq := bit k 12, fullIrq := bit k 13, last := bit k 14, tag := bits k 16 16 }

/-- The bytes from the first to the last of a side. -/
def extent (len stride lines : Nat) : Nat := (lines - 1) * stride + len

def oneDim (len stride lines : Nat) : Bool := lines == 1 || stride == len

/-- A port side that breaks R429: `dir` tells a destination. -/
def badPort (d : DmaDesc) (dir : Bool) : Bool :=
  let (addr, lines, stride) := if dir then (d.dst, d.dstLines, d.dstStride) else (d.src, d.srcLines, d.srcStride)
  let line := if dir then d.req == 16 else d.req == 17 || (decide (24 ≤ d.req) && decide (d.req < 28))
  addr != 0 || decide (1 < lines) || stride != 0 || !d.reqEn || !line

/-- The two sides share a byte of one space. -/
def DmaDesc.overlaps (d : DmaDesc) : Bool :=
  d.srcSpace == d.dstSpace && d.srcSpace != 3 &&
    decide (d.src < d.dst + extent d.dstLen d.dstStride d.dstLines) &&
    decide (d.dst < d.src + extent d.srcLen d.srcStride d.srcLines)

/-- The channel runs from the last burst to the first (R436). -/
def DmaDesc.descending (d : DmaDesc) : Bool := d.overlaps && decide (d.src < d.dst)

def Core.sideRange (c : Core) (space addr len stride lines : Nat) : Bool :=
  match space with
  | 0 => !c.mayReach addr (extent len stride lines)
  | 2 => decide (0x820000 < addr + extent len stride lines)
  | _ => false

/-- The checks of R429 in their order, for a descriptor's bytes at its encoded address. -/
def Core.descChecks (c : Core) (addr : Nat) (l : List Byte) : List (Bool × Nat) :=
  let d := parseDesc l
  let rsv := le l 35 1 != 0 || le l 39 1 != 0 || bits d.next 1 5 != 0 || bit (le l 48 4) 15 || le l 52 8 != 0 || le l 60 4 != 0
  let m := fun (x : Nat) => x % 64 != 0
  [(rsv || d.srcLines == 0 || d.dstLines == 0 || d.srcLen * d.srcLines != d.dstLen * d.dstLines ||
      (d.srcSpace == 3 && d.dstSpace == 3) || (d.srcSpace == 3 && badPort d false) || (d.dstSpace == 3 && badPort d true),
      rBadParam),
   (c.sideRange d.srcSpace d.src d.srcLen d.srcStride d.srcLines || c.sideRange d.dstSpace d.dst d.dstLen d.dstStride d.dstLines,
      rRange),
   (bits addr 1 5 != 0 || m d.src || m d.dst || m d.srcLen || m d.dstLen || d.srcLen == 0 || d.dstLen == 0 ||
      (decide (1 < d.srcLines) && m d.srcStride) || (decide (1 < d.dstLines) && m d.dstStride), rAlign),
   ((d.overlaps && !(oneDim d.srcLen d.srcStride d.srcLines && oneDim d.dstLen d.dstStride d.dstLines)) ||
      (decide (1 < d.dstLines) && decide (d.dstStride < d.dstLen)), rOverlap)]

/-- The shape that a bound channel's descriptors must have (R443): `out` the output channel, `dec` decompressing. -/
def boundShape (d : DmaDesc) (out dec : Bool) : Bool :=
  if out then d.srcSpace == 3 && d.req == 17 && oneDim d.dstLen d.dstStride d.dstLines
  else d.dstSpace == 3 && d.req == 16 && (!dec || oneDim d.srcLen d.srcStride d.srcLines)

/-- The 64 bytes at an encoded descriptor address that channel `n` reads; none where the data is poisoned, or the read fails on the
host link (R429). -/
def Core.descRead (c : Core) (n addr : Nat) (hostFail : Bool) : Core × Option (List Byte) :=
  let a := addr / 64 * 64
  let c := if bit addr 0 then c else c.byReq (32 + n)
  if bit addr 0 then
    if hostFail then ((c.perf 204).inc R.HI_PCIE_UE_CNT, none) else (c.perf 204, some (c.rdHost a 64))
  else if c.mayReach a 64 then c.fetch a 64
  else (c.decodePoison a, none)

/-! ### The EVZ engine (R441-R444) -/

/-- The engine may take a burst of input. -/
def EvzJob.takes (j : EvzJob) : Bool := j.ended.isNone && !j.inEnd && !(j.dec && j.st.phase == .done)

/-- Nothing of the job's output remains. -/
def EvzJob.clear (j : EvzJob) : Bool := j.items.isEmpty && j.part.isEmpty && j.out.isEmpty

/-- Bits put into the output buffer; whole bytes become output. -/
def EvzJob.putBits (j : EvzJob) (b : List Bool) : EvzJob :=
  let all := j.part ++ b
  let k := all.length / 8 * 8
  { j with room := j.room - b.length, part := all.drop k, out := j.out ++ packBits k (all.take k) }

/-- The encoder writes what the buffer has room for (R441), with fuel. -/
def EvzJob.place : Nat → EvzJob → EvzJob
  | 0, j => j
  | f + 1, j =>
    match j.items with
    | [] => j
    | .byte b :: rest => if 8 ≤ j.room then EvzJob.place f ({ j with items := rest }.putBits (natBits 8 b.toNat)) else j
    | .pad :: rest => EvzJob.place f ({ j with items := rest }.putBits (List.replicate (j.room % 64) false))
    | .code w x :: rest =>
      if w + 16 ≤ j.room then EvzJob.place f ({ j with items := rest }.putBits (natBits w x))
      else if w ≤ j.room then j.putBits (natBits w 258 ++ List.replicate (j.room - w) false)
      else j

/-- One block handed to the encoder. -/
def EvzJob.encode (j : EvzJob) (last : Bool) (data : List Byte) : EvzJob :=
  let plan := evzPlan data
  let body : List EvzItem := match plan with
    | none => data.map EvzItem.byte
    | some codes => codes.map fun x => EvzItem.code x.1 x.2
  let j := { j with items := j.items ++ (evzHeader last plan.isNone data.length).map EvzItem.byte ++ body ++ [EvzItem.pad]
                    blocks := j.blocks + 1, raws := j.raws + b2n plan.isNone }
  j.place (j.items.length + 1)

/-- Blocks of 65,536 bytes cut from the input; a block that may be the last waits for more (R444). -/
def EvzJob.cut : Nat → EvzJob → EvzJob
  | 0, j => j
  | f + 1, j =>
    if 65536 < j.block.length then EvzJob.cut f ({ j with block := j.block.drop 65536 }.encode false (j.block.take 65536)) else j

/-- The job's counts in the registers. -/
def Core.jobRegs (c : Core) (old j : EvzJob) : Core :=
  let c := (c.set64 R.EVZ_IN_BYTES_LO j.bytesIn).set64 R.EVZ_OUT_BYTES_LO j.bytesOut
  let c := (c.setN R.EVZ_BLOCKS j.blocks).addN R.EVZ_RAW_CNT (j.raws - old.raws)
  (c.perfAdd 224 (j.bytesIn / 64 - old.bytesIn / 64)).perfAdd 225 (j.bytesOut / 64 - old.bytesOut / 64)

/-- Where the job stands after the engine has worked: complete, or paused for output once output remains beyond the end of
its chain (R444). -/
def Core.evzCheck (c : Core) : Core :=
  match c.dma.job with
  | none => c
  | some j =>
    if j.ended.isSome then c
    else if j.final && j.clear then c.setJob { j with ended := some (rDone, 0, 0) }
    else if j.outEnd && !j.clear && c.dmaSt j.outCh == dRunning then
      ((c.setJob { j with outEnd := false }).dmaGo j.outCh dPaused).post 0x0B05 31 0
    else c

/-- Bytes taken into port 16. -/
def Core.evzFeed (c : Core) (l : List Byte) : Core :=
  match c.dma.job with
  | none => c
  | some j =>
    let j1 := { j with bytesIn := j.bytesIn + l.length }
    if j.dec then
      let d0 := { j1.st with buf := j1.st.buf ++ l }
      let (d, o) := EvzDec.run d0.fuel d0 []
      let j2 := { j1 with st := d, out := j1.out ++ o, blocks := d.blocks, raws := d.rawBlocks
                          final := d.phase == .done && d.err == 0
                          ended := if d.err = 0 then none else some (rBadParam, d.err, d.errOff) }
      let c := (c.setJob j2).jobRegs j j2
      let c := if d.err = 0 then c else (c.inc R.EVZ_ERR_CNT).post 0x0B06 31 d.err
      c.evzCheck
    else
      let j2 := { j1 with block := j1.block ++ l }
      let j3 := j2.cut (j2.block.length / 65536 + 1)
      ((c.setJob j3).jobRegs j j3).evzCheck

/-- The input of a compression ends: the last block carries LAST. -/
def Core.evzInputEnd (c : Core) : Core :=
  match c.dma.job with
  | none => c
  | some j =>
    let j2 := { { j with block := [], inEnd := true }.encode true j.block with final := true }
    ((c.setJob j2).jobRegs j j2).evzCheck

/-! ### Ports (R430) -/

/-- The bytes ready at the port of a request line. -/
def Core.portBytes (c : Core) (line : Nat) : List Byte :=
  if line = 17 then (match c.dma.job with
    | some j => if j.ended.isNone then j.out else []
    | none => [])
  else if 24 ≤ line ∧ line < 28 then (c.cam (line - 24)).tapBuf
  else []

/-- Bytes taken from a port; the tap's buffer fills up behind them (R262). -/
def Core.portTake (c : Core) (line k : Nat) : Core :=
  if line = 17 then
    match c.dma.job with
    | some j =>
      let j2 := { j with out := j.out.drop k, bytesOut := j.bytesOut + k }
      ((c.setJob j2).jobRegs j j2)
    | none => c
  else if 24 ≤ line ∧ line < 28 then
    let u := c.cam (line - 24)
    (c.setCam (line - 24) { u with tapBuf := u.tapBuf.drop k }).tapFill (line - 24)
  else c

/-! ### Bus errors (R433-R435) -/

/-- A bus error of channel `n` at an address: every channel stops. -/
def Core.busError (c : Core) (n space addr : Nat) : Core :=
  let c := c.each 16 fun m c =>
    if c.dmaSt m = dRunning ∨ c.dmaSt m = dPaused then
      (c.setDch m { c.dch m with paused := c.dmaSt m == dPaused }).dmaGo m dStopped
    else c
  let c := ((c.setB (F.DMAN_STATE_ERR n) true).setF (F.DMAN_STATE_ERR_SPACE n) space).set64 (R.DMAN_ERR_ADDR_LO n) addr
  let c := (c.setF F.DMA_ERR_CH_CH n).setB F.DMA_ERR_CH_VALID true
  let c := (c.inc R.DMA_BUS_ERR_CNT).dmaIrq F.DMA_IRQ_ERR_ERR n
  let c := c.post 0x0B03 n (addr % 2 ^ 32)
  -- a poisoned read of the engine's own input ends its job (R445)
  match c.dma.job with
  | some j => if j.inCh = n ∧ space = 0 ∧ j.ended.isNone then c.setJob { j with ended := some (rMemory, 0, 0) } else c
  | none => c

/-! ### Bursts (R430-R432, R436) -/

/-- The address of byte `i` of a side. -/
def sideAddr (addr len stride i : Nat) : Nat := addr + i / len * stride + i % len

/-- The pieces of at most 64 bytes that bytes `i` to `i + n - 1` of a transfer make: offset and length. -/
def pieces (i n : Nat) : List (Nat × Nat) :=
  (List.range (ceilDiv n 64)).map fun j => (i + 64 * j, min 64 (n - 64 * j))

/-- The accesses that a burst needs on a side: it is split at the ends of lines. -/
def accesses (len i n : Nat) : Nat := (i + n - 1) / len - i / len + 1

/-- A piece read from a space; none for poison. -/
def Core.dmaRead (c : Core) (ch space a n : Nat) : Core × Option (List Byte) :=
  match space with
  | 0 => (c.byReq (32 + ch)).fetch a n
  | 1 => (c, some (c.rdHost a n))
  | _ => (c, some (((List.range (n / 4)).flatMap fun j => leBytes 4 (c.tableRead (a + 4 * j)))))

/-- A piece written to a space. -/
def Core.dmaWrite (c : Core) (ch space a : Nat) (l : List Byte) : Core :=
  match space with
  | 0 =>
    if c.mayReach a l.length then (c.byReq (32 + ch)).put a l
    else
      let past := c.overAt a l.length
      ((c.byReq (32 + ch)).put a (l.take (past - a))).decodeErr past
  | 1 => c.wrHost a l
  | _ => c.tableWrite a ((List.range (l.length / 4)).map fun j => le l (4 * j) 4)

/-- Pieces of the source read in order, up to the first that is poisoned. -/
def Core.dmaGather (c : Core) (n : Nat) (d : DmaDesc) : List (Nat × Nat) → Core × List (List Byte) × Option Nat
  | [] => (c, [], none)
  | (i, k) :: rest =>
    let a := sideAddr d.src d.srcLen d.srcStride i
    match c.dmaRead n d.srcSpace a k with
    | (c, none) => (c, [], some a)
    | (c, some l) =>
      let (c, ls, bad) := Core.dmaGather c n d rest
      (c, l :: ls, bad)

/-- The burst that comes next: where it begins in the transfer, and its bytes. -/
def DmaChan.burstAt (u : DmaChan) (d : DmaDesc) : Nat × Nat :=
  let rest := d.total - u.acked
  if d.descending then
    let k := if rest % d.burst = 0 then min d.burst rest else rest % d.burst
    (rest - k, k)
  else (u.acked, min d.burst rest)

/-- How many bytes the source has for a burst of `k`: a port gives fewer only at the end of its job's output. -/
def Core.burstReady (c : Core) (u : DmaChan) (d : DmaDesc) (k : Nat) : Nat :=
  if d.srcSpace ≠ 3 then k
  else
    let have_ := u.kept.length + (c.portBytes d.req).length
    if k ≤ have_ then k
    else match c.dma.job with
      | some j => if d.req = 17 ∧ j.final ∧ j.items = [] then have_ else 0
      | none => 0

/-- The channel that takes a line's requests: the lowest-numbered one that runs and names it (R431). -/
def Core.taker (c : Core) (line : Nat) : Option Nat :=
  (List.range 16).find? fun n =>
    match (c.dch n).desc with
    | some d => c.dmaSt n == dRunning && d.reqEn && d.req == line
    | none => false

/-- The next burst of a channel can move as far as its source goes. -/
def Core.burstDue (c : Core) (n : Nat) : Bool :=
  let u := c.dch n
  match u.desc with
  | some d => c.burstReady u d (u.burstAt d).2 != 0
  | none => false

/-- The unit of a port's line has a burst of `k` ready: the engine's last output may be shorter. -/
def Core.portReady (c : Core) (line k : Nat) : Bool :=
  let have_ := (c.portBytes line).length
  decide (0 < k ∧ k ≤ have_) || (match c.dma.job with
    | some j => line == 17 && j.final && j.items == [] && have_ != 0
    | none => false)

/-- The unit on a line can raise it (R430): software; the engine while it takes input, which it does not while its output is paused or
stopped (R435, R444); the engine or a tap with a burst ready of the channel that takes it, be its port the source or not. -/
def Core.canRaise (c : Core) (line : Nat) : Bool :=
  if line < 16 then true
  else if line = 16 then (match c.dma.job with
    | some j => j.takes && c.dmaSt j.outCh == dRunning
    | none => false)
  else match c.taker line with
    | some n => c.burstDue n && (match (c.dch n).desc with
      | some d => d.srcSpace == 3 || c.portReady line ((c.dch n).burstAt d).2
      | none => false)
    | none => c.portBytes line != []

/-- The end of a channel's chain (R432, R437, R444). -/
def Core.chainEnd (c : Core) (n : Nat) (tag : Nat) : Core :=
  let finish := fun (c : Core) =>
    (c.dmaGo n dDone).post 0x0B01 n (tag * 65536 + c.n (R.DMAN_DONE_CNT n) % 65536)
  match c.dma.job with
  | none => finish c
  | some j =>
    if j.inCh = n then
      if !j.dec then finish c.evzInputEnd
      else if j.st.phase = .done then finish c
      else (c.dmaGo n dPaused).post 0x0B05 31 1
    else if j.outCh = n then
      if j.final && j.clear then (finish c).evzCheck else (c.setJob { j with outEnd := true }).evzCheck
    else finish c

/-- A descriptor is complete: interrupt, count, and NEXT or the end of the chain. -/
def Core.descDone (c : Core) (n : Nat) (d : DmaDesc) : Core :=
  let c := if d.fullIrq then c.dmaIrq F.DMA_IRQ_HF_FULL n else c
  let c := c.inc (R.DMAN_DONE_CNT n)
  let u := c.dch n
  if !d.last then c.setDch n { u with desc := none, fetch := some d.next }
  else match u.append with
    | some a =>
      (c.setDch n { u with desc := none, fetch := some a, append := none }).setB (F.DMAN_STATE_APPEND_PEND n) false
    | none => (c.setDch n { u with desc := none }).chainEnd n d.tag

/-- What the landed bytes of a channel bring: its half interrupt, and the end of the descriptor. -/
def Core.dmaProgress (c : Core) (n : Nat) (d : DmaDesc) : Core :=
  let u := c.dch n
  let c := if !u.half && decide (d.total ≤ 2 * u.acked) then
      let c := c.setDch n { u with half := true }
      if d.halfIrq then c.dmaIrq F.DMA_IRQ_HF_HALF n else c
    else c
  if d.total ≤ u.acked then c.descDone n d else c

/-- `k` bytes from offset `i` of the transfer have been read: they are written, and the counts follow. -/
def Core.dmaLand (c : Core) (n : Nat) (d : DmaDesc) (i : Nat) (l : List Byte) : Core :=
  let c := if d.dstSpace = 3 then c.evzFeed l
    else
      let c := if d.dstSpace = 1 then c.perfAdd 205 (accesses d.dstLen i l.length) else c
      (pieces 0 l.length).foldl (fun c p =>
        c.dmaWrite n d.dstSpace (sideAddr d.dst d.dstLen d.dstStride (i + p.1)) (slice l p.1 p.2)) c
  let u := c.dch n
  let acked := u.acked + l.length
  let c := c.perfAdd (208 + n) (acked / 64 - u.acked / 64)
  let c := (c.setDch n { u with acked := acked, remain := d.total - acked }).dmaSync n
  c.dmaProgress n d

/-- The next burst of a running channel moves; nothing where its port has too few bytes. -/
def Core.dmaBurst (c : Core) (n : Nat) : Core :=
  let u := c.dch n
  match u.desc with
  | none => c
  | some d =>
    let (i, k) := u.burstAt d
    let k := c.burstReady u d k
    if c.dmaSt n ≠ dRunning ∨ k = 0 then c
    else if d.srcSpace = 3 then
      let all := u.kept ++ c.portBytes d.req
      let c := c.setDch n { u with kept := u.kept.drop k }
      (c.portTake d.req (k - u.kept.length)).dmaLand n d i (all.take k) |>.evzCheck
    else
      let c := if d.srcSpace = 1 then c.perfAdd 204 (accesses d.srcLen i k) else c
      match c.dmaGather n d (pieces i k) with
      | (c, ls, none) => c.dmaLand n d i ls.flatten
      | (c, _, some a) =>
        ((c.setDch n { u with remain := u.remain - k, owed := if d.reqEn then k else 0 }).dmaSync n).busError n d.srcSpace a

/-- Bursts of a free-running channel up to a count of landed bytes, with fuel. -/
def Core.dmaRunTo : Nat → Core → Nat → Nat → Core
  | 0, c, _, _ => c
  | f + 1, c, n, goal =>
    match (c.dch n).desc with
    | some d => if !d.reqEn && decide ((c.dch n).acked < goal) && c.dmaSt n == dRunning then Core.dmaRunTo f (c.dmaBurst n) n goal else c
    | none => c

/-! ### Starting and fetching (R429) -/

/-- A checked descriptor becomes the one under way. -/
def Core.dmaLoad (c : Core) (n addr : Nat) (d : DmaDesc) : Core :=
  let u := c.dch n
  let c := c.setDch n { u with desc := some d, remain := d.total, acked := 0, half := false, fetch := none, kept := [] }
  let c := ((c.set64 (R.DMAN_DESC_LO n) addr).setN (R.DMAN_TAG n) d.tag).setB (F.DMAN_STATE_DESCENDING n) d.descending
  let c := (c.dmaSync n).dmaGo n dRunning
  match c.dma.job with
  | some j =>
    if j.outCh = n ∧ j.ended.isNone then
      let j2 := { j with room := 8 * d.total, bufs := j.bufs + 1, outEnd := false }
      (c.setJob (j2.place (j2.items.length + 1))).evzCheck
    else c
  | none => c

/-- A chain started on a channel: kept progress is discarded. -/
def Core.dmaStart (c : Core) (n addr : Nat) (d : DmaDesc) : Core :=
  let c := c.setDch n {}
  let c := (c.setB (F.DMAN_STATE_ERR n) false).setB (F.DMAN_STATE_APPEND_PEND n) false
  (c.setF (F.DMAN_STATE_CODE n) 0).dmaLoad n addr d

/-- The rules that a later descriptor of a bound channel breaks (R443). -/
def Core.boundBad (c : Core) (n : Nat) (d : DmaDesc) : Bool :=
  match c.dma.job with
  | some j => (j.inCh == n && !boundShape d false j.dec) || (j.outCh == n && !boundShape d true j.dec)
  | none => false

/-- A refused descriptor: REFUSED, 0x0B02, and the end of a job whose channel it was. -/
def Core.dmaRefuse (c : Core) (n st : Nat) : Core :=
  let c := c.setDch n { c.dch n with fetch := none }
  let c := ((c.setF (F.DMAN_STATE_CODE n) st).dmaGo n dRefused).post 0x0B02 n st
  match c.dma.job with
  | some j =>
    if (j.inCh = n ∨ j.outCh = n) ∧ j.ended.isNone then c.setJob { j with ended := some (rBadParam, 0, 0) } else c
  | none => c

/-- The descriptor that a channel waits for is fetched and checked; a channel whose chain has ended goes on at the address that it
holds (R437). -/
def Core.dmaFetch (c : Core) (n : Nat) : Core :=
  let u := c.dch n
  let held := u.fetch.isNone && u.desc.isNone
  match if held then u.append else u.fetch with
  | none => c
  | some a =>
    let c := if held ∧ c.dmaSt n = dRunning then
        (c.setDch n { u with fetch := some a, append := none }).setB (F.DMAN_STATE_APPEND_PEND n) false
      else c
    if c.dmaSt n ≠ dRunning then c
    else match c.descRead n a false with
      | (c, none) => c.busError n 0 (a / 64 * 64)
      | (c, some l) =>
        match checks ((c.descChecks a l).take 1 ++ [(c.boundBad n (parseDesc l), rBadParam)] ++ (c.descChecks a l).drop 1) with
        | some st => c.dmaRefuse n st
        | none => c.dmaLoad n a (parseDesc l)

/-! ### Requests (R430, R431) -/

/-- The requests waiting on a line. -/
def reqCount (t : Tab Nat) (line : Nat) : Nat := Tab.get (fun _ => 0) t line

/-- A request counted, up to 16 a line. -/
def reqRaise (t : Tab Nat) (line : Nat) : Tab Nat := Tab.set (fun _ => 0) t line (min 16 (reqCount t line + 1))

/-- A request taken. -/
def reqTake (t : Tab Nat) (line : Nat) : Tab Nat := Tab.set (fun _ => 0) t line (reqCount t line - 1)

/-- A line with a request that a channel can take. -/
def Core.reqDue (c : Core) (t : Tab Nat) : Option (Nat × Nat) :=
  (List.range 32).findSome? fun line =>
    if reqCount t line = 0 ∨ (line = 16 ∧ c.canRaise 16 = false) then none
    else ((c.taker line).filter c.burstDue).map fun n => (line, n)

/-- Requests served while channels can take them, with fuel. -/
def dmaServe : Nat → Tab Nat → Core → Tab Nat × Core
  | 0, t, c => (t, c)
  | f + 1, t, c =>
    match c.reqDue t with
    | some (line, n) => dmaServe f (reqTake t line) (c.dmaBurst n)
    | none => (t, c)

/-- Every request that waits is offered to the channels: 32 lines of at most 16. -/
def State.serve (s : State) : State :=
  let r := dmaServe 513 s.reqs s.core
  { s with reqs := r.1, core := r.2 }

/-- Lines raised, each once, and served. -/
def State.raise (s : State) (lines : List Nat) : State :=
  State.serve { s with reqs := (lines.filter s.core.canRaise).foldl reqRaise s.reqs }

/-! ### The commands of the engine -/

/-- DMA_REQUEST: a unit raises its line. -/
def execDmaRequest (line : Fin 32) (s : State) : Host.Outcome State Fault Refusal := .next (s.raise [line.val])

/-- A write of DMA_SWREQ: a 1 in bit i sets it, and raises line i once (spec/00_scope.md R4, R430). -/
def State.dmaSwreq (s : State) (w : Win) (v : Word) : State :=
  let s' := { s with core := s.core.hostReg w R.DMA_SWREQ v fun c => c.setR R.DMA_SWREQ (c.r R.DMA_SWREQ ||| (v &&& 0xFFFF)) }
  if s.core.pwr.held = 0 ∧ s.core.winCut w = false ∧ s.core.blockAnswers R.DMA_SWREQ then s'.raise ((List.range 16).filter (bit v.toNat)) else s'

/-- DMA_SWREQ_WRITE. -/
def execDmaSwreqWrite (v : Word) (s : State) : Host.Outcome State Fault Refusal := .next (s.dmaSwreq .host0 v)

/-- DMA_DESC_FETCH. -/
def execDmaDescFetch (ch : Fin 16) (s : State) : Host.Outcome State Fault Refusal :=
  .next (State.serve { s with core := s.core.dmaFetch ch })

/-- DMA_HALF: a free-running channel moves on to half its descriptor; a paced one reaches it by its requests. -/
def execDmaHalf (ch : Fin 16) (s : State) : Host.Outcome State Fault Refusal :=
  let c := s.core
  .next { s with core := match (c.dch ch).desc with
    | some d => Core.dmaRunTo (d.total / 64 + 1) c ch (ceilDiv d.total 2)
    | none => c }

/-- DMA_DESC_COMPLETE: a free-running channel moves the rest of its descriptor. -/
def execDmaDescComplete (ch : Fin 16) (s : State) : Host.Outcome State Fault Refusal :=
  let c := s.core
  .next { s with core := match (c.dch ch).desc with
    | some d => Core.dmaRunTo (d.total / 64 + 1) c ch d.total
    | none => c }

/-- DMA_BUS_ERROR: an access of the channel failed after it had issued `issued` bytes beyond those landed; bytes issued
from a port stay in the channel's buffer (R434). A failed host request is counted (spec/13_host_and_command_protocol.md R352). -/
def Core.dmaBusError (c : Core) (n : Nat) (host : Bool) (addr issued : Nat) : Core :=
  let u := c.dch n
  let st := c.dmaSt n
  if st ≠ dRunning ∧ st ≠ dPaused ∧ st ≠ dStopped then c
  else
    let c := match u.desc with
      | none => c
      | some d =>
        let k := min issued (d.total - u.acked)
        let port := if d.srcSpace = 3 then (c.portBytes d.req).take (min k 2048 - u.kept.length) else []
        let c := if d.srcSpace = 3 then c.portTake d.req port.length else c
        (c.setDch n { u with remain := d.total - u.acked - k, kept := u.kept ++ port, owed := if d.reqEn then max u.owed k else 0 }).dmaSync n
    let c := if host then c.inc R.HI_PCIE_UE_CNT else c
    c.busError n (b2n host) addr

def execDmaBusError (ch : Fin 16) (host : Bool) (addr : BitVec 64) (issued : Nat) (s : State) :
    Host.Outcome State Fault Refusal :=
  .next { s with core := s.core.dmaBusError ch host addr.toNat issued }

/-- Paced bursts whose requests are spent moved again, with fuel (R434, R435). -/
def Core.dmaRedo : Nat → Core → Nat → Nat → Core
  | 0, c, _, _ => c
  | f + 1, c, n, goal =>
    if (c.dch n).desc.isSome && c.dmaSt n == dRunning && decide ((c.dch n).acked < goal) then Core.dmaRedo f (c.dmaBurst n) n goal
    else c

/-- The bytes that each running channel owes are moved again; the engine's input waits while its job does (R435). -/
def Core.dmaOwed (c : Core) : Core :=
  c.each 16 fun n c =>
    let u := c.dch n
    let waits : Bool := match c.dma.job with
      | some j => j.inCh == n && !(j.takes && c.dmaSt j.outCh == dRunning)
      | none => false
    if u.owed = 0 ∨ c.dmaSt n ≠ dRunning ∨ waits then c
    else
      let d := Core.dmaRedo (u.owed / 64 + 1) (c.setDch n { u with owed := 0 }) n (u.acked + u.owed)
      let v := d.dch n
      if d.dmaSt n = dStopped then d.setDch n { v with owed := max v.owed (u.acked + u.owed - v.acked) } else d

/-- The write of DMAn_APPEND_HI (R437). A bound channel that still runs at the end of its chain holds the address until it fetches
there. -/
def Core.dmaAppend (c : Core) (n : Nat) (w : Win) (hi : Word) : Core :=
  let lo := c.lowOf w (R.DMAN_APPEND_LO n)
  let c := c.stageUsed w (R.DMAN_APPEND_LO n)
  let a := lo.toNat + hi.toNat * 2 ^ 32
  let u := c.dch n
  if c.dmaSt n = dPaused then ((c.setDch n { u with fetch := some a }).dmaGo n dRunning).dmaOwed
  else if c.dmaSt n = dRunning ∧ u.append.isNone then
    let c := (c.setDch n { u with append := some a }).setB (F.DMAN_STATE_APPEND_PEND n) true
    match c.dma.job with
    | some j => if j.outCh = n then c.setJob { j with outEnd := false } else c
    | none => c
  else c.inc R.DMA_APPEND_IGN_CNT

/-- DMA_APPEND_WRITE. -/
def execDmaAppendWrite (ch : Fin 16) (w : Win) (hi : Word) (s : State) : Host.Outcome State Fault Refusal :=
  .next { s with core := s.core.hostReg w (R.DMAN_APPEND_HI ch) hi fun c => c.dmaAppend ch w hi }

/-! ### The commands of the cox (R395) -/

/-- The fetch of a chain's first descriptor failed: a bus error, and MEMORY for poison or HW_FAULT for the host link (R429). -/
def Core.descLost (c : Core) (n addr : Nat) : CmdOut :=
  (c.busError n (addr % 2) (addr / 64 * 64), some (if bit addr 0 then rHwFault else rMemory, []))

/-- DMA_START. -/
def Core.cmdDmaStart (c : Core) (q : CmdIn) : CmdOut :=
  let n := q.u8 0
  let a := q.u64 8
  match checks [(decide (n < 16) && (c.dmaSt n == dRunning || c.dmaSt n == dPaused || c.dmaBound n), rBusy),
      (le q.par 1 7 != 0, rBadParam)] with
  | some st => (c, some (st, []))
  | none =>
    match c.descRead n a q.hostFail with
    | (c, none) => if 15 < n then (c, some (rRange, [])) else c.descLost n a
    | (c, some l) =>
      let d := c.descChecks a l
      c.judge (d.take 1 ++ [(decide (15 < n), rRange)] ++ d.drop 1) fun c => accepted (c.dmaStart n a (parseDesc l))

/-- DMA_RESUME: each named channel that is STOPPED goes on from its first byte not landed (R434). -/
def Core.cmdDmaResume (c : Core) (q : CmdIn) : CmdOut :=
  let mask := q.u16 0
  done (c.each 16 fun n c =>
    if bit mask n ∧ c.dmaSt n = dStopped then
      let u := c.dch n
      let rest := match u.desc with
        | some d => d.total - u.acked
        | none => u.remain
      let c := (c.setDch n { u with remain := rest, paused := false }).dmaSync n
      (c.setB (F.DMAN_STATE_ERR n) false).dmaGo n (if u.paused then dPaused else dRunning)
    else c).dmaOwed

/-- DMA_STOP. -/
def Core.cmdDmaStop (c : Core) (q : CmdIn) : CmdOut :=
  let mask := q.u16 0
  done (c.each 16 fun n c =>
    if bit mask n ∧ (c.dmaSt n = dRunning ∨ c.dmaSt n = dPaused) then
      let c := (c.setDch n { c.dch n with paused := c.dmaSt n == dPaused }).dmaGo n dStopped
      c.post 0x0B04 n (c.n (R.DMAN_REMAIN n))
    else c)

/-- The end of EVZ_RUN's checks: the two channels are bound and start. -/
def Core.evzStart (c : Core) (j : EvzJob) (ia oa : Nat) (di do_ : DmaDesc) : Core :=
  let c := ((c.setJob j).setF F.EVZ_STAT_OP (b2n j.dec)).setF F.EVZ_STAT_IN_CH j.inCh
  let c := (c.setF F.EVZ_STAT_OUT_CH j.outCh).jobRegs {j with raws := 0} j
  let c := (c.dmaStart j.inCh ia di).dmaStart j.outCh oa do_
  ((c.setB (F.DMAN_STATE_BOUND j.inCh) true).setB (F.DMAN_STATE_BOUND j.outCh) true).evzSync

/-- EVZ_RUN (R443), its checks in the order of R378. The channels that the job names are looked at for BUSY where the job can be
read. -/
def Core.cmdEvzRun (c : Core) (q : CmdIn) : CmdOut :=
  let a := q.u64 8
  let job := if c.mayReach a 64 then (c.rd a 64).getD [] else []
  let used := fun (n : Nat) => decide (n < 16) && (c.dmaSt n == dRunning || c.dmaSt n == dPaused || c.dmaSt n == dStopped)
  let i := le job 0 1
  let o := le job 1 1
  let rsv := job != [] && (i == o || le job 2 6 != 0 || (List.range 32).any fun k => le job (32 + k) 1 != 0)
  match checks [(c.dma.job.isSome || (job != [] && (used i || used o)), rBusy),
      (decide (1 < q.u8 0) || le q.par 1 7 != 0 || rsv, rBadParam)] with
  | some st => (c, some (st, []))
  | none =>
    if job = [] then ((c.byReq (50 + c.activeCox)).readBad a 64, some (rMemory, []))
    else
      let c := c.byReq (50 + c.activeCox)
      let dec := q.u8 0 = 1
      let ia := le job 8 8
      let oa := le job 16 8
      match c.descRead i ia q.hostFail with
      | (c, none) => if 15 < i then (c, some (rRange, [])) else c.descLost i ia
      | (c, some li) =>
        match c.descRead o oa q.hostFail with
        | (c, none) => if 15 < o then (c, some (rRange, [])) else c.descLost o oa
        | (c, some lo) =>
          let di := parseDesc li
          let do_ := parseDesc lo
          let ci := c.descChecks ia li
          let co := c.descChecks oa lo
          let hit := fun (k : Nat) => (ci.getD k (false, 0)).1 || (co.getD k (false, 0)).1
          let res := le job 24 8
          c.judge [(!boundShape di false dec || !boundShape do_ true dec || hit 0, rBadParam),
            (decide (15 < i) || decide (15 < o) || hit 1, rRange),
            (a % 64 != 0 || res % 64 != 0 || hit 2, rAlign), (hit 3, rOverlap)] fun c =>
            accepted (c.evzStart { dec := dec, inCh := i, outCh := o, result := res } ia oa di do_)

def execDmaStart (p : Packet) (s : State) : Host.Outcome State Fault Refusal :=
  .next (State.serve { s with core := s.core.command 0x72 p Core.cmdDmaStart })
def execDmaResume (p : Packet) (s : State) : Host.Outcome State Fault Refusal :=
  .next (State.serve { s with core := s.core.command 0x73 p Core.cmdDmaResume })
def execDmaStop (p : Packet) (s : State) : Host.Outcome State Fault Refusal :=
  .next { s with core := s.core.command 0x74 p Core.cmdDmaStop }
def execEvzRun (p : Packet) (s : State) : Host.Outcome State Fault Refusal :=
  .next (State.serve { s with core := s.core.command 0x75 p Core.cmdEvzRun })

/-! ### The end of a job (R445) -/

/-- The result record's 64 bytes. -/
def EvzJob.record (j : EvzJob) (st kind off : Nat) : List Byte :=
  leBytes 8 (if j.dec then j.st.off else j.bytesIn) ++ leBytes 8 j.bytesOut ++ leBytes 4 j.blocks ++ leBytes 4 j.raws ++
    leBytes 4 j.bufs ++ leBytes 1 st ++ leBytes 1 kind ++ leBytes 2 0 ++ leBytes 8 off ++ List.replicate 24 0

/-- The job ends: record, channels unbound, 0x0B07. A bound channel that still runs or waits is DONE. -/
def Core.evzEnd (c : Core) (j : EvzJob) (st kind off : Nat) : Core :=
  let c := if c.mayReach j.result 64 then c.put j.result (j.record st kind off) else c.decodeErr (c.overAt j.result 64)
  let c := { c with dma := { c.dma with job := none } }
  let c := [j.inCh, j.outCh].foldl (fun c n =>
    let c := c.setB (F.DMAN_STATE_BOUND n) false
    if c.dmaSt n = dRunning ∨ c.dmaSt n = dPaused ∨ c.dmaSt n = dStopped then
      let c := ((c.setDch n {}).setB (F.DMAN_STATE_APPEND_PEND n) false).dmaGo n dDone
      if n = j.outCh ∧ j.outEnd then c.post 0x0B01 n (c.f (F.DMAN_TAG_TAG n) * 65536 + c.n (R.DMAN_DONE_CNT n) % 65536) else c
    else c) c
  c.evzSync.post 0x0B07 31 (j.blocks % 2 ^ 24 * 256 + st)

/-- EVZ_JOB_END: the job under way is complete or failed, or the engine has a fault. -/
def execEvzJobEnd (fault : Bool) (s : State) : Host.Outcome State Fault Refusal :=
  let c := s.core
  .next { s with core := match c.dma.job with
    | none => c
    | some j => match j.ended with
      | some (st, kind, off) => c.evzEnd j st kind off
      | none => if fault then c.evzEnd j rHwFault 0 0 else c }

end Sys2Proof.Machine
end

