-- ==== Sys2Proof/Machine/Dram.lean ====
section
/-!
DEFINITION. DRAM accesses of the requesters (spec/12_memory.md R325, R328-R335, R344): served, or kept until they may be.
-/

namespace Sys2Proof.Machine

/-- Poison delivered to a DMA channel, or a write of its that is written poisoned, is a bus error of the channel
(spec/16_dma_and_compression.md R433). -/
def Core.dmaPoisoned (c : Core) (req pa : Nat) : Core :=
  if 32 ≤ req ∧ req < 48 then c.busError (req - 32) 0 pa else c

/-- An access as the channels issue it. -/
def Core.asTouch (c : Core) (w : MemAccess) : MemTouch :=
  { req := w.req, cls := c.memClass w.req, pa := w.pa, n := w.n, write := w.data.isSome, t := c.now }

/-- The bursts of a read: each is issued and checked, and poison comes where no good copy can be read (R330-R333). The error that the
command brings stands for the first. -/
def Core.readBursts (c : Core) (w : MemAccess) : Core :=
  let c := (c.byReq w.req).issue (c.asTouch w)
  c.eachOf (bursts w.pa w.n) fun b c =>
    if b + 64 ≤ c.dramTop then
      let err := if b = w.pa / 64 * 64 then w.err else .clean
      if w.second && b == w.pa / 64 * 64 then c.eccSecond b err else c.eccRead b err
    else c.decodePoison b

/-- The bytes that a read brings, with those before them. -/
def Core.readBytes (c : Core) (w : MemAccess) : Option (List Byte) :=
  match w.pre, c.rd w.pa w.n with
  | some a, some b => some (a ++ b)
  | _, _ => none

/-- A read served to its end. -/
def Core.serveRead (c : Core) (w : MemAccess) : Core :=
  let c := c.readBursts w
  let got := c.readBytes w
  let c := { c with lastRead := match got with
    | some l => ofLe l
    | none => 256 ^ (w.n + (w.pre.getD []).length) - 1 }
  if got.isSome then c else c.dmaPoisoned w.req w.pa

/-- A copy of a write whose write CRC fails `fails` times: retried up to three times, and at the fourth an uncorrectable error of the
copy (R335). -/
def Core.wcrcCopy (c : Core) (pa i d fails : Nat) : Core :=
  if fails = 0 then c
  else
    let k := min 3 fails
    let c := (c.addN R.MEM_WCRC_RETRY_CNT k).memEvent 0x0910 k
    if fails < 4 then c
    else if pa < c.mirTop then (c.memUe i d 3).post 0x0902 i (d / 128)
    else (c.mark pa).memUe i d 3

/-- A write of a requester fails for good: a DMA channel takes a bus error, the logbook loses its block. -/
def Core.writeLost (c : Core) (req pa : Nat) : Core := if req = 52 then c.logBlockLost pa else c.dmaPoisoned req pa

/-- The write CRC of a write: on the copy at D and in the mirrored region on the second one; with both failed the burst is lost. -/
def Core.wcrc (c : Core) (req pa : Nat) (f : CrcFails) : Core :=
  if c.mcfg F.MEM_CFG_WCRC_EN = 0 then c
  else
    let d := c.memD pa
    let i := c.rankOf d
    let j := c.partnerRank i
    let mir := decide (pa < c.mirTop)
    let c := c.wcrcCopy pa i d f.first
    let c := if mir then c.wcrcCopy pa j (c.twinD d) f.second else c
    if mir && decide (4 ≤ f.first) && decide (4 ≤ f.second) then
      if req = 52 then (c.mark pa).logBlockLost pa else c.mark pa
    else if !mir && decide (4 ≤ f.first) then c.writeLost req pa else c

/-- A write served: both copies in the mirrored region, but in a slice the partner alone, whose block is then dirty (R330, R344); of its
bursts those at or above C - M write nothing, each with a decode error (R324). -/
def Core.serveWrite (c : Core) (w : MemAccess) (data : List Byte) : Core :=
  let c := (c.byReq w.req).issue (c.asTouch w)
  let c := if w.pa < c.dramTop ∧ data ≠ [] then (c.wr w.pa data).wcrc w.req w.pa w.crc else c
  c.eachOf ((bursts w.pa data.length).filter fun b => decide (c.dramTop < b + 64)) fun b c => c.decodeErr b

def Core.serveAccess (c : Core) (w : MemAccess) : Core :=
  match w.data with
  | some l => c.serveWrite w l
  | none => c.serveRead w

/-- The first bursts of an access that may go now, one after the other (R327, R329, R344): those beyond C - M never wait. -/
def Core.mayGo (c : Core) (w : MemAccess) : List Nat → List (Nat × Nat) → Nat
  | [], _ => 0
  | b :: l, more =>
    if c.dramTop < b + 64 then 1 + c.mayGo w l more
    else if c.burstWaits w b more then 0
    else 1 + c.mayGo w l (more ++ c.activated b w.data.isSome c.now)

/-- An access touches bytes that one of some others does. -/
def MemAccess.meets (w : MemAccess) (l : List MemAccess) : Bool :=
  l.any fun h => decide (h.pa < w.pa + w.n) && decide (w.pa < h.pa + h.n)

/-- The bursts of an access that are served now: none while it touches bytes of one kept before it (log entry 62). -/
def Core.accessGoes (c : Core) (w : MemAccess) (before : List MemAccess) : Nat :=
  if w.meets before then 0 else c.mayGo w (bursts w.pa w.n) []

/-- An access waits, in part at least. -/
def Core.accessWaits (c : Core) (w : MemAccess) : Bool := decide (c.accessGoes w c.mem.held < (bursts w.pa w.n).length)

/-- What remains of an access once `n` of its bytes have been served. -/
def MemAccess.rest (w : MemAccess) (n : Nat) : MemAccess :=
  { w with pa := w.pa + n, n := w.n - n, err := .clean, second := false, data := w.data.map fun l => l.drop n, crc := {} }

/-- An access kept, in its place among the others. -/
def Core.keep (c : Core) (w : MemAccess) (before after : List MemAccess) : Core :=
  { c with mem := { c.mem with held := before ++ w :: after } }

/-- An access served as far as it may be, and the rest of it kept; a read whose partner copy fails in a slice is kept for the rank
(R344). A unit whose isolation switch is open makes none, and what it had waiting falls away (spec/18_fault_tolerance.md R474). -/
def Core.access (c : Core) (w : MemAccess) (before after : List MemAccess) : Core :=
  let k := c.accessGoes w before
  let b := w.pa / 64 * 64
  if c.reqCut w.req then { c with mem := { c.mem with held := before ++ after } }
  else if k = 0 ∧ bursts w.pa w.n ≠ [] then c.keep w before after
  else if w.data.isNone && !w.second && decide (b + 64 ≤ c.dramTop) && c.sliceRetry b w.err then
    let i := c.rankOf (c.memD b)
    let err : MemErr := if w.err = .ueBoth then .ueFirst else .clean
    ((c.byReq w.req).memUe (c.partnerRank i) (c.twinD (c.memD b)) 1).keep { w with err := err, second := true } before after
  else if (bursts w.pa w.n).length ≤ k then c.serveAccess w
  else
    let n := b + 64 * k - w.pa
    let part : MemAccess := { w with n := n, data := w.data.map fun l => l.take n }
    match part.data with
    | some l => (c.serveWrite part l).keep (w.rest n) before after
    | none =>
      let c := c.readBursts part
      c.keep { w.rest n with pre := c.readBytes part } before after

/-- A place in arbitration (R325): RT, then CTL, then BE in turn from the requester after the last. -/
def Core.rank (c : Core) (w : MemAccess) : Nat :=
  match c.memClass w.req with
  | .rt => 0
  | .ctl => 1
  | .be => 2 + (w.req + 63 - c.mem.turn) % 64

/-- The access kept that is offered next, of those that wait behind none before them, with those before and after it: by class, and of
equals the oldest. -/
def Core.nextHeld (c : Core) : List MemAccess → List MemAccess → Option (MemAccess × List MemAccess × List MemAccess)
  | [], _ => none
  | w :: l, before =>
    let later := c.nextHeld l (before ++ [w])
    if c.accessGoes w before = 0 then later
    else match later with
      | some (v, x) => if c.rank w ≤ c.rank v then some (w, before, l) else some (v, x)
      | none => some (w, before, l)

/-- The accesses kept that may go are served one after the other, with fuel. -/
def Core.serveHeld : Nat → Core → Core
  | 0, c => c
  | k + 1, c =>
    match c.nextHeld c.mem.held [] with
    | none => c
    | some (w, before, after) =>
      let be := decide (c.memClass w.req = MemClass.be)
      let c := { c with mem := { c.mem with held := before ++ after, turn := if be then w.req else c.mem.turn } }
      Core.serveHeld k (c.access w before after)

/-- The accesses of the units issued, and those that wait offered again (R325), once the blocks that a slice left dirty have been
copied (R344). -/
def Core.releaseHeld (c : Core) : Core :=
  let c := c.memDrain
  let c := { c with mem := { c.mem with dirty := c.mem.dirty.filter fun x => c.inSlice x.1 } }
  Core.serveHeld c.mem.held.length c

/-- DRAM_READ. -/
def execDramRead (req : Fin 64) (pa : BitVec 39) (n : Nat) (err : MemErr) (s : State) : Host.Outcome State Fault Refusal :=
  let c := s.core.releaseHeld
  .next { s with core := c.access { req := req, pa := pa.toNat, n := n, err := err } c.mem.held [] }

/-- DRAM_WRITE. -/
def execDramWrite (req : Fin 64) (pa : BitVec 39) (data : List Byte) (crc : CrcFails) (s : State) :
    Host.Outcome State Fault Refusal :=
  let c := s.core.releaseHeld
  .next { s with core := c.access { req := req, pa := pa.toNat, n := data.length, data := some data, crc := crc } c.mem.held [] }

end Sys2Proof.Machine
end

