-- ==== Sys2Proof/Machine/Legacy.lean ====
section
/-!
DEFINITION. The LH-460 ports and opcodes (spec/15_lh460_compatibility.md R402-R424), and the commands that set the bridge
up (R400, R422).
-/

namespace Sys2Proof.Machine

def State.setLeg (s : State) (v : LegPorts) : State := { s with leg := v }

/-- The words in a personality's FIFO. -/
def LegPorts.fifo (l : LegPorts) (n : Nat) : List (BitVec 16) := Tab.get (fun _ => []) l.fifos n
def LegPorts.setFifo (l : LegPorts) (n : Nat) (v : List (BitVec 16)) : LegPorts :=
  { l with fifos := Tab.set (fun _ => []) l.fifos n v }

/-- LDACK_N low: the personality named by LDADR has a band open and 64 free places (R406). -/
def State.ldackNow (s : State) : Bool :=
  s.core.lpOn s.leg.ldadr && (s.core.pers s.leg.ldadr).opened.isSome && decide ((s.leg.fifo s.leg.ldadr).length ≤ 448)

def State.ackSync (s : State) : State := s.setLeg { s.leg with ack := s.ldackNow }

/-! ### Packets and replies (R402, R403, R407, R408) -/

/-- The times of the last second, with the present. -/
def Core.lastSecond (c : Core) (l : List Nat) : List Nat := c.now :: l.filter fun t => c.now < t + sec

/-- A packet discarded without reply (R402). -/
def Core.lspDiscard (c : Core) : Core :=
  let c := (c.inc R.LG_FRAME_CNT).setLg { c.lg with discards := c.lastSecond c.lg.discards }
  c.postLim sec 0x0F04 31 c.lg.discards.length

/-- The statuses of a reply. -/
def lhOk : Nat := 0x00
def lhNotReady : Nat := 0x0B
def lhChecksum : Nat := 0x0C
def lhBadOpcode : Nat := 0x0D
def lhRange : Nat := 0x0E
def lhFaultStatus : Nat := 0x0F

/-- A byte of a packet. -/
def pb (l : List Byte) (i : Nat) : Nat := (l.getD i 0).toNat

/-- Bytes `a` to 6 are zero. -/
def restZero (l : List Byte) (a : Nat) : Bool := (List.range 7).all fun i => decide (i < a) || pb l i == 0

/-- A word for no open band (R406). -/
def Core.ldpDrop (c : Core) : Core :=
  let c := (c.inc R.LG_LDP_DROP_CNT).setLg { c.lg with drops := c.lastSecond c.lg.drops }
  c.postLim sec 0x0F05 31 c.lg.drops.length

/-- An opcode's rule: the states in which it is legal (a bit a state), its checks, and its effect with D0 and D1. -/
structure LhRule where
  states : Nat
  checks : Core → Nat → List Byte → List (Bool × Nat)
  act : Core → Nat → List Byte → Core × Nat × Nat

/-- The personality's judgement in the order of R408. -/
def Core.lhJudge (c : Core) (n : Nat) (l : List Byte) (x : Option LhRule) : Core × Nat × Nat × Nat :=
  let sum := ((List.range 8).map (pb l)).sum % 256
  let safe := c.st == stSafe
  let refuse := fun (c : Core) (st : Nat) => (c, st, 0, 0)
  if sum ≠ 0 then refuse (c.inc (R.LG_LP_CSUM n)) lhChecksum
  else match x with
  | none => refuse c lhBadOpcode
  | some r =>
    if !bit r.states (c.lpSt n) then refuse c lhNotReady
    else
      let l1 := r.checks c n l
      match [lhNotReady, lhRange].find? (fun st => l1.any fun x => x.1 && x.2 == st) with
      | some st => refuse c st
      | none =>
        if safe || l1.any (fun x => x.1 && x.2 == lhFaultStatus) then refuse c lhFaultStatus
        else
          let (c, d0, d1) := r.act c n l
          (c, lhOk, d0, d1)

/-- The reply's bits, most significant first. -/
def replyBits (l : List Byte) : List Bool := l.flatMap fun b => (List.range 8).map fun i => bit b.toNat (7 - i)

/-- LSP_REPLY_CLOCK: `n` clocks of LSDO (R403). -/
def execLspReplyClock (n : Nat) (s : State) : Host.Outcome State Fault Refusal :=
  let g := s.leg
  match g.reply with
  | none => .next (s.setLeg { g with lsdo := [] })
  | some r =>
    if s.core.now < g.readyAt then
      .next ({ s with core := s.core.inc R.LG_EARLY_CNT }.setLeg { g with lsdo := List.replicate n true })
    else
      let out := ((replyBits r).drop g.shifted).take n
      let k := g.shifted + n
      .next (s.setLeg { g with lsdo := out, shifted := if 32 ≤ k then 0 else k, reply := if 32 ≤ k then none else some r })

/-! ### The opcodes (R410) -/

/-- STATUS. -/
def lhStatus : LhRule :=
  { states := 15, checks := fun _ _ l => [(!restZero l 2, lhRange)]
    act := fun c n _ =>
      let d0 := c.lpSt n + c.f (F.LG_LP_STAT_QUEUED n) * 4 + c.f (F.LG_LP_STAT_ATTN n) * 64
      ((c.setB (F.LG_LP_STAT_ATTN n) false).lattnSync, d0, c.f (F.LG_LP_STAT_CAUSE n)) }

/-- RESET. -/
def lhReset : LhRule :=
  { states := 15, checks := fun _ _ l => [(!restZero l 2, lhRange)]
    act := fun c n _ =>
      let c := (c.lpDrop n).lpGoto n lpIdle
      let c := ((c.setN (R.LG_LP_LINES n) 0).setN (R.LG_LP_BANDS n) 0).setN (R.LG_LP_UNDER n) 0
      let c := (c.setN (R.LG_LP_CSUM n) 0).setN (R.LG_LP_BAND n) 0
      let c := (c.setF (F.LG_LP_STAT_CAUSE n) 0).setB (F.LG_LP_STAT_UNDER_CONT n) false
      ((c.setB (F.LG_LP_STAT_ATTN_EN n) true).lattnSync, 0, 0) }

/-- SET_ENC_DIV. -/
def lhSetEncDiv : LhRule :=
  { states := 3, checks := fun _ _ l => [(!restZero l 3 || pb l 2 == 0, lhRange)]
    act := fun c n l => (c.setN (R.LG_LP_DIV n) (pb l 2), pb l 2, 0) }

/-- SET_PITCH. -/
def lhSetPitch : LhRule :=
  { states := 3, checks := fun _ _ l => [(!restZero l 6 || decide (le l 2 4 < 65536), lhRange)]
    act := fun c n l => (c.setN (R.LG_LP_PITCH n) (le l 2 4), 0, 0) }

/-- LOAD_BAND (R412, R413, R415). -/
def lhLoadBand : LhRule :=
  { states := 7
    checks := fun c n l =>
      let u := c.pers n
      let opening := c.lg.queue.any fun x => x.op == 0x20
      [(decide (8 ≤ u.bands.length) || u.opened.isSome || (c.lpFree n).isNone || c.lg.ending ||
          (!c.fb F.LG_STAT_OWNER && !opening && c.st != stIdle), lhNotReady),
        (!restZero l 5 || decide (1 < pb l 4) || (c.fb (F.LG_LP_BAND_SET n) && le l 2 2 != c.f (F.LG_LP_BAND_NEXT n)), lhRange)]
    act := fun c n l =>
      let q := (c.lpFree n).getD 0
      let num := le l 2 2
      let u := c.pers n
      let c := c.setLg { c.lg with loadLsp := l }
      let c := c.setPers n { u with bands := u.bands ++ [{ num := num, last := bit (pb l 4) 0, q := q }]
                                    opened := some { num := num, q := q } }
      let c := (c.lpSurface n q 1).lpQueued n
      let c := (c.setF (F.LG_LP_BAND_NEXT n) ((num + 1) % 65536)).setB (F.LG_LP_BAND_SET n) true
      let c := if c.lpSt n = lpIdle then c.lpGoto n lpLoaded else c
      let opening := c.lg.queue.any fun x => x.op == 0x20
      let c := if c.fb F.LG_STAT_OWNER || opening then c else c.bridgeOpen n l
      let c := if c.lpSt n = lpRun ∧ ¬ (c.pers n).starting then c.bridgeBind n q l else c
      (c, c.f (F.LG_LP_STAT_QUEUED n), 0) }

/-- START (R416, R419). -/
def lhStart : LhRule :=
  { states := 2
    checks := fun c n l => [(!restZero l 2 || decide (c.lg.pitch ≠ (c.f (F.LG_LP_DIV_P n), c.n (R.LG_LP_PITCH n))), lhRange)]
    act := fun c n l =>
      let c := c.lpGoto n lpRun
      if c.running || c.st == stArmed then
        let first := c.advanceK c.newest (c.web.s + 2) (c.n (R.LAY_QNEXT n))
        ((c.bridgeBindAll n l).post 0x0F06 n first, 0, 0)
      else
        let c := c.setPers n { c.pers n with starting := true, startLsp := l }
        (c.setLg { c.lg with window := some (c.lg.window.getD c.now), startLsp := if c.lg.window.isNone then l else c.lg.startLsp }, 0, 0) }

/-- STOP (R417). -/
def lhStop : LhRule :=
  { states := 6, checks := fun _ _ l => [(!restZero l 2, lhRange)]
    act := fun c n _ => ((c.lpDrop n).lpGoto n lpIdle, 0, 0) }

/-- Another offset that SET_OFFSET has given the same bar would give it another value (R420). -/
def Core.lpClash (c : Core) (n i lines : Nat) : Bool :=
  let g := c.newest
  let bar := fun m j => (c.lpInk m j).map g.bar0
  c.fb F.LG_CFG_APPLY_OFS && c.lpsOn.any fun m => (List.range 4).any fun j =>
    (m != n || j != i) && c.lg.ofsSet.contains (4 * m + j) && (bar m j).isSome && bar m j == bar n i &&
      c.lpAlign m (c.n (R.LG_LP_OFS m j)) != c.lpAlign n lines

/-- SET_OFFSET (R420). -/
def lhSetOffset : LhRule :=
  { states := 3
    checks := fun c n l =>
      let i := pb l 2
      [(!restZero l 6 || decide (3 < i) || (c.lpInk n i).isNone || c.lpClash n i (le l 3 3), lhRange)]
    act := fun c n l =>
      let i := pb l 2
      let c := (c.setN (R.LG_LP_OFS n i) (le l 3 3)).setLg { c.lg with ofsSet := ((4 * n + i) :: c.lg.ofsSet).eraseDups }
      (c.lpAlignBar n i, 0, 0) }

/-- The heads of an ink that serve a column of a personality's window, by lowest column (R410). -/
def Core.lpHeads (c : Core) (n k : Nat) : List Nat :=
  let c0 := c.f (F.LG_LP_C0_C0 n)
  let cols := fun (r : MapRun) => r.nozzles.map (· % 131072)
  let runs := c.newest.tabs.map.filter fun r => r.start / 262144 == k && (cols r).any fun x => decide (c0 ≤ x) && decide (x < c0 + 25600)
  let low := runs.map fun r => (((cols r).filter fun x => decide (c0 ≤ x)).foldl min (2 ^ 17), r.head)
  ((sortBy (fun a b => decide (a.1 ≤ b.1)) low).map (·.2)).eraseDups

/-- SET_WAVE (R421). -/
def lhSetWave : LhRule :=
  { states := 7
    checks := fun c n l => [(!restZero l 4 || decide (3 < pb l 2) || decide (15 < pb l 3) || (c.lpInk n (pb l 2)).isNone, lhRange)]
    act := fun c n l =>
      let k := (c.lpInk n (pb l 2)).getD 0
      let c := c.eachOf (c.lpHeads n k) fun h c =>
        c.setN (R.QL_WAVE (h / 8)) (setBits (c.n (R.QL_WAVE (h / 8))) (4 * (h % 8)) 4 (pb l 3))
      (c.bridgeCommit (if c.job.isOpen then 1 else 0) 0 l [n], 0, 0) }

/-- READ_TEMP. -/
def lhReadTemp : LhRule :=
  { states := 15
    checks := fun c n l =>
      let h := (c.lpInk n (pb l 2)).bind fun k => (c.lpHeads n k)[pb l 3]?
      let stale := match h with
        | some h => c.fb (F.HH_THETA_STALE h)
        | none => false
      [(!restZero l 4 || decide (3 < pb l 2) || h.isNone, lhRange), (stale, lhFaultStatus)]
    act := fun c n l =>
      let h := ((c.lpInk n (pb l 2)).bind fun k => (c.lpHeads n k)[pb l 3]?).getD 0
      let t := wrap 16 (c.theta h / 4)
      (c, t % 256, t / 256) }

/-- The bars that carry the mapped inks. -/
def Core.lpBars (c : Core) (n : Nat) : List Nat := ((c.lpInks n).flatMap fun k => [c.newest.bar0 k, c.newest.bar1 k]).eraseDups

/-- SPIT (R421). -/
def lhSpit : LhRule :=
  { states := 1
    checks := fun c _ l => [(c.st != stIdle || c.lg.spit.isSome || c.lg.queue.any fun x => x.op == 0x41, lhNotReady),
      (!restZero l 5 || pb l 2 == 0 || decide (3 < pb l 2) || le l 3 2 == 0, lhRange)]
    act := fun c n l =>
      let bars := c.lpBars n
      let mask := bars.foldl (fun m b => setBits m b 1 1) 0
      let period := bars.foldl (fun m b => max m (c.newest.fmp b)) 1000
      let code := bits (c.f (F.LG_LP_CODE_CODE_MAP n)) (4 * pb l 2) 4
      let c := c.bridgeAsk 0x41 [] l [n]
      (c.bridgeAsk 0x44 (leBytes 2 mask ++ leBytes 1 code ++ leBytes 1 0 ++ leBytes 4 period ++ leBytes 4 (le l 3 2)) l [n], 0, 0) }

/-- MASK_NOZZLE (R421). -/
def lhMaskNozzle : LhRule :=
  { states := 7
    checks := fun c n l =>
      [(!restZero l 6 || decide (3 < pb l 2) || (c.lpInk n (pb l 2)).isNone || decide (12799 < le l 3 2) || decide (1 < pb l 5), lhRange)]
    act := fun c n l =>
      let k := (c.lpInk n (pb l 2)).getD 0
      let x := c.f (F.LG_LP_C0_C0 n) + 2 * le l 3 2
      let st := if pb l 5 = 1 then 2 else 0
      let c := c.eachOf [x, x + 1, 131072 + x, 131073 + x] fun j c =>
        let m := k * 262144 + j
        let e := (Tab.get nzReset c.job.shadow.nz m).toNat
        if e / 2 ^ 30 = 3 then c
        else c.setShadow { c.job.shadow with nz := Tab.set nzReset c.job.shadow.nz m (BitVec.ofNat 32 (setBits e 30 2 st)) }
      let line := if c.job.tof then c.firstOnTime c.shadowGen else 0
      (c.bridgeCommit 0 line l [n], 0, 0) }

/-- READ_COUNT. -/
def lhReadCount : LhRule :=
  { states := 15, checks := fun _ _ l => [(!restZero l 4 || decide (3 < pb l 2) || decide (1 < pb l 3), lhRange)]
    act := fun c n l =>
      let v := c.n (match pb l 2 with
        | 0 => R.LG_LP_LINES n
        | 1 => R.LG_LP_BANDS n
        | 2 => R.LG_LP_UNDER n
        | _ => R.LG_LP_CSUM n)
      let h := if pb l 3 = 0 then v % 65536 else v / 65536
      (c, h % 256, h / 256) }

/-- SET_MODE. -/
def lhSetMode : LhRule :=
  { states := 3, checks := fun _ _ l => [(!restZero l 3 || decide (3 < pb l 2), lhRange)]
    act := fun c n l =>
      (((c.setB (F.LG_LP_STAT_UNDER_CONT n) (bit (pb l 2) 0)).setB (F.LG_LP_STAT_ATTN_EN n) (bit (pb l 2) 1)).lattnSync, 0, 0) }

/-- ECHO. -/
def lhEcho : LhRule :=
  { states := 15, checks := fun _ _ l => [(!restZero l 4, lhRange)], act := fun c _ l => (c, pb l 2, pb l 3) }

/-- A rule whose bytes before the parameters do not count among the unused ones. -/
def LhRule.params (r : LhRule) : LhRule :=
  { r with checks := fun c n l => r.checks c n ([0, 0] ++ l.drop 2), act := fun c n l => r.act c n l }

/-- The rule of the opcode in byte 1; none for 0xF (R410). -/
def lhRuleOf (op : Nat) : Option LhRule :=
  ([lhStatus, lhReset, lhSetEncDiv, lhSetPitch, lhLoadBand, lhStart, lhStop, lhSetOffset, lhSetWave, lhReadTemp, lhSpit, lhMaskNozzle,
    lhReadCount, lhSetMode, lhEcho][op]?).map LhRule.params

/-- A packet that a personality judges: its reply is ready 4 µs later. Words in the FIFO of a band opened now were strobed for none
(R413). -/
def State.lhTake (s : State) (p : LspPacket) : State :=
  let n := p.lp.val
  let (c, st, d0, d1) := s.core.lhJudge n p.bytes (lhRuleOf (pb p.bytes 1 % 16))
  let opens := (s.core.pers n).opened.isNone && (c.pers n).opened.isSome
  let stray := if opens then (s.leg.fifo n).length else 0
  let r := [st, d0, d1]
  let reply := (r ++ [(256 - r.sum % 256) % 256]).map (BitVec.ofNat 8)
  let bytes := (p.bytes ++ List.replicate 8 0).take 8
  let c := (c.logRec 0x17 (leBytes 1 n ++ bytes ++ reply)).bridgeEnd bytes
  let c := c.each stray fun _ c => c.ldpDrop
  let g := if opens then s.leg.setFifo n [] else s.leg
  ({ s with core := c }.setLeg { g with reply := some reply, readyAt := s.core.now + 4 * usec }).ackSync

/-- A packet as received: discarded, or judged and answered; the reply before it is lost. After a byte 0 other than 0xA5 every bit up
to the next idle gap is discarded (R402). -/
def lh (p : LspPacket) (s : State) : Host.Outcome State Fault Refusal :=
  let n := p.lp.val
  let c := s.core
  if s.leg.skip then .next s
  else
    let s := s.setLeg { s.leg with reply := none, shifted := 0, skip := pb p.bytes 0 != 0xA5 }
    let here := c.fb F.LG_STAT_RUNNING && c.lpOn n && pb p.bytes 0 == 0xA5 && pb p.bytes 1 / 16 == n
    .next (if here then s.lhTake p else { s with core := c.lspDiscard })

/-- LSP_DISCARD. -/
def execLspDiscard (s : State) : Host.Outcome State Fault Refusal :=
  .next (if s.leg.skip then s else { s with core := s.core.lspDiscard }.setLeg { s.leg with reply := none, shifted := 0 })

/-- LSP_FRAMING_RESET: the next eight bits are byte 0; a reply that waits stays. -/
def execLspFramingReset (s : State) : Host.Outcome State Fault Refusal := .next (s.setLeg { s.leg with skip := false })

def execLhStatus (p : LspPacket) (s : State) : Host.Outcome State Fault Refusal := lh p s
def execLhReset (p : LspPacket) (s : State) : Host.Outcome State Fault Refusal := lh p s
def execLhSetEncDiv (p : LspPacket) (s : State) : Host.Outcome State Fault Refusal := lh p s
def execLhSetPitch (p : LspPacket) (s : State) : Host.Outcome State Fault Refusal := lh p s
def execLhLoadBand (p : LspPacket) (s : State) : Host.Outcome State Fault Refusal := lh p s
def execLhStart (p : LspPacket) (s : State) : Host.Outcome State Fault Refusal := lh p s
def execLhStop (p : LspPacket) (s : State) : Host.Outcome State Fault Refusal := lh p s
def execLhSetOffset (p : LspPacket) (s : State) : Host.Outcome State Fault Refusal := lh p s
def execLhSetWave (p : LspPacket) (s : State) : Host.Outcome State Fault Refusal := lh p s
def execLhReadTemp (p : LspPacket) (s : State) : Host.Outcome State Fault Refusal := lh p s
def execLhSpit (p : LspPacket) (s : State) : Host.Outcome State Fault Refusal := lh p s
def execLhMaskNozzle (p : LspPacket) (s : State) : Host.Outcome State Fault Refusal := lh p s
def execLhReadCount (p : LspPacket) (s : State) : Host.Outcome State Fault Refusal := lh p s
def execLhSetMode (p : LspPacket) (s : State) : Host.Outcome State Fault Refusal := lh p s
def execLhEcho (p : LspPacket) (s : State) : Host.Outcome State Fault Refusal := lh p s

/-- LH_BAD_OPCODE: opcode 0xF. -/
def execLhBadOpcode (p : LspPacket) (s : State) : Host.Outcome State Fault Refusal := lh p s

/-! ### The data port (R406) -/

/-- LDP_WORD: a word strobed. -/
def execLdpWord (w : BitVec 16) (s : State) : Host.Outcome State Fault Refusal :=
  let n := s.leg.ldadr
  let l := s.leg.fifo n
  if !s.core.lpOn n || (s.core.pers n).opened.isNone then .next { s with core := s.core.ldpDrop }
  else if 512 ≤ l.length then
    .next ({ s with core := s.core.bandError n 5 }.setLeg (s.leg.setFifo n [])).ackSync
  else .next (s.setLeg (s.leg.setFifo n (l ++ [w]))).ackSync

/-- LDADR_CHANGE. -/
def execLdadrChange (a : Fin 8) (s : State) : Host.Outcome State Fault Refusal := .next (s.setLeg { s.leg with ldadr := a }).ackSync

/-- The bridge takes a word from the FIFOs every 25 ns (R406); a band error empties its FIFO. -/
def State.ldpTake (s : State) : State :=
  if s.core.now < s.leg.last + 20 then s
  else
    match (List.range 8).find? fun n => s.leg.fifo n ≠ [] with
    | none => s
    | some n =>
      match s.leg.fifo n with
      | [] => s
      | w :: rest =>
        let open_ := (s.core.pers n).opened.isSome
        let c := if open_ then s.core.bandWord n w.toNat else s.core.ldpDrop
        let failed := open_ && c.lpSt n == lpFaulted && s.core.lpSt n != lpFaulted
        let g := s.leg.setFifo n (if failed then [] else rest)
        { s with core := c }.setLeg { g with last := s.core.now }

/-- The native command that waited for the crew's token has its answer (R421). -/
def Core.bridgeTold (c : Core) : Core :=
  match c.lg.queue with
  | x :: _ => if x.asked && (x.heard.isSome || !c.hostAsked) then c.bridgePump (c.lg.queue.length + 1) else c
  | [] => c

/-- A tick of the bridge: a word is taken, a job that nothing feeds is ended, the token's answer is heard, and LDACK_N follows, whatever
closed a band (R406, R417, R421). -/
def State.ldpTick (s : State) : State :=
  let s := s.ldpTake
  { s with core := (s.core.bridgeEnd s.core.lg.loadLsp).bridgeTold }.ackSync

/-! ### Timers -/

/-- LG_START_WIN (R416). -/
def execLgStartWin (s : State) : Host.Outcome State Fault Refusal :=
  let c := s.core
  .next { s with core := match c.lg.window with
    | some t => if t + c.f F.LG_START_WIN_US * usec ≤ c.now then c.bridgeStart else c
    | none => c }

/-- BRIDGE_RETRY: every 1 ms (R421). -/
def execBridgeRetry (s : State) : Host.Outcome State Fault Refusal :=
  let c := s.core
  .next { s with core := match c.lg.queue with
    | x :: _ => if x.tried + msec ≤ c.now ∧ ¬ x.asked then c.bridgePump (c.lg.queue.length + 1) else c
    | [] => c }

/-- TEST_TICK (spec/03_firing.md R104, R105); SERVICE_LEAVE follows a spit of the bridge (R421). -/
def execTestTick (gates : List GateSamples) (s : State) : Host.Outcome State Fault Refusal :=
  let c := s.core.testTick gates
  .next { s with core := match c.lg.spit with
    | some (owners, lsp) =>
      if c.test.isNone then (c.setLg { c.lg with spit := none }).bridgeAsk 0x42 [] lsp owners else c
    | none => c }

/-! ### LP_MAP, LEGACY_START, LEGACY_STOP (R400, R422) -/

/-- The checks of LP_MAP. -/
def Core.lpMapChecks (c : Core) (q : CmdIn) : List (Bool × Nat) :=
  let n := q.u8 0
  let map := q.u16 2
  let c0 := q.u32 4
  let inks := (List.range 4).filterMap fun i => let k := bits map (4 * i) 4; if k < 8 then some k else none
  let wide := (List.range 4).any fun i => let k := bits map (4 * i) 4; decide (8 ≤ k) && decide (k < 15)
  let overlap := bit (q.u8 1) 0 && (List.range 8).any fun m => m != n && c.lpOn m && (c.lpInks m).any inks.contains &&
    decide (c.f (F.LG_LP_C0_C0 m) < c0 + 25600) && decide (c0 < c.f (F.LG_LP_C0_C0 m) + 25600)
  [(decide (1 < q.u8 1) || q.u16 10 != 0 || q.u16 8 % 16 != 0, rBadParam),
    (decide (7 < n) || wide || decide (131072 < c0 + 25600), rRange), (overlap, rOverlap)]

/-- LP_MAP. -/
def cmdLpMap (c : Core) (q : CmdIn) : CmdOut :=
  c.judge (c.lpMapChecks q) fun c =>
    let n := q.u8 0
    let c := (c.setB (F.LG_LP_MAP_EN n) (bit (q.u8 1) 0)).setF (F.LG_LP_MAP_INK_MAP n) (q.u16 2)
    done (((c.setN (R.LG_LP_C0 n) (q.u32 4)).setN (R.LG_LP_CODE n) (q.u16 8)).lattnSync)

/-- Every LH-460 code of an enabled personality has its ladder level in the shadow (R422). -/
def Core.lpLadders (c : Core) (n : Nat) : Bool :=
  (c.lpInks n).all fun k => (List.range 3).all fun i =>
    let tone := bits (c.n R.LG_TONE) (8 * i) 8 * 257
    let code := bits (c.f (F.LG_LP_CODE_CODE_MAP n)) (4 * (i + 1)) 4
    (List.range (c.f (F.SCR_LEVELS_M k))).any fun j => c.f (F.LADDER_T k j) == tone && c.f (F.LADDER_C k j) == code

/-- The pool surfaces of the enabled personalities: each one's own, and the blank one as the last. -/
def Core.lpPool (c : Core) : List (Nat × Nat) :=
  c.lpsOn.flatMap fun n => (List.range (c.f F.LG_CFG_POOL + 1)).map fun q => (n, q)

/-- The checks of LEGACY_START. -/
def Core.legacyChecks (c : Core) : List (Bool × Nat) :=
  let pool := c.f F.LG_CFG_POOL
  let badPool := decide (pool < 8) || decide (127 < pool)
  [(c.lpPool.any fun x => (c.surf (c.lpId x.1 x.2)).state != 0, rBusy),
    (c.lpsOn == [] || c.lpsOn.any (fun n => c.f (F.LG_LP_C0_C0 n) % 2 == 1 || !c.lpLadders n), rBadParam),
    (badPool || c.n64 R.LG_BAND_BASE_LO % 64 != 0 ||
      c.lpPool.any fun x => !c.mayReach (c.lpBase x.1 x.2) 6553600 || decide (c.mirTop < c.lpBase x.1 x.2 + 6553600), rRange)]

/-- LEGACY_START. -/
def cmdLegacyStart (c : Core) (_q : CmdIn) : CmdOut :=
  c.judge c.legacyChecks fun c =>
    let pool := c.f F.LG_CFG_POOL
    let ons := c.lpsOn
    let c := c.eachOf c.lpPool fun x c => c.lpSurface x.1 x.2 (if x.2 = pool then 2 else 1)
    let c := c.eachOf ons fun n c =>
      (((c.setPers n {}).lpQueued n).setN (R.LG_LP_BAND n) 0).lpGoto n lpIdle
    done (c.setB F.LG_STAT_RUNNING true)

/-- LEGACY_STOP. -/
def cmdLegacyStop (c : Core) (_q : CmdIn) : CmdOut :=
  let c := if c.st = stReady then c.bridgeJobEnd else c
  done (c.setB F.LG_STAT_RUNNING false)

def execLpMap (p : Packet) (s : State) : Host.Outcome State Fault Refusal := run 0xF0 p cmdLpMap s
def execLegacyStart (p : Packet) (s : State) : Host.Outcome State Fault Refusal := run 0xF1 p cmdLegacyStart s
def execLegacyStop (p : Packet) (s : State) : Host.Outcome State Fault Refusal := run 0xF2 p cmdLegacyStop s

end Sys2Proof.Machine
end

