-- ==== Sys2Proof/Machine/Pins.lean ====
section
/-!
DEFINITION. The balls of the package (spec/22_pins_package_electrical.md R555-R562), and for each signal its direction, its reset
state and the level that the device drives it to (R563).
-/

namespace Sys2Proof.Machine

/-! ### The array (R555, R556) -/

/-- The letters of row names: I, O, Q, R, S, X and Z are skipped. -/
def rowLetters : List Char :=
  ['A', 'B', 'C', 'D', 'E', 'F', 'G', 'H', 'J', 'K', 'L', 'M', 'N', 'P', 'T', 'U', 'V', 'W', 'Y']

/-- The name of the row of an index, 1 to 54. -/
def rowName (row : Nat) : String :=
  let lead := if row ≤ 19 then [] else if row ≤ 38 then ['A'] else ['B']
  String.ofList (lead ++ [rowLetters.getD ((row - 1) % 19) 'A'])

/-- The name of a ball. -/
def ballName (row col : Nat) : String := rowName row ++ toString col

/-- A region of the array. -/
inductive Region where
  | northQuill | southQuill | corner | mc (channel : Nat) | westSerdes | eastSerdes | sideSupply | northIo | core | southIo
  deriving DecidableEq, Repr

/-- The places of the regions: first and last row, first and last column (R556). -/
def regions : List (Region × Nat × Nat × Nat × Nat) :=
  [(.northQuill, 1, 8, 4, 51), (.southQuill, 47, 54, 4, 51),
   (.corner, 1, 8, 1, 3), (.corner, 1, 8, 52, 54), (.corner, 47, 54, 1, 3), (.corner, 47, 54, 52, 54),
   (.mc 0, 9, 36, 1, 9), (.mc 1, 9, 36, 10, 18), (.mc 3, 9, 36, 37, 45), (.mc 2, 9, 36, 46, 54),
   (.westSerdes, 37, 44, 1, 18), (.eastSerdes, 37, 44, 37, 54), (.sideSupply, 45, 46, 1, 18), (.sideSupply, 45, 46, 37, 54),
   (.northIo, 9, 16, 19, 36), (.core, 17, 38, 19, 36), (.southIo, 39, 46, 19, 36)]

/-- The regions that a place lies in. -/
def regionsAt (row col : Nat) : List Region :=
  (regions.filter fun x => decide (x.2.1 ≤ row) && decide (row ≤ x.2.2.1) && decide (x.2.2.2.1 ≤ col) &&
    decide (col ≤ x.2.2.2.2)).map (·.1)

/-! ### What a ball carries -/

/-- A supply. -/
inductive Supply where
  | vss | vdd | vddq | vddaSer | vddhSer | vddio18 | vdda33 | vddu | vddSense | vssSense
  deriving DecidableEq, Repr

/-- A signal of a DDR5 subchannel (R560). -/
inductive DdrSig where
  | dq (i : Nat) | cb (i : Nat) | dqsT (i : Nat) | dqsC (i : Nat) | ca (i : Nat) | csN (i : Nat) | ckT | ckC | par | alertN
  | resetN | lbdqs | lbdq | nc
  deriving DecidableEq, Repr

/-- What a ball carries; `tx` tells the transmitter of a link, `p` the positive ball of a pair. -/
inductive Ball where
  | supply (v : Supply)
  | ql (n : Nat) (tx p : Bool)
  | pcie (n : Nat) (tx p : Bool)
  | crew (port lane : Nat) (tx p : Bool)
  | eth (n : Nat) (tx p : Bool)
  | refclk (p : Bool)
  | pcieRefclk (p : Bool)
  | ethRefclk (p : Bool)
  | ddr (channel : Nat) (subB : Bool) (s : DdrSig)
  | memScl | memSda
  | fire (b : Nat) (p : Bool)
  | enc (n line : Nat) (p : Bool)
  | pco (m : Nat)
  | gate (g : Nat) (p : Bool)
  | gpio (i : Nat)
  | slowReq | faultN
  | health (i : Nat)
  | avsClk | avsMdata | avsSdata
  | rstN | perstN
  | bootMode (i : Nat)
  | qspiClk | qspiCsN
  | qspiIo (i : Nat)
  | tck | tms | tdi | tdo | trstN
  | camClk (n : Nat) (p : Bool)
  | camD (n lane : Nat) (p : Bool)
  | camScl (n : Nat) | camSda (n : Nat)
  | ts (n : Nat) (p : Bool)
  | lsck | lsdi | lsdo
  | lsel (i : Nat)
  | lattnN
  | ld (i : Nat)
  | ldstb | ldackN
  | ldadr (i : Nat)
  | nc
  deriving DecidableEq, Repr

def Ball.vss : Ball := .supply .vss

/-- A ball of a SERDES cell whose first row is `r0` (R557): its link's, or VSS. -/
def cellBall (r0 row dc : Nat) (link : Bool → Bool → Ball) : Ball :=
  let tx := if r0 ≤ 27 then r0 else r0 + 3
  let rx := if r0 ≤ 27 then r0 + 2 else r0 + 1
  if dc = 2 then .vss
  else if row = tx then link true (dc == 0)
  else if row = rx then link false (dc == 0)
  else .vss

/-- A reference clock's cell: the input pair on the places of RX, VSS on those of TX (R557). -/
def clockLink (b : Bool → Ball) (tx p : Bool) : Ball := if tx then .vss else b p

/-- The quill fields (R558). -/
def quillBall (row col : Nat) : Ball :=
  let j := (col - 4) / 3
  let north := decide (row ≤ 8)
  let t := if north then (row - 1) / 4 else (54 - row) / 4
  let r0 := if north then 1 + 4 * t else 51 - 4 * t
  let n := (if north then 0 else 16) + 8 * t + j / 2 + 32 * (j % 2)
  cellBall r0 row ((col - 4) % 3) (Ball.ql n)

/-- The links of the west and east cells, by tier and j (R559). -/
def westLink (t j : Nat) : Bool → Bool → Ball :=
  if t = 0 then Ball.pcie j
  else match j with
    | 0 | 1 => Ball.pcie (6 + j)
    | 2 | 3 => Ball.eth (j - 2)
    | 4 => clockLink Ball.pcieRefclk
    | _ => clockLink Ball.ethRefclk

def eastLink (t j : Nat) : Bool → Bool → Ball :=
  if t = 0 then Ball.crew (j / 2) (j % 2)
  else match j with
    | 0 | 1 => Ball.crew 3 j
    | 2 => clockLink Ball.refclk
    | _ => fun _ _ => .vss

/-- The west and east SERDES cells (R559). -/
def serdesBall (row col : Nat) : Ball :=
  let t := (row - 37) / 4
  if col ≤ 18 then cellBall (37 + 4 * t) row ((col - 1) % 3) (westLink t ((col - 1) / 3))
  else cellBall (37 + 4 * t) row ((col - 37) % 3) (eastLink t ((54 - col) / 3))

/-- Signal `s` of a DDR5 subchannel (R560). -/
def ddrSig (subB : Bool) (s : Nat) : DdrSig :=
  if s < 32 then .dq s
  else if s < 40 then .cb (s - 32)
  else if s < 60 then (if s % 2 = 0 then .dqsT ((s - 40) / 2) else .dqsC ((s - 40) / 2))
  else if s < 74 then .ca (s - 60)
  else if s < 78 then .csN (s - 74)
  else match s with
    | 78 => .ckT
    | 79 => .ckC
    | 80 => .par
    | 81 => .alertN
    | 82 => if subB then .lbdq else .resetN
    | _ => if subB then .nc else .lbdqs

/-- A ball of a DDR5 block (R560). -/
def ddrBall (channel row col : Nat) : Ball :=
  let subB := decide (23 ≤ row)
  let a := if subB then row - 23 else row - 9
  let e := match channel with
    | 0 => col - 1
    | 1 => col - 10
    | 2 => 54 - col
    | _ => 45 - col
  let k := 9 * a + e
  if k % 3 = 2 then .supply (if a % 2 = 0 then .vddq else .vss)
  else .ddr channel subB (ddrSig subB (2 * (k / 3) + k % 3))

/-- Signal `s` of the north I/O field (R561). -/
def northSig (s : Nat) : Ball :=
  if s < 32 then .fire (s / 2) (s % 2 == 0)
  else if s < 56 then .enc ((s - 32) / 6) ((s - 32) % 6 / 2) (s % 2 == 0)
  else if s < 72 then .pco (s - 56)
  else if s < 88 then .gate ((s - 72) / 2) (s % 2 == 0)
  else if s < 96 then .gpio (s - 88)
  else ([.slowReq, .faultN, .health 0, .health 1, .avsClk, .avsMdata, .avsSdata, .rstN, .perstN, .bootMode 0, .bootMode 1,
    .qspiClk, .qspiCsN, .qspiIo 0, .qspiIo 1, .qspiIo 2, .qspiIo 3, .tck, .tms, .tdi, .tdo, .trstN, .memScl,
    .memSda] : List Ball).getD (s - 96) .nc

/-- Signal `s` of the south I/O field (R561). -/
def southSig (s : Nat) : Ball :=
  if s < 40 then
    let n := s / 10
    let i := s % 10
    if i < 2 then .camClk n (i == 0) else .camD n ((i - 2) / 2) (i % 2 == 0)
  else if s < 48 then (if s % 2 = 0 then .camScl ((s - 40) / 2) else .camSda ((s - 40) / 2))
  else if s < 80 then .ts ((s - 48) / 2) (s % 2 == 0)
  else if s < 87 then ([.lsck, .lsdi, .lsdo, .lsel 0, .lsel 1, .lsel 2, .lattnN] : List Ball).getD (s - 80) .nc
  else if s < 103 then .ld (s - 87)
  else ([.ldstb, .ldackN, .ldadr 0, .ldadr 1, .ldadr 2] : List Ball).getD (s - 103) .nc

/-- A ball of an I/O field, from the field's first row (R561). -/
def ioBall (first row col : Nat) (sig : Nat → Ball) : Ball :=
  let k := 18 * (row - first) + (col - 19)
  if k % 6 = 5 then .vss else sig (5 * (k / 6) + k % 6)

/-- The supply balls outside the DDR5 blocks (R562). -/
def coreBall (row col : Nat) : Ball :=
  if row = 27 ∧ col = 27 then .supply .vssSense
  else if row = 27 ∧ col = 28 then .supply .vddSense
  else .supply (if (row + col) % 2 = 0 then .vss else .vdd)

def cornerBall (col : Nat) : Ball :=
  .supply (if col = 1 ∨ col = 54 then .vddaSer else if col = 2 ∨ col = 53 then .vddhSer else .vss)

def sideBall (row col : Nat) : Ball :=
  .supply (if row = 46 then .vss else if col ≤ 9 then .vddaSer else if col ≤ 45 then .vddio18 else if col ≤ 51 then .vdda33 else .vddu)

/-- What the ball at a place carries. -/
def ballAt (row col : Nat) : Ball :=
  match (regionsAt row col).head? with
  | some .northQuill | some .southQuill => quillBall row col
  | some .corner => cornerBall col
  | some (.mc i) => ddrBall i row col
  | some .westSerdes | some .eastSerdes => serdesBall row col
  | some .sideSupply => sideBall row col
  | some .northIo => ioBall 9 row col northSig
  | some .core => coreBall row col
  | some .southIo => ioBall 39 row col southSig
  | none => .nc

/-! ### Directions, reset states and levels (R563) -/

/-- The direction of a signal. -/
inductive PinDir where
  | input | output | both | supply | none
  deriving DecidableEq, Repr

/-- The direction of a ball (R563). -/
def Ball.dir : Ball → PinDir
  | .supply _ => .supply
  | .ql _ tx _ | .pcie _ tx _ | .crew _ _ tx _ | .eth _ tx _ => if tx then .output else .input
  | .refclk _ | .pcieRefclk _ | .ethRefclk _ | .enc .. | .gate .. | .ts .. | .camClk .. | .camD .. | .rstN | .perstN | .bootMode _
  | .tck | .tms | .tdi | .trstN | .avsSdata | .lsck | .lsdi | .lsel _ | .ld _ | .ldstb | .ldadr _ => .input
  | .ddr _ _ s => if s = .nc then .none else .both
  | .memScl | .memSda | .camScl _ | .camSda _ | .gpio _ | .qspiClk | .qspiCsN | .qspiIo _ => .both
  | .fire .. | .pco _ | .slowReq | .faultN | .health _ | .tdo | .avsClk | .avsMdata | .lsdo | .lattnN | .ldackN => .output
  | .nc => .none

/-- A level on a ball: high, low, or not driven. -/
inductive PinLevel where
  | high | low | open_
  deriving DecidableEq, Repr

def PinLevel.of (v : Bool) : PinLevel := if v then .high else .low

/-- The reset state of an output that the table gives one, from the rise of the supplies until its unit drives it (R563). -/
def Ball.resetLevel : Ball → Option PinLevel
  | .fire _ p => some (.of (!p))
  | .pco _ | .slowReq | .health _ | .faultN | .avsClk => some .low
  | .gpio _ | .tdo | .lsdo | .lattnN | .ldackN | .camScl _ | .camSda _ | .qspiIo _ => some .open_
  | .qspiCsN | .avsMdata => some .high
  | .qspiClk => some .low
  | _ => none

/-- FIRE_CFG.POL of the generation whose line a bar fires (R85). -/
def Core.firePol (c : Core) (b : Nat) : Bool :=
  (if c.job.tof then c.genAt (c.bar b).curLine else c.newest).fb (F.FIRE_CFG_POL b)

/-- A bar's FIRE output has P above N: active with POL = 0, inactive with POL = 1 (R85). -/
def Core.fireP (c : Core) (b : Nat) : Bool := (c.bar b).active != c.firePol b

/-- The instruction of the test access port that acts: EXTEST, CLAMP and HIGHZ only in BOOT, else as BYPASS
(spec/19_observation_and_test.md R519). -/
def State.tapActs (s : State) : TapInstr :=
  match s.tap.instr with
  | .extest _ | .clamp | .highz => if s.core.st = stBoot then s.tap.instr else .bypass
  | i => i

/-- The balls of the boundary chain: every signal but the PCIe, quill, crew, Ethernet and D-PHY pairs (spec/19_observation_and_test.md
R519), and the test access port's own (PRESUMED, log entry 73). -/
def Ball.inChain : Ball → Bool
  | .supply _ | .nc | .ql .. | .pcie .. | .crew .. | .eth .. | .camClk .. | .camD .. | .tck | .tms | .tdi | .tdo | .trstN => false
  | .ddr _ _ s => s != .nc
  | _ => true

/-- The level that a cell of the boundary chain drives its ball to; none where no cell has been loaded. -/
def State.cellLevel (s : State) (b : Ball) : Option PinLevel :=
  (s.tap.cells.find? fun x => ballAt x.row x.col = b).map fun x => match x.drive with
    | some v => .of v
    | none => .open_

/-- The level of a ball by the boundary chain, where an instruction takes the outputs over. -/
def State.tapLevel (s : State) (b : Ball) : Option (Option PinLevel) :=
  if b.inChain ∧ (b.dir = .output ∨ b.dir = .both) then
    match s.tapActs with
    | .extest _ | .clamp => some (s.cellLevel b)
    | .highz => some (some .open_)
    | _ => none
  else none

/-- The level that the device drives a ball to by the rules of the unit that owns it: FIRE (R85), PCO (R70, R75), SLOW_REQ (R98),
HEALTH and FAULT_N (R486, R488), GPIO (R554), LATTN_N (R405), LDACK_N (R406). Held in reset, the reset states stand; the other
outputs are serial links, whose levels the model does not give. -/
def State.unitLevel (s : State) (b : Ball) : Option PinLevel :=
  let c := s.core
  let openDrain := fun (low : Bool) => some (if low then PinLevel.low else .open_)
  if c.pwr.held ≠ 0 then b.resetLevel
  else match b with
    | .fire n p => some (.of (c.fireP n == p))
    | .pco m => some (.of (c.fb (F.CMP_STATUS_ACTIVE m) != c.fb (F.CMP_CFG_POL m)))
    | .slowReq => some (.of (c.fb F.FIRE_SLOW_STAT_SLOW_REQ != c.fb F.FIRE_CTRL_SLOW_POL))
    | .health i => some (.of (bit (c.f F.UMP_STAT_HEALTH) i))
    | .faultN => openDrain c.ump.faultN
    | .gpio i => some (if bit (c.n R.DEV_GPO) (8 + i) then .of (bit (c.n R.DEV_GPO) i) else .open_)
    | .lattnN => openDrain (c.fb F.LG_STAT_LATTN)
    | .ldackN => openDrain s.leg.ack
    | _ => none

/-- The level of a ball: the boundary chain's, or the unit's. -/
def State.level (s : State) (b : Ball) : Option PinLevel := (s.tapLevel b).getD (s.unitLevel b)

/-- What the boundary chain captures of the balls whose levels the model gives. -/
def State.bsCapture (s : State) : List BsCell :=
  (List.range 54).flatMap fun r => (List.range 54).filterMap fun k =>
    let b := ballAt (r + 1) (k + 1)
    if b.inChain then (s.level b).map fun v =>
      { row := r + 1, col := k + 1, drive := if v = .open_ then none else some (v == .high) }
    else none

end Sys2Proof.Machine
end

