-- ==== Sys2Proof/Machine/Logbook.lean ====
section
/-!
DEFINITION. The commands of the logbook, the performance counters and test (spec/19_observation_and_test.md R496-R504,
R512-R519).
-/

namespace Sys2Proof.Machine

/-! ### LOG_CTRL (R503) -/

/-- Start: the ring is judged; a stopped logbook begins at segment 0 and record 0. -/
def Core.logStart (c : Core) (dataEn : Bool) : Core :=
  let fresh := !c.fb F.LOG_CFG_RUN
  let c := (c.setB F.LOG_CFG_RUN true).setB F.LOG_CFG_DATA_EN dataEn
  let c := if fresh then
      let c := ((c.setN R.LOG_WR 0).setN R.LOG_SEG_SEQ 0).setN R.LOG_OLDEST 0
      let c := c.setN R.LOG_REC_CNT 0
      { c with log := { c.log with blk := [], blkRecs := 0, segUsed := 0, web := [], lost := 0, full := false, sigMask := 0 } }
    else c
  let c := c.logSnapshot
  c.post 0x0A20 31 (c.n R.LOG_SEG_SEQ)

/-- Stop: END, the block closed, 0x0A21. -/
def Core.logStop (c : Core) : Core :=
  if c.fb F.LOG_CFG_RUN then
    let c := ((c.logRec 0x1C []).logClose).setB F.LOG_CFG_RUN false
    c.post 0x0A21 31 (c.n R.LOG_REC_CNT)
  else c

/-- LOG_CTRL. -/
def Core.cmdLogCtrl (c : Core) (q : CmdIn) : CmdOut :=
  let act := q.u8 0
  let en := bit (q.u8 1) 0
  let run := c.fb F.LOG_CFG_RUN
  let base := c.n64 R.LOG_BASE_LO
  let mib := c.f F.LOG_SIZE_MIB
  let start := act == 1
  c.judge [(decide (2 < act) || bits (q.u8 1) 1 7 != 0 || q.u16 2 != 0 || (!start && en) || (act == 2 && !run), rBadParam),
    (start && (decide (mib < 16) || decide (4096 < mib) || !c.mayReach base (mib * 2 ^ 20)), rRange),
    (start && base % 2 ^ 20 != 0, rAlign)] fun c =>
    done (match act with
      | 1 => c.logStart en
      | 2 => c.logRec 0x1A (leBytes 4 (q.u32 4))
      | _ => c.logStop)

/-- LOG_CTRL. -/
def execLogCtrl (p : Packet) (s : State) : Host.Outcome State Fault Refusal := run 0x90 p Core.cmdLogCtrl s

/-! ### LOG_EXPORT (R398, R504) -/

def Core.cmdLogExport (c : Core) (q : CmdIn) : CmdOut :=
  let from_ := q.u64 0
  let dest := q.u64 8
  let len := q.u32 16
  let size := c.f F.LOG_SIZE_MIB * 2 ^ 20
  c.judge [((c.asyncOf 0x91).isSome, rBusy), (q.u32 20 != 0 || from_ % 2 ^ 20 != 0, rBadParam),
    (decide (size < from_) || decide (size < len), rRange), (dest % 64 != 0 || len % 64 != 0, rAlign)] fun c =>
    accepted (c.start 0x91 q from_ dest len)

/-- LOG_EXPORT. -/
def execLogExport (p : Packet) (s : State) : Host.Outcome State Fault Refusal := run 0x91 p Core.cmdLogExport s

/-- Pieces of 64 bytes copied from the ring to the host, with the ring's size; the first poisoned one ends the copy. -/
def Core.exportCopy (c : Core) (base size : Nat) : Nat → Nat → Nat → Core × Bool
  | 0, _, _ => (c, true)
  | n + 1, ofs, dest =>
    match c.fetch (base + ofs % size) 64 with
    | (c, some l) => Core.exportCopy (c.pushHost dest l) base size n (ofs + 64) (dest + 64)
    | (c, none) => (c, false)

/-- The logbook as a requester of an export's reads: class BE (R504). -/
def Core.byExport (c : Core) : Core := { c with mem := { c.mem with last := some (52, .be) } }

/-- LOG_EXPORT_DONE: the ring's bytes, as they stand, are in host memory (R504). -/
def execLogExportDone (s : State) : Host.Outcome State Fault Refusal :=
  let c := s.core
  .next { s with core := match c.asyncOf 0x91 with
    | none => c
    | some a =>
      let (c, ok) := c.byExport.exportCopy (c.n64 R.LOG_BASE_LO) (max 64 (c.f F.LOG_SIZE_MIB * 2 ^ 20)) (a.c / 64) a.a a.b
      c.asyncEnd a (if ok then rDone else rMemory) }

/-! ### Blocks and losses (R497, R502) -/

/-- LOG_BLOCK_CLOSE: 10 ms after its first record a block closes; entries of the web gathered so long become a record. -/
def execLogBlockClose (s : State) : Host.Outcome State Fault Refusal :=
  let c := s.core
  let due := if c.log.blk = [] then c.log.web != [] && decide (c.log.webAt + 10 * msec ≤ c.now)
    else decide (c.log.blkStart + 10 * msec ≤ c.now)
  .next { s with core := if c.logging && due then c.logWebFlush.logClose else c }

/-- LOG_LOST: the buffer of 512 KiB is full, and the next record that finds it so is lost (R502). The pace of the encoder and of the ring's
writes, which fills it, is timing that the command brings (log entry 72). -/
def execLogLost (s : State) : Host.Outcome State Fault Refusal :=
  let c := s.core
  .next { s with core := if c.logging then { c with log := { c.log with full := true } } else c }

/-- LOG_RATE and LOG_RATIO of the last second (R520). -/
def Core.logSecond (c : Core) : Core :=
  let i := c.log.inSec
  let c := (c.setN R.LOG_RATE (i / 1024)).setF F.LOG_RATIO_R (if i = 0 then 0 else min 65535 (c.log.outSec * 256 / i))
  { c with log := { c.log with inSec := 0, outSec := 0 } }

/-! ### Performance counters (R514) -/

/-- The 256 counters copied at one instant. -/
def Core.perfSnap (c : Core) : Core :=
  let r := c.each 256 fun i k => k.setR (R.PERF_SNAPV i) (c.r (R.PERF_CNT i))
  r.setN R.PERF_SNAP_T32 c.t32

/-- PERF_SNAP: 1 written to PERF_SNAP. -/
def execPerfSnap (s : State) : Host.Outcome State Fault Refusal :=
  .next { s with core := s.core.hostReg .host0 R.PERF_SNAP 1 Core.perfSnap }

/-! ### Loopbacks and interface tests (R515, R516) -/

/-- The test may run in the present state. -/
def Core.testAllowed (c : Core) (ifc idx : Nat) : Bool :=
  match ifc with
  | 0 => true
  | 1 => decide (idx < 2) && !c.ptpOn idx
  | 2 => decide (idx < 8) && !c.formed
  | 3 => decide (idx < 4) && !c.isSource idx
  | 4 => decide (idx < 8) && (match c.test with
    | some t => t.mode != 1
    | none => true)
  | 5 => decide (idx < 16) && !c.fb (F.TS_CFG_HEAD_EN idx)
  | 6 => decide (idx < 16)
  | _ => false

/-- The payload bits that a lane carries in `d` units of 1.25 ns: 25 Gb/s on a crew lane, 10 Gb/s on an Ethernet port with the 10GBASE-R
PHY and 1 Gb/s with 1000BASE-X (R458; spec/17_time_and_crew.md R451; log entry 73). -/
def Core.tstBits (c : Core) (d : Nat) : Nat :=
  if c.f F.TST_CTRL_IF = 2 then 125 * d / 4 else if c.fb (F.ETH_CFG_PHY (c.f F.TST_CTRL_INDEX)) then 5 * d / 4 else 25 * d / 2

/-- The pattern generator and the checker of a lane in a tick (R516): near loops bring the bits back. -/
def Core.tstPattern (c : Core) : Core :=
  let t := c.tst
  let p := prbsPoly (c.f F.TST_CTRL_PRBS)
  let gen := c.fb F.TST_CTRL_GEN
  let n := c.tstBits (c.now - t.since)
  let (bits, reg) := if gen then prbsTake p (n - t.made) t.reg else ([], t.reg)
  let near := c.f F.TST_CTRL_DEPTH == 1 || c.f F.TST_CTRL_DEPTH == 2
  let back := near && c.fb F.TST_CTRL_CHK
  let (ref, errs) := if back then prbsCheck p t.ref bits else (t.ref, 0)
  let c := { c with tst := { t with made := n, reg := reg, out := bits, ref := ref } }
  if back then (c.addN R.TST_ERR errs).setB F.TST_STAT_SYNC (ref.length == p.1) else c

/-- The encoder's generator (R515): a count every 80 ns in place of the receiver's, TST_COUNT forward and as many back; a count that
has not returned to its start is a mismatch. -/
def Core.tstEncoder (c : Core) : Core :=
  let t := c.tst
  let n := c.f F.TST_CTRL_INDEX
  if 2 * t.goal ≤ t.made ∨ c.now < t.since + 64 * (t.made + 1) ∨ c.fb (F.ENC_CFG_EN n) = false ∨ c.replay then c
  else
    let c := { c with tst := { t with made := t.made + 1 } }
    let c := c.legalCount n (decide (t.goal ≤ t.made) != c.fb (F.ENC_CFG_INVERT n))
    if t.made + 1 = 2 * t.goal ∧ (c.enc n).count ≠ t.start then c.addN R.TST_ERR 1 else c

/-- A tick of the interface test under way. -/
def Core.tstTick (c : Core) : Core :=
  match c.f F.TST_CTRL_IF with
  | 1 | 2 => c.tstPattern
  | 3 => c.tstEncoder
  | _ => c

/-- A write of TST_CTRL: refused as a whole where the test is not allowed, or another one runs; the errors found since the write before
are counted, and IF = 0 ends the test. -/
def Core.tstCtrl (c : Core) (v : Nat) (seen : TstSeen) : Core :=
  let now := c.f F.TST_CTRL_IF
  let ifc := bits v 0 4
  let idx := bits v 4 4
  let same := now == ifc && c.f F.TST_CTRL_INDEX == idx
  let chk := (ifc == 1 || ifc == 2) && bit v 11
  let near := bits v 8 2 == 1 || bits v 8 2 == 2
  if !c.testAllowed ifc idx || (now != 0 && ifc != 0 && !same) then c
  else
    let c := if now = 0 then c else c.addN R.TST_ERR seen.errs
    let c := c.setN R.TST_CTRL (v % 2 ^ 14)
    let c := (c.setB F.TST_STAT_ACTIVE (ifc != 0)).setB F.TST_STAT_SYNC (chk && !near && seen.sync)
    if ifc ≠ 0 then
      let t := if now = 0 then { since := c.now, goal := c.f F.TST_COUNT_CNT, start := (c.enc idx).count } else { c.tst with ref := [] }
      { c with tst := t }
    else if now ≠ 0 then { c with tst := {} }.post 0x0A27 31 (c.n R.TST_ERR)
    else c

/-- TST_CTRL_WRITE. -/
def execTstCtrlWrite (v : Word) (seen : TstSeen) (s : State) : Host.Outcome State Fault Refusal :=
  .next { s with core := s.core.hostReg .host0 R.TST_CTRL v fun c => c.tstCtrl v.toNat seen }

/-! ### SELF_TEST (R517) -/

def Core.cmdSelfTest (c : Core) (q : CmdIn) : CmdOut :=
  let cls := q.u8 0
  let idx := q.u8 1
  let sub := q.u8 2
  let out := unitRange cls idx sub
  let busy := !out && (c.selfTesting cls idx sub || (match cls with
    | 0 => c.nibState idx == 1 || c.nibState idx == 2 || c.ump.returning.contains (cls, idx) || (c.asyncOf 0x05).isSome
    | 1 => idx == c.activeCox || c.ump.returning.contains (cls, idx) || (c.asyncOf 0x05).isSome || (c.asyncOf 0xA1).isSome
    | 2 => c.rankState (4 * idx + sub) == 6 || c.rankTaken (4 * idx + sub) || (c.asyncOf 0x70).isSome
    | _ => false))
  let absent := !out && cls == 2 && c.rankState (4 * idx + sub) == 0
  c.judge [(busy, rBusy), (q.u8 3 != 0, rBadParam), (out || absent, rRange)] fun c =>
    let c := c.start 0x94 q cls idx (if cls = 3 then b2n (c.laneActive idx) else sub)
    accepted (if cls = 3 ∧ ¬ c.laneActive idx then c.laneStart idx else c)

/-- SELF_TEST. -/
def execSelfTest (p : Packet) (s : State) : Host.Outcome State Fault Refusal := run 0x94 p Core.cmdSelfTest s

/-- R294's conditions for the last second, and no STATUS with LOST in it. -/
def Core.laneClean (c : Core) (n : Nat) : Bool :=
  let u := c.lane n
  (u.uncAt.all fun t => decide (t + sec ≤ c.now)) && (match u.frameFail with
    | some t => decide (t + sec ≤ c.now)
    | none => true)

/-- What a self-test leaves (R517; spec/18_fault_tolerance.md R476): a lane that was not ACTIVE returns through DETECT; a spare nib or
standby cox that fails is isolated. -/
def Core.selfTested (c : Core) (a : Async) (pass : Bool) : Core :=
  if a.a = 3 ∧ a.c = 0 then (if c.fb (F.QLN_CFG_EN a.b) then c.laneStart a.b else c.laneState a.b 0)
  else if pass then c
  else if a.a = 0 ∧ c.nibState a.b = 0 then c.isolateNib a.b 11
  else if a.a = 1 ∧ a.b ≠ c.activeCox ∧ bit (c.f F.UMP_ISOL_COX_COX) a.b = false then c.standbyFail else c

/-- SELF_TEST_DONE: the oldest self-test ends; one that only observes is judged by what was observed. -/
def execSelfTestDone (ok : Bool) (s : State) : Host.Outcome State Fault Refusal :=
  let c := s.core
  .next { s with core := match c.asyncOf 0x94 with
    | none => c
    | some a =>
      let pass := if a.a = 3 ∧ a.c = 1 then c.laneActive a.b && c.laneClean a.b else if a.a = 4 then c.encClean else ok
      (c.selfTested a pass).asyncEnd a (if pass then rDone else rHwFault) }

/-! ### The test access port (R519) -/

/-- What the data register that the instruction selects shifts out: IDCODE, the bypass bit, or for SAMPLE/PRELOAD and EXTEST the
chain, whose order is not stated: a free value (log entry 3). -/
def State.tapCapture (s : State) : Nat × Core :=
  match s.tapActs with
  | .idcode => (0x1E220A53, s.core)
  | .samplePreload _ | .extest _ => s.core.free
  | .bypass | .clamp | .highz => (0, s.core)

/-- The cells of the chain after a scan. -/
def bsLoad (old scan : List BsCell) : List BsCell :=
  scan ++ old.filter fun x => !scan.any fun y => y.row == x.row && y.col == x.col

/-- The boundary chain captures the balls, and takes the scan that follows. -/
def State.tapScan (s : State) : Tap :=
  match s.tapActs with
  | .samplePreload l | .extest l => { s.tap with seen := s.bsCapture, cells := bsLoad s.tap.cells l }
  | _ => s.tap

/-- TAP_INSTRUCTION: an instruction enters the register, with the scan of the chain that follows it; the port then shows what it
captures. -/
def execTapInstruction (ir : TapInstr) (s : State) : Host.Outcome State Fault Refusal :=
  let s := { s with tap := { s.tap with instr := ir } }
  let (v, c) := s.tapCapture
  .next { s with core := { c with lastRead := v }, tap := s.tapScan }

/-- TRST_N_RESET: only the TAP is reset (spec/20_power_clocks_boot.md R531), to IDCODE. -/
def execTrstNReset (s : State) : Host.Outcome State Fault Refusal := .next { s with tap := {} }

end Sys2Proof.Machine
end

