-- ==== Sys2Proof/Machine/Registers.lean ====
section
/-!
DEFINITION. Register accesses (spec/00_scope.md R2-R5, spec/21_register_map.md R547-R551): writes by access type, with the
effects that the chapters give particular registers; reads of 64-bit values and of RC counters; BAR2; and the resets of the
host interface (spec/13_host_and_command_protocol.md R353).
-/

namespace Sys2Proof.Machine

/-! ### Writes -/

/-- The plain effect of a write. -/
def Core.plainWrite (c : Core) (off v : Nat) : Core :=
  match regRow off with
  | some r => c.setN off (r.write (c.n off) v)
  | none => c

/-- ENC1 disabled, or ENC1_TRACK_EN cleared, ends the tracking: the next count of ENC0 with both set is a new arming (R60). -/
def Core.trackSync (c : Core) : Core := (if c.mayTrack then c else { c with web := { c.web with tracking := false } }).health

/-- A write of ENCn_CFG: MODE 2 and 3 read as 0 (R76); Z_EN set starts the index anew (R45). HYST above 60 stays as written, and
the counts of R48 go on (log entry 45). -/
def Core.encCfg (c : Core) (n v : Nat) : Core :=
  let z := c.fb (F.ENC_CFG_Z_EN n)
  let c := c.plainWrite (R.ENC_CFG n) v
  let c := if 2 ≤ c.f (F.ENC_CFG_MODE n) then c.setF (F.ENC_CFG_MODE n) 0 else c
  let c := if !z && c.fb (F.ENC_CFG_Z_EN n) then c.setEnc n { c.enc n with idxValid := false } else c
  if n = 1 then c.trackSync else c

/-- A write of CAMn_CFG: FN restarts at 0 when the port is enabled (R243); a port disabled or enabled has no frame open. -/
def Core.camCfg (c : Core) (n v : Nat) : Core :=
  let was := c.fb (F.CAM_CFG_EN n)
  let c := c.plainWrite (R.CAM_CFG n) v
  let on := c.fb (F.CAM_CFG_EN n)
  if was = on then c
  else
    let c := c.setCam n { c.cam n with
      fn := 0, trigs := [], opened := none, lastPkt := none, tapWait := [], tapFn := none, testAt := c.now }
    (c.setB (F.CAM_STATUS_FRAME_OPEN n) false).setB (F.CAM_TAP_BUSY n) false

/-- A write of TIME_CFG: SERVO_EN cleared enters FREE (spec/17_time_and_crew.md R453). -/
def Core.timeCfg (c : Core) (v : Nat) : Core :=
  let was := c.fb F.TIME_CFG_SERVO_EN
  let c := c.plainWrite R.TIME_CFG v
  if was && !c.fb F.TIME_CFG_SERVO_EN then c.timeGoto tFree else c

/-- A write of ETHp_CFG: a port disabled has no link. -/
def Core.ethCfg (c : Core) (p v : Nat) : Core :=
  let c := c.plainWrite (R.ETH_CFG p) v
  if c.fb (F.ETH_CFG_EN p) then c else c.ethLink p false

/-- A write of EV_CFG: an enabled ring begins empty; its first records report the last reset of the host interface (R353) and the
image booted (spec/20_power_clocks_boot.md R535). -/
def Core.evCfg (c : Core) (v : Nat) : Core :=
  let was := c.fb F.EV_CFG_EN
  let c := c.plainWrite R.EV_CFG v
  if !was && c.fb F.EV_CFG_EN then
    let cause := c.hi.resetCause
    let boot := c.pwr.bootEvent
    let c := c.setF F.EV_TAIL_TAIL 0
    let c := { c with hi := { c.hi with evHead := 0, evUsed := 0, evDropped := 0, evUnsig := 0, resetCause := none }
                      pwr := { c.pwr with bootEvent := none } }
    let c := match cause with
      | some k => c.post 0x0A08 31 k
      | none => c
    match boot with
    | some d => c.post 0x0E07 31 d
    | none => c
  else c

/-- A 32-bit write takes effect, by block. -/
def Core.write32 (c : Core) (off v : Nat) : Core :=
  let blk := off % 0x10000
  match off / 0x10000 with
  | 1 =>
    if off = R.EV_CFG then c.evCfg v
    else if off = R.EV_HEAD then c.evHeadWr v
    else if 0x100 ≤ blk ∧ blk < 0x200 ∧ blk % 0x20 = 8 then c.sqCfg ((blk - 0x100) / 0x20) v
    else if 0x200 ≤ blk ∧ blk < 0x300 ∧ blk % 0x20 = 8 then c.cqCfg ((blk - 0x200) / 0x20) v
    else if 0x1000 ≤ blk ∧ blk < 0x1040 then
      (if blk % 8 = 0 then c.sqTail ((blk - 0x1000) / 8) v else c.cqHead ((blk - 0x1000) / 8) v)
    else if 0x2000 ≤ blk ∧ blk < 0x2400 ∧ blk % 16 = 12 then (c.plainWrite off v).unmaskVec ((blk - 0x2000) / 16)
    else c.plainWrite off v
  | 2 =>
    if blk < 0x400 ∧ blk % 0x100 = 0 then c.encCfg (blk / 0x100) v
    else if blk < 0x400 ∧ blk % 0x100 = 0x28 then
      (c.plainWrite off v).setEnc (blk / 0x100) { c.enc (blk / 0x100) with idxValid := false }
    else if off = R.WEB_CTRL then (c.plainWrite off v).trackSync
    else if 0x1000 ≤ blk ∧ blk % 0x40 = R.CMP_INTERVAL 0 % 0x40 then (c.plainWrite off v).cmpErrSync ((blk - 0x1000) / 0x40)
    else if 0x1000 ≤ blk ∧ blk % 0x40 = 0 then c.cmpCfg ((blk - 0x1000) / 0x40) (BitVec.ofNat 32 v)
    else c.plainWrite off v
  | 3 =>
    if off = R.FIRE_WD_CLEAR then (c.wdClear v).1
    else if blk < 0x400 ∧ blk % 0x40 = 0x20 ∧ (c.st = stArmed ∨ c.running ∨ c.replay) then c
    else c.plainWrite off v
  | 9 => if blk < 0x1000 ∧ blk % 0x400 = 0 then c.camCfg (blk / 0x400) v else c.plainWrite off v
  | 0xA =>
    if 0x100 ≤ blk ∧ blk < 0x1100 then
      let n := (blk - 0x100) / 0x40
      match blk % 0x40 with
      | 0 => c.qlCfg n v
      | 0x20 => c.qlTest n v
      | 0x30 => if bit v 0 then c.laneRetrain n else c
      | _ => c.plainWrite off v
    else c.plainWrite off v
  | 0xC => if off = R.MEM_LOOP then c.memLoop v else c.plainWrite off v
  | 0xF =>
    if off = R.TIME_CFG then c.timeCfg v
    else if 0x100 ≤ blk ∧ blk < 0x200 ∧ blk % 0x80 = 0 then c.ethCfg ((blk - 0x100) / 0x80) v
    else c.plainWrite off v
  | 0x12 => if off = R.TST_CTRL then c.tstCtrl v {} else c.plainWrite off v
  | 0x13 =>
    if off = R.PERF_SNAP then (if bit v 0 then c.perfSnap else c)
    else c.plainWrite off (v &&& 0x55555555)
  | _ => c.plainWrite off v

/-- A 64-bit write takes effect as one value (R3), but for the bases of enabled queues (R354) and the alignment of PB0
(spec/03_firing.md R78). -/
def Core.write64 (c : Core) (lo vlo vhi : Nat) : Core :=
  let blk := lo % 0x10000
  let sqb := decide (0x10100 ≤ lo) && decide (lo < 0x10200) && c.fb (F.SQ_CFG_EN ((blk - 0x100) / 0x20))
  let cqb := decide (0x10200 ≤ lo) && decide (lo < 0x10300) && c.fb (F.CQ_CFG_EN ((blk - 0x200) / 0x20))
  if sqb || cqb || lo == R.FIRE_ALIGN_FWD_LO 0 || lo == R.FIRE_ALIGN_REV_LO 0 then c
  else
    let v := if lo = R.HI_APERTURE_LO then vlo / 2 ^ 20 * 2 ^ 20 else vlo
    (c.plainWrite lo v).plainWrite (lo + 4) vhi

/-- A low word staged in the requester's window (R550). -/
def Core.stage (c : Core) (w : Win) (lo : Nat) (v : Word) : Core :=
  { c with hi := { c.hi with wrStage := Tab.set (fun _ => (0, 0)) c.hi.wrStage (winIx w) (lo, v) } }

/-- A write of a listed register by a requester: low words are staged, high words act with them. -/
def Core.applyWrite (c : Core) (w : Win) (off : Nat) (v : Word) : Core :=
  if isLo off then c.stage w off v
  else if 4 ≤ off ∧ isLo (off - 4) then
    if 0x21000 ≤ off ∧ off < 0x21400 then c.cmpTarget ((off - 0x21000) / 0x40) w v
    else if 0xD0100 ≤ off ∧ off < 0xD0500 then c.dmaAppend ((off - 0xD0100) / 0x40) w v
    else
      let lo := c.lowOf w (off - 4)
      (c.stageUsed w (off - 4)).write64 (off - 4) lo.toNat v.toNat
  else c.write32 off v.toNat

/-- A register write by a requester: BAR2 takes none (R514), nor does an address that no table lists (R5, R547). -/
def State.regWrite (s : State) (w : Win) (off : Nat) (v : Word) : State :=
  let c := s.core
  if c.pwr.held ≠ 0 ∨ c.winCut w then s
  else if w = .host2 then { s with core := c.violate .bar2 off true }
  else if off % 4 ≠ 0 then { s with core := c.violate .bar0 off true }
  else match regRow off with
    | none => { s with core := c.violate .bar0 off true }
    | some r =>
      if off = R.DMA_SWREQ then s.dmaSwreq w v
      else if r.writes then { s with core := c.hostReg w off v fun c => c.applyWrite w off v }
      else if c.blockAnswers off then { s with core := c.resvNote off v }
      else { s with core := c.violate .bar0 off true }

/-- REGISTER_WRITE. -/
def execRegisterWrite (w : Win) (off : BitVec 21) (v : Word) (s : State) : Host.Outcome State Fault Refusal :=
  .next (s.regWrite w off.toNat v)

/-! ### Reads -/

/-- A value of 64 bits as the word at its low or high offset. -/
def wordOf (v : Nat) (hi : Bool) : Nat := (if hi then v / 2 ^ 32 else v) % 2 ^ 32

/-- Seconds since the last cold reset (R553). -/
def Core.uptime (c : Core) : Nat := (c.now - c.pwr.coldAt) / sec

/-- QLn in DOWN or FAILED, as bits (spec/18_fault_tolerance.md R494). -/
def Core.lanesOut (c : Core) : Nat :=
  (List.range 64).foldl (fun m n =>
    if c.f (F.QLN_STATE_STATE n) = 5 ∨ c.f (F.QLN_STATE_STATE n) = 6 then m + 2 ^ n else m) 0

/-- GPIO levels: a driven pin reads back what it is driven to (R554). -/
def Core.gpi (c : Core) : Nat :=
  (List.range 8).foldl (fun m i =>
    m + 2 ^ i * (if bit (c.n R.DEV_GPO) (8 + i) then bits (c.n R.DEV_GPO) i 1 else bits (c.n R.DEV_GPI) i 1)) 0

/-- HI_PCIE_STAT (spec/13_host_and_command_protocol.md R348, R375): the link as trained last, up while the device is not held (log
entry 63). -/
def Core.linkStat (c : Core) : Nat :=
  if c.pwr.held ≠ 0 then 0
  else
    let v := (Config.pcieLink c.hi.trains).toNat
    let w := match v / 4 % 3 with
      | 0 => 1
      | 1 => 4
      | _ => 8
    v % 4 + 1 + w * 256 + 4096

/-- The value that a register shows: its word, or what the device computes for it. -/
def Core.view (c : Core) (off : Nat) : Nat :=
  let blk := off % 0x10000
  match off / 0x10000 with
  | 0 =>
    if off = R.DEV_STATE then setBits (c.n off) 0 4 c.devState
    else if off = R.DEV_STROKE_LO then wordOf (c.web.s % 2 ^ 48) false
    else if off = R.DEV_STROKE_HI then wordOf (c.web.s % 2 ^ 48) true
    else if off = R.DEV_GPI then c.gpi
    else if off = R.DEV_UPTIME then c.uptime % 2 ^ 32
    else c.n off
  | 1 => if off = R.HI_PCIE_STAT then c.linkStat else c.n off
  | 2 =>
    if blk < 0x400 then
      let e := c.enc (blk / 0x100)
      match blk % 0x100 with
      | 0x0C => wordOf (wrap 64 e.count) false
      | 0x10 => wordOf (wrap 64 e.count) true
      | 0x14 => wordOf (wrap 64 (e.pos / 2 ^ 32)) false
      | 0x18 => wordOf (wrap 64 (e.pos / 2 ^ 32)) true
      | _ => c.n off
    else if off = R.WEB_POS_LO then wordOf (wrap 64 c.webPos) false
    else if off = R.WEB_POS_HI then wordOf (wrap 64 c.webPos) true
    else if off = R.WEB_NEXT_STROKE_LO then wordOf (wrap 64 (c.web.bNext / 2 ^ 32)) false
    else if off = R.WEB_NEXT_STROKE_HI then wordOf (wrap 64 (c.web.bNext / 2 ^ 32)) true
    else c.n off
  | 6 =>
    if 0x100 ≤ blk ∧ blk < 0x200 ∧ blk % 0x20 = 4 then
      let a := Tab.get (fun _ => {}) c.job.shadow.screens ((blk - 0x100) / 0x20)
      setBits (setBits 0 (F.SCR_SIZE_W 0).lo (F.SCR_SIZE_W 0).wid a.w) (F.SCR_SIZE_H 0).lo (F.SCR_SIZE_H 0).wid a.h
    else c.n off
  | 9 =>
    if blk < 0x1000 ∧ blk % 0x400 = 0xB0 then
      let n := blk / 0x400
      let live := match (c.cam n).lastPkt with
        | some t => decide (c.now ≤ t + c.f (F.CAM_FRAME_TO_TO n) * usec)
        | none => false
      setBits (c.n off) 0 1 (b2n live)
    else c.n off
  | 0xF =>
    if off = R.TIME_NOW_LO then wordOf (c.clk.time / 2 ^ 32) false
    else if off = R.TIME_NOW_HI then wordOf (c.clk.time / 2 ^ 32) true
    else c.n off
  | 0x11 =>
    if off = R.UMP_ISOL_LANE_LO then wordOf c.lanesOut false
    else if off = R.UMP_ISOL_LANE_HI then wordOf c.lanesOut true
    else if off = R.UMP_CKPT_AGE then min 65535 ((c.now - c.ump.ckptAt) / usec)
    else if 0x60 ≤ blk ∧ blk < 0x80 then
      le (Tab.get (fun _ => (⟨0, 0, 0, 0, 0, 0, 0⟩ : EvRec)) c.evs (c.f F.UMP_EVS_INDEX_INDEX)).bytes (blk - 0x60) 4
    else c.n off
  | _ => c.n off

/-- The BAR0 register that an offset of the BAR2 page shows (R514). -/
def bar2Reg (off : Nat) : Option Nat :=
  if off % 4 ≠ 0 then none
  else if off < 0x400 then some (R.PERF_CNT (off / 4))
  else if off < 0x800 then some (R.PERF_SNAPV ((off - 0x400) / 4))
  else if off = 0x800 then some R.TIME_NOW_LO
  else none

/-- The register that a read in a window reaches; none where the read is a violation. -/
def Core.readable (c : Core) (w : Win) (off : Nat) : Option Nat :=
  if w = .host2 then (if c.fb F.HI_CFG_USER_PERF_EN && c.st != stBoot then bar2Reg off else none)
  else if off % 4 = 0 ∧ (regRow off).isSome ∧ c.blockAnswers off then some off
  else none

/-- The BAR of a window. -/
def winBar : Win → Bar
  | .host2 => .bar2
  | _ => .bar0

/-- The register's next counter latches with it: a _LO word, or a chained even counter (R513). -/
def Core.latches (c : Core) (off : Nat) : Bool :=
  isLo off ||
    (decide (0x131000 ≤ off) && decide (off < 0x131400) && off % 8 == 0 &&
      (let i := (off - 0x131000) / 4
       bit (c.n (R.PERF_CHAIN (i / 32))) (i % 32)))

/-- The word that a read returns: of a register tagged in the window's latch, the latched word (R550). -/
def Core.readWord (c : Core) (w : Win) (off : Nat) : Nat :=
  let e := Tab.get (fun _ => (0, 0)) c.hi.rdLatch (winIx w)
  if e.1 = off ∧ off ≠ 0 then e.2.toNat
  else match regRow off with
    | some r => if r.flds.all (·.acc == .wo) then 0 else c.view off
    | none => 0

/-- A read whose effect is `act` where the register may be read, else a violation that reads 0 (R5). -/
def Core.readReg (c : Core) (w : Win) (off : Nat) (act : Core → Nat → Core) : Core :=
  if c.pwr.held ≠ 0 ∨ c.winCut w then { c with lastRead := 0 }
  else match c.readable w off with
    | some reg => act { c with lastRead := c.readWord w reg } reg
    | none => { c.violate (winBar w) off false with lastRead := 0 }

/-- The word above latched in the requester's window, under its own offset. -/
def Core.latch (c : Core) (w : Win) (reg : Nat) : Core :=
  if c.latches reg then
    { c with hi := { c.hi with
        rdLatch := Tab.set (fun _ => (0, 0)) c.hi.rdLatch (winIx w) (reg + 4, BitVec.ofNat 32 (c.view (reg + 4))) } }
  else c

/-- REG64_LO_READ. -/
def execReg64LoRead (w : Win) (off : BitVec 21) (s : State) : Host.Outcome State Fault Refusal :=
  .next { s with core := s.core.readReg w off.toNat fun c reg => c.latch w reg }

/-- An RC register cleared by the host's read of it; the cox's leave it (R551). -/
def Core.rcClear (c : Core) (w : Win) (reg : Nat) : Core :=
  match regRow reg with
  | some r => if w ≠ .cox ∧ r.flds.any (·.acc == .rc) then c.setN reg 0 else c
  | none => c

/-- RC_READ. -/
def execRcRead (w : Win) (off : BitVec 21) (s : State) : Host.Outcome State Fault Refusal :=
  .next { s with core := s.core.readReg w off.toNat fun c reg => c.rcClear w reg }

/-! ### Reset of the host interface (R353) -/

/-- The CMDQ block, with the MSI-X table, at its reset values, but for COX_EPOCH. -/
def Core.cmdqReset (c : Core) : Core :=
  let cox := c.r R.COX_EPOCH
  { c with regs := c.regs.filter fun e => e.1 / 0x10000 != 1 }.setR R.COX_EPOCH cox

/-- The host address that a channel's next access uses. -/
def Core.dmaHostAt (c : Core) (n : Nat) : Option Nat :=
  let u := c.dch n
  if c.dmaSt n = dRunning ∨ c.dmaSt n = dPaused then
    match u.desc with
    | some d =>
      let i := (u.burstAt d).1
      if d.srcSpace = 1 then some (sideAddr d.src d.srcLen d.srcStride i)
      else if d.dstSpace = 1 then some (sideAddr d.dst d.dstLen d.dstStride i)
      else none
    | none => (u.fetch <|> u.append).bind fun a => if bit a 0 then some (a / 64 * 64) else none
  else none

/-- After a host reset every channel has stopped (spec/16_dma_and_compression.md R435). -/
def Core.dmaStopAll (c : Core) : Core :=
  c.each 16 fun m c =>
    if c.dmaSt m = dRunning ∨ c.dmaSt m = dPaused then
      (c.setDch m { c.dch m with paused := c.dmaSt m == dPaused }).dmaGo m dStopped
    else c

/-- The reset of the host interface: queues, event ring and vectors as after reset, and what the host's windows hold; the reply of a
command in execution is discarded; channels that address host memory take a bus error. A hot reset and a link-down train the link anew. -/
def Core.hostReset (c : Core) (cause : Nat) : Core :=
  let bad := (List.range 16).filterMap fun n => (c.dmaHostAt n).map fun a => (n, a)
  let c := (c.eachOf bad fun x c => c.busError x.1 1 x.2).dmaStopAll
  let c := c.cmdqReset
  { c with hi := { c.hi with sqs := [], cqs := [], rr := 0, evHead := 0, evUsed := 0, evDropped := 0, evUnsig := 0, sent := []
                             waiting := none, barrier := none, ep := false, funcMask := false, d3hot := false
                             trains := if cause = 1 then c.hi.trains else c.hi.trains + 1
                             journal := (c.hi.journal.filter fun j => j.effected).map fun j => { j with posted := true }
                             rdLatch := c.hi.rdLatch.filter (·.1 == winIx .cox)
                             wrStage := c.hi.wrStage.filter (·.1 == winIx .cox), resetCause := some cause } }

/-- HOST_RESET: an FLR, a hot reset, a link-down, and a link-down by the loss of PCIE_REFCLK (spec/20_power_clocks_boot.md R530), which is
back where the interface is reset for another cause (log entry 74). -/
def execHostReset (cause : Fin 4) (s : State) : Host.Outcome State Fault Refusal :=
  .next { s with core := (s.core.hostReset (min 3 (cause.val + 1))).setB F.CLK_STAT_PCIE_REFCLK_OK (cause.val != 3) }

end Sys2Proof.Machine
end

