-- ==== Sys2Proof/Machine/HostCmd.lean ====
section
/-!
DEFINITION. The fetch of commands from the submission queues (spec/13_host_and_command_protocol.md R352, R355, R358-R361,
R381) and the rule of each opcode (spec/14_command_reference.md R382-R400).
-/

namespace Sys2Proof.Machine

/-- SENSOR_ACCESS as fetched: what the sensor returns is a free value. -/
def Core.cmdSensorFetched (c : Core) (q : CmdIn) : CmdOut :=
  let (v, c) := c.free
  cmdSensorAccess (BitVec.ofNat 8 v) (bit v 8) c q

/-- The rules of the device, configuration, job and print-control opcodes. -/
def ruleA (op : Nat) : Option (Core → CmdIn → CmdOut) :=
  match op with
  | 0x00 => some cmdNop
  | 0x01 => some cmdIdentify
  | 0x02 => some cmdReset
  | 0x03 => some cmdSafeLeave
  | 0x04 => some Core.cmdFwStage
  | 0x05 => some Core.cmdFwActivate
  | 0x10 => some Core.cmdColourLoad
  | 0x11 => some Core.cmdScreenLoad
  | 0x12 => some Core.cmdShadowRevert
  | 0x20 => some cmdJobOpen
  | 0x21 => some cmdJobClose
  | 0x22 => some Core.cmdSurfRegister
  | 0x23 => some Core.cmdSurfResident
  | 0x24 => some Core.cmdSurfRelease
  | 0x25 => some Core.cmdPanelQueue
  | 0x30 => some cmdCommit
  | 0x31 => some cmdArm
  | 0x32 => some cmdTof
  | 0x33 => some cmdDisarm
  | 0x34 => some cmdAbort
  | _ => none

/-- The rules of the opcodes of nozzles, heads, loops and cameras. -/
def ruleB (op : Nat) : Option (Core → CmdIn → CmdOut) :=
  match op with
  | 0x40 => some Core.cmdNozzleMapLoad
  | 0x41 => some Core.cmdServiceEnter
  | 0x42 => some Core.cmdServiceLeave
  | 0x43 => some Core.cmdTestFire
  | 0x44 => some Core.cmdSpit
  | 0x45 => some Core.cmdTestStop
  | 0x46 => some Core.cmdGateApply
  | 0x47 => some Core.cmdHeadUnblank
  | 0x48 => some Core.cmdWdClear
  | 0x49 => some Core.cmdRecRefresh
  | 0x50 => some Core.cmdPfClear
  | 0x51 => some Core.cmdLoopSuspend
  | 0x60 => some cmdExpLoad
  | 0x61 => some cmdExpSelect
  | 0x62 => some Core.cmdSensorFetched
  | 0x63 => some cmdDpcLoad
  | 0x64 => some cmdShadingLoad
  | _ => none

/-- The rules of the opcodes of memory, DMA, time, logbook, fault tolerance, crew and the legacy bridge. -/
def ruleC (op : Nat) : Option (Core → CmdIn → CmdOut) :=
  match op with
  | 0x70 => some Core.cmdMemInit
  | 0x71 => some Core.cmdMemRetrain
  | 0x72 => some Core.cmdDmaStart
  | 0x73 => some Core.cmdDmaResume
  | 0x74 => some Core.cmdDmaStop
  | 0x75 => some Core.cmdEvzRun
  | 0x80 => some Core.cmdTimeStep
  | 0x81 => some Core.cmdPtpMode
  | 0x90 => some Core.cmdLogCtrl
  | 0x91 => some Core.cmdLogExport
  | 0x94 => some Core.cmdSelfTest
  | 0xA0 => some cmdSwitchBack
  | 0xA1 => some Core.cmdCoxSwitch
  | 0xA2 => some Core.cmdLaneRetrain
  | 0xB0 => some Core.cmdCrewForm
  | 0xB1 => some Core.cmdCrewLeave
  | 0xF0 => some cmdLpMap
  | 0xF1 => some cmdLegacyStart
  | 0xF2 => some cmdLegacyStop
  | _ => none

/-- The rule of an opcode but REPLAY_START and REPLAY_STOP; an undefined one is refused by the header check (R363). -/
def ruleOf (op : Nat) : Core → CmdIn → CmdOut :=
  ((ruleA op).orElse fun _ => (ruleB op).orElse fun _ => ruleC op).getD fun c _ => (c, some (rBadOpcode, []))

end Sys2Proof.Machine
end

