-- ==== Sys2Proof/Machine/Replay.lean ====
section
/-!
DEFINITION. Replay (spec/19_observation_and_test.md R505-R511): the check of a recording, the load of its SNAPSHOT, and
the records applied and compared.
-/

namespace Sys2Proof.Machine

/-! ### The recording (R496, R497, R505) -/

/-- A record as it stands in a block: TYPE, the continuation flag, T32, payload. -/
abbrev RawRec := Nat × Bool × Nat × List Byte

/-- The records of decoded blocks, with fuel; 256 ends a malformed list. -/
def rawRecs : Nat → List Byte → List RawRec
  | 0, _ => []
  | f + 1, l =>
    if l = [] then []
    else
      let ty := le l 0 1
      let len := le l 2 2
      if len < 8 ∨ len % 8 ≠ 0 ∨ l.length < len ∨ ty = 0 ∨ 0x1C < ty then [(256, false, 0, [])]
      else (ty, bit (le l 1 1) 0, le l 4 4, slice l 8 (len - 8)) :: rawRecs f (l.drop len)

/-- Records that the next one continues, joined. -/
def joinRecs : List RawRec → List RawRec
  | [] => []
  | r :: rest =>
    match r.2.1, joinRecs rest with
    | true, n :: more => (r.1, n.2.1, r.2.2.1, r.2.2.2 ++ n.2.2.2) :: more
    | _, l => r :: l

/-- The records of a segment at an address, with USED bytes; a poisoned burst ends what can be read. -/
def Core.segRecs (c : Core) (base used : Nat) : List RawRec :=
  let used := min used (2 ^ 20)
  let good := min used (((List.range 16384).takeWhile fun i => !c.isPoison (base / 64 + i)).length * 64)
  let d := EvzDec.run (8 * used + 16) { buf := (c.rd (base + 64) (good - 64)).getD [] } []
  let l := rawRecs (d.2.length / 8 + 1) d.2
  if good < used then l ++ [(257, false, 0, [])]
  else if d.1.err ≠ 0 ∨ d.1.buf ≠ [] ∨ d.1.phase ≠ .header then l ++ [(256, false, 0, [])]
  else l

/-- The 64-byte headers of the segments; none where one is poisoned. -/
def Core.segHeads (c : Core) (addr n : Nat) : Option (List (List Byte)) :=
  (List.range n).mapM fun k => c.rd (addr + k * 2 ^ 20) 64

/-- MAGIC, the run of SEQ, BOOT, and SNAP in the first segment. -/
def headsOk (hs : List (List Byte)) : Bool :=
  match hs with
  | [] => false
  | h :: _ => bit (le h 22 2) 0 && hs.zipIdx.all fun x =>
      le x.1 0 4 == 0x474C5645 && le x.1 4 4 == (le h 4 4 + x.2) % 2 ^ 32 && le x.1 8 4 == le h 8 4

/-- The bytes at a PA that a DIGEST record names. -/
def digestPa (r : RawRec) : Option (Nat × Nat) := if r.1 = 9 then some (le r.2.2.2 4 8, le r.2.2.2 12 8) else none

/-! ### The SNAPSHOT (R498) -/

/-- A table of `k` entries: keys of 4 bytes, values of `w`; and the bytes after it. -/
def tabParse (w : Nat) : Nat → List Byte → Tab Nat × List Byte
  | 0, l => ([], l)
  | k + 1, l =>
    let r := tabParse w k (l.drop (4 + w))
    ((le l 0 4, le l 4 w) :: r.1, r.2)

/-- A table preceded by its count. -/
def tabRead (w : Nat) (l : List Byte) : Tab Nat × List Byte := tabParse w (le l 0 4) (l.drop 4)

def wordTab (t : Tab Nat) : Tab Word := t.map fun e => (e.1, BitVec.ofNat 32 e.2)

/-- Threshold arrays. -/
def screensParse : Nat → List Byte → Tab Screen × List Byte
  | 0, l => ([], l)
  | k + 1, l =>
    let w := le l 1 2
    let h := le l 3 2
    let r := screensParse k (l.drop (5 + 2 * w * h))
    ((le l 0 1, { w := w, h := h, thr := pairs16 (slice l 5 (2 * w * h)) }) :: r.1, r.2)

/-- The tables as `Tables.bytes` lays them out. -/
def tablesParse (l : List Byte) : Tables × List Byte :=
  let nz := tabRead 4 l
  let seg := tabRead 4 nz.2
  let n := le seg.2 0 4
  let map := runsOf n (seg.2.drop 4)
  let lat := tabRead 2 (seg.2.drop (4 + 16 * n))
  let cur := tabRead 2 lat.2
  let scr := screensParse (le cur.2 0 4) (cur.2.drop 4)
  ({ nz := wordTab nz.1, seg := wordTab seg.1, map := map, lattice := lat.1, curves := cur.1, screens := scr.1 }, scr.2)

/-- Bytes of a calibration set in a SNAPSHOT. -/
def setBytes : Nat := 8 * 2 ^ 20

/-- The calibration sets: base and bytes. -/
def setsParse : Nat → List Byte → List (Nat × List Byte) × List Byte
  | 0, l => ([], l)
  | k + 1, l =>
    let r := setsParse k (l.drop (12 + setBytes))
    ((le l 4 8, slice l 12 setBytes) :: r.1, r.2)

/-- A SNAPSHOT: S, state, output version, registers, tables in force, the shadow's, calibration sets, and θ and blank state
by head. -/
structure Snap where
  s : Nat
  state : Nat
  out : Nat
  regs : List (Nat × Nat)
  force : Tables
  shadow : Tables
  sets : List (Nat × List Byte)
  heads : List (Nat × Bool)
  deriving DecidableEq, Repr

/-- A SNAPSHOT's payload read. -/
def snapParse (l : List Byte) : Snap :=
  let n := snapOffs.length
  let regs := (List.range n).map fun i => (le l (11 + 8 * i) 4, le l (15 + 8 * i) 4)
  let f := tablesParse (l.drop (11 + 8 * n))
  let flag := le f.2 0 1
  let sh := if flag = 0 then (f.1, f.2.drop 1) else tablesParse (f.2.drop 1)
  let sets := setsParse (le sh.2 0 4) (sh.2.drop 4)
  { s := le l 0 6, state := le l 6 1, out := le l 7 4, regs := regs, force := f.1, shadow := sh.1, sets := sets.1
    heads := (List.range 1024).map fun h => (le sets.2 (3 * h) 2, le sets.2 (3 * h + 2) 1 ≠ 0) }

/-- The SNAPSHOT replaces the device's own configuration (R505). -/
def Core.loadSnap (c : Core) (p : Snap) : Core :=
  let c := p.sets.foldl (fun c x => c.put x.1 x.2) c.byCox
  let c := p.regs.foldl (fun c x => if snapOffs.contains x.1 then c.setN x.1 x.2 else c) c
  let g : Gen := { regs := rwcRegs c.regs, tabs := p.force }
  let c := { c with
    job := { isOpen := decide (2 ≤ p.state) && decide (p.state ≤ 5), gens := if 3 ≤ p.state ∧ p.state ≤ 5 then [g] else []
             force := g, shadow := p.shadow }
    inks := [], pipe := {}, pf := {}, bars := [], test := none }
  let c := c.each 4 fun n c => c.setEnc n { c.enc n with scale := g.n64 (R.ENC_SCALE_LO n) }
  let x := c.webPosRaw
  let q := g.n64 R.WEB_PITCH_LO
  let rev := g.fb F.WEB_CTRL_PRINT_DIR
  let c := { c with web := { c.web with s := p.s, pitch := q, rev := rev, pend := none, furthest := x, grid := [], ahead := p.s
                                        bNext := if rev then x - q else x + q } }
  p.heads.zipIdx.foldl (fun c x =>
    let c := c.setF (F.HH_THETA_THETA x.2) x.1.1
    (c.setHead x.2 { c.head x.2 with blankTemp := x.1.2, blankLane := false, blankAuth := false }).blankSync x.2) c

/-! ### The records in time (R499, R505) -/

/-- The entries of a WEB record: 2.5 ns units since the first, and the step code; entries of padding, all zero, are none. -/
def webEntries : Nat → Bool → List Nat → List (Nat × Nat)
  | _, _, [] => []
  | t, first, e :: rest =>
    if e % 2 ^ 14 = 0x3FFF then
      match rest with
      | lo :: hi :: more =>
        let t' := if first then t else t + lo + hi * 2 ^ 16
        (t', e / 2 ^ 14) :: webEntries t' false more
      | _ => []
    else if e = 0 ∧ !first then webEntries t false rest
    else
      let t' := if first then t else t + e
      (t' , e / 2 ^ 14) :: webEntries t' false rest

/-- The difference of two T32 values in ns. -/
def t32Diff (a b : Nat) : Int := sext 32 ((a + 2 ^ 32 - b) % 2 ^ 32)

/-- Records with their instants: `ns` since the first at T32 `t`. -/
def timeRecs (base : Nat) : Int → Nat → List RawRec → List RplRec
  | _, _, [] => []
  | ns, t, (ty, _, t32, body) :: rest =>
    let ns' := if 256 ≤ ty then ns else ns + t32Diff t32 t
    let t' := if 256 ≤ ty then t else t32
    let at' := fun (x : Int) => ((base : Int) + x * 4 / 5).toNat
    let here : List RplRec := match ty with
      | 2 => (webEntries 0 true (pairs16 body)).map fun e => { ty := 2, due := at' ns' + 2 * e.1, body := leBytes 1 e.2 }
      | 4 => (List.range (body.length / 16)).map fun i =>
          let l := slice body (16 * i) 16
          { ty := 4, due := at' (ns' + t32Diff (le l 0 4) t'), body := l }
      | _ => [{ ty := ty, due := at' ns', body := body }]
    here ++ timeRecs base ns' t' rest

/-! ### REPLAY_START and the end (R505, R510) -/

/-- The replay ends: the job's positions cleared, 0x0A24, IDLE. The configuration stays. -/
def Core.rplEnd (c : Core) (reason status : Nat) : Core :=
  (((if c.job.isOpen then c.closeJob else c).clearTof).replayOver reason status).gotoFrom stReplay stIdle

/-- The replay begins: REPLAY entered, the SNAPSHOT loaded, the records due from 1 ms on. -/
def Core.rplBegin (c : Core) (p : Snap) (recs : List RawRec) : Core :=
  let c := c.goto stReplay
  let c := { c with log := { c.log with replay := true, own := [], sigMask := 0, sigFold := [] } }
  let c := (c.loadSnap p).setF F.DEV_STATE_STATE p.state
  let c := (c.set64 R.LOG_RPL_STROKES_LO 0).setN R.LOG_RPL_SIG_CNT 0
  let c := ((c.setN R.LOG_RPL_MISMATCH_CNT 0).set64 R.LOG_RPL_FIRST_LO 0).setN R.LOG_RPL_FIRST_BARS 0
  let c := (c.setN R.LOG_RPL_DIVERGE_CNT 0).setN R.LOG_RPL_STAT 2
  let t0 := (recs.head?.map (·.2.2.1)).getD 0
  { c with rpl := { recs := timeRecs (c.now + msec) 0 t0 recs, outputs := c.fb F.LOG_RPL_CFG_OUTPUTS, s0 := p.s } }

/-- The registers of a SNAPSHOT that hold a PA, with the bytes that lie there: the calibration sets and their alternates, the loops'
areas, the head records and the gate results. -/
def snapBases : List (Nat × Nat) :=
  (List.range 4).map (fun j => (R.NZ_TSET_BASE_LO j, setBytes)) ++ (List.range 4).map (fun j => (R.PF_TSET_ALT_LO j, setBytes)) ++
    [(R.PF_ACC_BASE_LO, 384 * 2 ^ 20), (R.PF_TGT_BASE_LO, 16 * 2 ^ 20), (R.PF_RING_BASE_LO, 64), (R.PF_RES_BASE_LO, 32),
     (R.HH_REC_BASE_LO, 65536), (R.GT_RES_BASE_LO, 16 * 2 ^ 20)]

/-- The PAs that a SNAPSHOT names, with their bytes; a base at its reset value 0 names none (log entry 72). -/
def Snap.pas (p : Snap) : List (Nat × Nat) :=
  let reg := fun o => ((p.regs.find? fun e => e.1 = o).map (·.2)).getD 0
  (snapBases.filterMap fun b =>
    let a := reg b.1 + reg (b.1 + 4) * 2 ^ 32
    if a = 0 then none else some (a, b.2)) ++ p.sets.map fun x => (x.1, setBytes)

/-- The PAs of a recording that were mirrored when it was made, since the mirrored region must hold them (spec/12_memory.md R330):
surfaces and calibration sets. -/
def mirrorPas (p : Snap) (recs : List RawRec) : List (Nat × Nat) :=
  ((recs.filter fun r => le r.2.2.2 2 2 = 0).filterMap digestPa) ++ p.sets.map fun x => (x.1, setBytes)

/-- REPLAY_START: a recording that reaches C - M is judged by the segments below it before RANGE (R378, R505). -/
def Core.cmdReplayStart (c : Core) (q : CmdIn) : CmdOut :=
  let addr := q.u64 0
  let len := q.u64 8
  let inside := c.mayReach addr len
  let n := ((List.range (len / 2 ^ 20)).takeWhile fun k => c.mayReach addr ((k + 1) * 2 ^ 20)).length
  c.judge [(addr % 64 != 0 || len % 2 ^ 20 != 0 || len == 0, rBadParam), (n == 0, rRange)] fun c =>
    match c.segHeads addr n with
    | none => (c, some (if inside then rMemory else rRange, []))
    | some hs =>
      let all := joinRecs (hs.zipIdx.flatMap fun x => c.segRecs (addr + x.2 * 2 ^ 20) (le x.1 32 4))
      let first := all.headD (256, false, 0, [])
      let p := snapParse first.2.2.2
      let far := (all.filterMap digestPa ++ p.pas).any fun x => !c.mayReach x.1 x.2
      let plain := (mirrorPas p all).any fun x => decide (c.mirTop < x.1 + x.2)
      if !headsOk hs || first.1 != 1 || p.out != c.n R.DEV_NIB_OUT then (c, some (rBadParam, []))
      else if !inside || far || plain then (c, some (rRange, []))
      else done (c.rplBegin p (all.drop 1))

/-- REPLAY_START. -/
def execReplayStart (p : Packet) (s : State) : Host.Outcome State Fault Refusal := run 0x92 p Core.cmdReplayStart s

/-- REPLAY_STOP ends the replay with reason 1. -/
def Core.cmdReplayStop (c : Core) (_q : CmdIn) : CmdOut := done (c.rplEnd 1 rDone)

/-- REPLAY_STOP. -/
def execReplayStop (p : Packet) (s : State) : Host.Outcome State Fault Refusal := run 0x93 p Core.cmdReplayStop s

/-! ### The web, from its records (R506) -/

/-- The stroke counter of the replay. -/
def Core.rplStrokes (c : Core) (s0 : Nat) : Core := c.set64 R.LOG_RPL_STROKES_LO (c.n64 R.LOG_RPL_STROKES_LO + (c.web.s - s0))

/-- The web moved by `d` (2^-32 nm) from the recorded position updates. -/
def Core.rplMove (c : Core) (d : Int) : Core :=
  let p0 := c.webPosRaw
  let s0 := c.web.s
  (({ c with web := { c.web with offset := c.web.offset + d } } : Core).webMoved p0 c.now).rplStrokes s0

/-- One entry of a WEB record. -/
def Core.rplWeb (c : Core) (code : Nat) : Core :=
  let n := c.f F.WEB_SRC_ACTIVE
  let u := c.enc n
  let neg := code % 2 == 1
  let sgn : Int := if neg then -1 else 1
  let k : Nat := if 2 ≤ code then 2 else 1
  let turned := c.fb (F.ENC_STATUS_DIR n) != neg
  let stamps := (c.now :: (if turned then [] else u.stamps)).take (2 ^ c.f (F.ENC_CFG_SPEED_EDGES n) + 1)
  let still := c.fb (F.ENC_STATUS_STANDSTILL n)
  let c := c.setEnc n { u with stamps := stamps, lastCount := some c.now, lastNeg := neg }
  let c := (c.setB (F.ENC_STATUS_DIR n) neg).setB (F.ENC_STATUS_STANDSTILL n) false
  let c := if still then c.moves else c
  let span := stamps.headD 0 - stamps.getLastD 0
  let v : Int := if span = 0 then 0 else sgn * speedOf ((stamps.length - 1) * u.scale) span
  (c.setSpeed n v).rplMove (sgn * k * u.scale)

/-- WEB_SRC: the source and its factor; WEB_POS stays continuous. -/
def Core.rplWebSrc (c : Core) (l : List Byte) : Core :=
  let x := c.webPosRaw
  let n := le l 0 1 % 4
  let c := (c.setEnc n { c.enc n with scale := le l 1 8 }).setF F.WEB_SRC_ACTIVE n
  { c with web := { c.web with offset := x - (c.enc n).pos } }

/-- POS: the position nearest the present one that the record's low bits spell, and the speed. -/
def Core.rplPos (c : Core) (l : List Byte) : Core :=
  let x := c.webPosRaw
  let d := sext 64 ((le l 8 4 + le l 4 4 * 2 ^ 32 + 2 ^ 64 - wrap 64 x) % 2 ^ 64)
  let v := sext 32 (le l 12 4)
  let c := (c.setI R.WEB_SPEED v).rplMove d
  if v = 0 then c.webStill else c

/-- EVENT: S and the web position take their recorded values, the stroke grid with them. -/
def Core.rplEvent (c : Core) (l : List Byte) : Core :=
  let s := le l 4 6
  let d := sext 64 (le l 16 8) - c.webPos
  let c := if d = 0 then c
    else { c with web := { c.web with
        offset := c.web.offset + d * p32, bNext := c.web.bNext + d * p32, furthest := c.web.furthest + d * p32
        grid := c.web.grid.map fun (g : Grid) => { g with b0 := g.b0 + d * p32 } } }
  if s = c.web.s % 2 ^ 48 then c else { c with web := { c.web with s := s } }

/-! ### Commands, writes and data (R506) -/

/-- Bytes placed over stretches of DRAM in order. -/
def Core.placeParts (c : Core) : List (Nat × Nat) → List Byte → Core
  | [], _ => c
  | (a, n) :: rest, l => (Core.placeParts (c.byCox.put a (l.take n)) rest (l.drop n))

/-- The object of a DIGEST: a registered surface's stretches, or one stretch. -/
def Core.digestParts (c : Core) (l : List Byte) : List (Nat × Nat) :=
  let id := le l 0 2
  if le l 2 2 = 0 ∧ (c.surf id).state ≠ 0 then c.surfParts (c.surf id) else [(le l 4 8, le l 12 8)]

/-- DATA placed at its object's addresses (before the command that reads it: log entry 72); a tile index first, since it places the blocks. -/
def Core.placeData (c : Core) (digest data : List Byte) : Core :=
  let l := data.take (le digest 12 8)
  let c := c.placeParts ((c.digestParts digest).take 1) l
  c.placeParts (c.digestParts digest) l

/-- The DATA that the recording holds for digests before its next command. -/
def Core.placeAhead (c : Core) : List RplRec → Core
  | [] => c
  | r :: rest =>
    if r.ty = 5 then c
    else match rest with
      | d :: _ => Core.placeAhead (if r.ty = 9 ∧ d.ty = 0x0A then c.placeData r.body d.body else c) rest
      | [] => c

/-- A recorded command, executed in the recorded state; REPLAY_START among them begins the replay that it names. -/
def Core.rplCommand (c : Core) (l : List Byte) : Core :=
  let sq := le l 0 1
  let ep := le l 1 1
  let op := le l 2 1
  let flags := le l 3 1
  let seq := le l 4 2
  let pep := le l 6 1
  let par := slice l 10 56
  let native := sq == 255
  let fresh := native || pep == ep || (pep + 1) % 256 == ep
  let st := match opRow op with
    | none => some (if fresh then rBadOpcode else rStaleEpoch)
    | some (len, states) =>
      checks [(!fresh, rStaleEpoch), (flags / 8 != 0 || le l 8 2 != 0 || le l 7 1 != len, rBadParam), (!bit states c.st, rNotNow),
        (!native && c.bridgeBusy op par, rBusy)]
  match st with
    | some e => c.answer op (sq + 256) seq flags e []
    | none => match (if op = 0x92 then Core.cmdReplayStart else ruleOf op) c { sq := sq + 256, seq := seq, flags := flags, par := par } with
      | (c, some (e, res)) => c.answer op (sq + 256) seq flags e res
      | (c, none) => c

/-- A recorded register write. -/
def Core.rplWrite (c : Core) (off : Nat) (v : Word) : Core :=
  if (regRow off).isNone then c
  else
    let mine := c.hi.wrStage
    let c := { c with hi := { c.hi with wrStage := Tab.set (fun _ => (0, 0)) mine 0 c.rpl.stage } }
    let c := c.applyWrite .host0 off v
    let left := Tab.get (fun _ => (0, 0)) c.hi.wrStage 0
    { c with hi := { c.hi with wrStage := mine }, rpl := { c.rpl with stage := left } }

/-- DIGEST: the device digests the data at the recorded PA and compares; a surface is then resident. -/
def Core.rplDigest (c : Core) (l : List Byte) (next : List RplRec) : Core :=
  let c := match next with
    | d :: _ => if d.ty = 0x0A then c.placeData l d.body else c
    | [] => c
  let id := le l 0 2
  let data := (c.digestParts l).mapM fun x => c.rd x.1 x.2
  match data with
  | none => c.rplEnd 6 rMemory
  | some ls =>
    if sha256 ls.flatten ≠ slice l 20 32 then c.rplEnd 3 rBadParam
    else if le l 2 2 = 0 ∧ (c.surf id).state = 1 then
      if (c.hi.async.any fun a => a.op == 0x23 && a.a == id) then c.surfDone id
      else (c.setSurf id { c.surf id with state := 2, digesting := false }).squashNotReady c
    else c

/-! ### Decisions (R507) -/

/-- A divergence from the recording. -/
def Core.diverge (c : Core) (ty : Nat) : Core := (c.inc R.LOG_RPL_DIVERGE_CNT).postLim sec 0x0A26 31 ty

/-- What a decision is about, by which the device's own is found that a record answers (log entry 72): the ink, the layer and its line,
the layer, the head, the bar and its stroke, or a reply's SEQ. -/
def decideKey (ty : Nat) (l : List Byte) : List Byte :=
  match ty with
  | 6 => slice l 0 2
  | 0x0C => slice l 0 1
  | 0x0D => slice l 0 7
  | 0x0E => slice l 0 1
  | 0x10 => slice l 0 2
  | 0x11 => slice l 0 1 ++ slice l 2 6
  | _ => []

/-- The device's own decision of a type compared with the recorded one; where they differ `fix` applies the record, given
the device's own about the same thing. -/
def Core.rplDecide (c : Core) (ty : Nat) (l : List Byte) (same : List Byte → Bool) (fix : Option (List Byte) → Core → Core) : Core :=
  match c.log.own.find? fun x => x.1 = ty ∧ same x.2.2 with
  | some x => { c with log := { c.log with own := c.log.own.erase x } }
  | none =>
    let mine := c.log.own.find? fun x => x.1 = ty ∧ decideKey ty x.2.2 = decideKey ty l
    let left := match mine with
      | some x => c.log.own.erase x
      | none => c.log.own
    let c := fix (mine.map (·.2.2)) (({ c with log := { c.log with own := left } } : Core).diverge ty)
    { c with log := { c.log with own := left } }

/-- Own and recorded payload are the same bytes. -/
def sameBytes (l m : List Byte) : Bool := padTo 8 m == l

/-- GEN as recorded: number and L_e of the generation made, or the generation itself, from its changed fields or from the
shadow. -/
def Core.fixGen (c : Core) (l : List Byte) (mine : Option (List Byte)) : Core :=
  let num := le l 0 1
  let origin := le l 1 1
  let at' := le l 2 6
  match mine with
  | some m =>
    let old := le m 2 6
    let gens := match c.job.gens with
      | g :: rest => ({ g with num := num, le := at' } : Gen) :: rest
      | [] => []
    let c := { c with job := { c.job with gens := gens, genNum := num } }
    let c := c.each 8 fun k c =>
      let vs := (c.ink k).vers.map fun (v : Ver) => if v.le = old then { v with le := at' } else v
      c.setInk k { c.ink k with vers := vs }
    let c := (c.setF F.CMT_STATUS_GEN num).setN R.CMT_LAST_LE_LO at'
    c.setF F.CMT_LAST_LE_HI_LE (at' / 2 ^ 32)
  | none =>
    let prev := c.newest
    let chg := slice l 41 (l.length - 41)
    let pairs := (List.range (chg.length / 8)).map fun i => (le chg (8 * i) 4, le chg (8 * i + 4) 4)
    let g := if origin = 1 ∨ origin = 2 then
        pairs.foldl (fun (g : Gen) x =>
          if x = (0, 0) ∨ (2 ^ 30 ≤ x.1 ∧ x.1 < 2 ^ 31) then g
          else if 2 ^ 31 ≤ x.1 then
            { g with tabs := { g.tabs with seg := Tab.set (fun _ => 0) g.tabs.seg (x.1 - 2 ^ 31) (BitVec.ofNat 32 x.2) } }
          else { g with regs := Tab.set regReset g.regs x.1 (BitVec.ofNat 32 x.2) }) prev
      else c.shadowGen
    let words : SetWords := pairs.filterMap fun x => if 2 ^ 30 ≤ x.1 ∧ x.1 < 2 ^ 31 then some (x.1 - 2 ^ 30, some x.2) else none
    let c := c.each 4 fun j c =>
      let mine := words.filter fun e => e.1 / 2 ^ 21 = j
      if mine = [] then c else c.copySet (prev.n64 (R.NZ_TSET_BASE_LO j)) (g.n64 (R.NZ_TSET_BASE_LO j)) mine
    let c := { c with job := { c.job with genNum := (num + 255) % 256 } }
    let c := c.accept g at' origin (le l 8 1) chg
    if origin = 1 ∨ origin = 2 then c.shadowFollow prev c.newest else c

/-- VERSION as recorded: the ink's version from L_e at the recorded temperatures. -/
def Core.fixVersion (c : Core) (l : List Byte) : Core :=
  let k := le l 0 1 % 8
  let at' := le l 1 6
  let g := c.genAt at'
  let th := (g.headsOf k).zipIdx.foldl (fun t x => Tab.set (fun _ => (0 : Int)) t x.1 (sext 16 (le l (9 + 4 * x.2) 2))) []
  let v := c.mkVer g k at' th
  let u := c.ink k
  c.setInk k { u with vers := v :: u.vers.filter fun w => w.le < at' }

/-- READY as recorded. -/
def Core.fixReady (c : Core) (l : List Byte) : Core :=
  let n := le l 0 1 % 8
  let line := le l 1 6
  let y := c.layer n
  let d := (y.decs.find? fun e => e.line = line).getD (c.decideNow n line)
  c.setLayer n { y with decs := { d with kind := le l 7 1 } :: y.decs.filter fun e => e.line ≠ line }

/-- BIND as recorded: the panel last bound is bound to the recorded repeat. -/
def Core.fixBind (c : Core) (l : List Byte) (mine : Option (List Byte)) : Core :=
  let n := le l 0 1 % 8
  let k := le l 1 4
  let y := c.layer n
  let p : Panel := match mine, y.panels.getLast? with
    | some _, some p => { p with k := k, surf := le l 11 2 }
    | _, _ => { k := k, surf := le l 11 2, exps := [0, 0, 0, 0], valid := 0 }
  let keep := if mine.isSome then y.panels.dropLast else y.panels
  ((c.setLayer n { y with panels := keep ++ [p] }).setN (R.LAY_QNEXT n) (k + 1)).depthSync n

/-- TOF as recorded: S_TOF, and B_b and f_b of each bar. -/
def Core.fixTof (c : Core) (l : List Byte) (mine : Option (List Byte)) : Core :=
  let c := if mine.isSome then c else c.takeTof
  let sTof := sext 48 (le l 6 6)
  let c := c.set64 R.DEV_TOF_LO (le l 6 6)
  c.each 16 fun b c =>
    let i := sext 32 (le l (12 + 8 * b) 4)
    let f := le l (16 + 8 * b) 4
    ((c.setBar b { c.bar b with d := sTof + i, f := f }).setI (R.FIRE_OFFSET_INT b) i).setN (R.FIRE_OFFSET_FRAC b) f

/-- The change of a head's blank state from a stroke taken back. -/
def Core.blankGone (c : Core) (h from_ : Nat) : Core :=
  let keep := (Tab.get (fun _ => []) c.pipe.blanks h).filter fun x => x.1 ≠ from_
  { c with pipe := { c.pipe with blanks := Tab.set (fun _ => []) c.pipe.blanks h keep } }

/-- A head's blank state for a cause of R193. -/
def Core.blankFlag (c : Core) (h cause : Nat) (on : Bool) : Core :=
  let u := c.head h
  let u := match cause with
    | 0 => { u with blankTemp := on }
    | 1 => { u with blankLane := on }
    | _ => { u with blankAuth := on }
  (c.setHead h u).blankSync h

/-- BLANK as recorded: set or cleared for a cause from the recorded stroke. -/
def Core.fixBlank (c : Core) (l : List Byte) (mine : Option (List Byte)) : Core :=
  let h := le l 0 2 % 1024
  let s := le l 2 6
  let on := le l 8 1 ≠ 0
  let c := match mine with
    | some m => c.blankGone (le m 0 2 % 1024) (le m 2 6)
    | none => c
  let old := Tab.get (fun _ => []) c.pipe.blanks h
  let c := { c with pipe := { c.pipe with blanks := Tab.set (fun _ => []) c.pipe.blanks h ((s, decide on) :: old) } }
  c.blankFlag h (le l 9 1) on

/-- SUBST as recorded: a bar's line was already sent so (`Core.recSubst`); a seam's values count as 0. -/
def Core.fixSubst (c : Core) (l : List Byte) : Core :=
  if le l 0 1 = 255 then { c with pipe := { c.pipe with seams := c.pipe.seams.filter fun e => e.1 / 2 ≠ le l 2 6 } } else c

/-! ### Decisions that the recording has not (R507) -/

/-- A decision of the device's own taken back. -/
def Core.unmake (c : Core) (ty : Nat) (m : List Byte) : Core :=
  match ty with
  | 0x0B =>
    let at' := le m 2 6
    let gens := c.job.gens.filter fun g => g.num ≠ le m 0 1 ∨ g.le ≠ at'
    if gens = [] then c
    else ({ c with job := { c.job with gens := gens } } : Core).each 8 fun k c =>
      c.setInk k { c.ink k with vers := (c.ink k).vers.filter fun v => v.le ≠ at' }
  | 0x0C =>
    let k := le m 0 1 % 8
    c.setInk k { c.ink k with vers := (c.ink k).vers.filter fun v => v.le ≠ le m 1 6 }
  | 0x0E =>
    let n := le m 0 1 % 8
    let k := le m 1 4
    let y := c.layer n
    ((c.setLayer n { y with panels := y.panels.filter fun p => p.k ≠ k }).setN (R.LAY_QNEXT n) k).depthSync n
  | 0x10 =>
    let h := le m 0 2 % 1024
    (c.blankGone h (le m 2 6)).blankFlag h (le m 9 1) (le m 8 1 = 0)
  | _ => c

/-- Decisions of the device's own that no record has met within 1 ms of the recording: each diverges and is taken back (log entry 72). -/
def Core.rplStale (c : Core) (t : Nat) : Core :=
  let old := c.log.own.filter fun x => decide (x.2.1 + msec < t)
  let left := c.log.own.filter fun x => !decide (x.2.1 + msec < t)
  c.eachOf old fun x c =>
    let c := (c.diverge x.1).unmake x.1 x.2.2
    { c with log := { c.log with own := left } }

/-! ### The check values (R501, R509) -/

/-- SIG: the folds of the block compared. -/
def Core.rplSig (c : Core) (l : List Byte) : Core :=
  let s := le l 0 6
  let mine := c.sigFolds
  let c := { c with log := { c.log with sigMask := 0, sigFold := [] } }
  let c := c.inc R.LOG_RPL_SIG_CNT
  let bars := (List.range 16).foldl (fun m b =>
    if bit (le mine 0 2) b == bit (le l 6 2) b && le mine (2 + 4 * b) 4 == le l (8 + 4 * b) 4 then m else m + 2 ^ b) 0
  if bars = 0 then c
  else
    let first := c.n R.LOG_RPL_MISMATCH_CNT = 0
    let c := c.inc R.LOG_RPL_MISMATCH_CNT
    let c := if first then (c.set64 R.LOG_RPL_FIRST_LO s).setN R.LOG_RPL_FIRST_BARS bars else c
    let c := c.postRec ⟨c.t32, s, noLine, c.webPos, 0x0A25, 31, bars⟩
    if c.fb F.LOG_RPL_CFG_STOP_ON_MISMATCH then c.rplEnd 5 rDone else c

/-- REPLY: SEQ, status, RESULT and opcode compared. -/
def Core.rplReply (c : Core) (l : List Byte) : Core :=
  c.rplDecide 6 l (fun m => le m 0 2 == le l 0 2 && slice m 3 9 == slice l 3 9 && le m 13 1 == le l 13 1) fun _ c => c

/-! ### REPLAY_RECORD (R506-R510) -/

/-- One record applied or compared, given the records after it. -/
def Core.rplApply (c : Core) (r : RplRec) (next : List RplRec) : Core :=
  let l := r.body
  match r.ty with
  | 2 => c.rplWeb (le l 0 1)
  | 3 => c.rplWebSrc l
  | 4 => c.rplPos l
  | 5 => (c.placeAhead next).rplCommand l
  | 6 => c.rplReply l
  | 7 => c.rplWrite (le l 0 4) (BitVec.ofNat 32 (le l 4 4))
  | 8 => c.tableWrite (4 * le l 0 4) ((List.range (le l 4 4)).map fun i => le l (8 + 4 * i) 4)
  | 9 => c.rplDigest l next
  | 0x0B => c.rplDecide 0x0B l (fun m => slice m 0 9 == slice l 0 9 && sameBytes (slice l 41 (l.length - 41)) (m.drop 41))
      (fun m c => c.fixGen l m)
  | 0x0C => c.rplDecide 0x0C l (sameBytes l) fun _ c => c.fixVersion l
  | 0x0D => c.rplDecide 0x0D l (sameBytes l) fun _ c => c.fixReady l
  | 0x0E => c.rplDecide 0x0E l (sameBytes l) fun m c => c.fixBind l m
  | 0x0F => c.rplDecide 0x0F l (sameBytes l) fun m c => c.fixTof l m
  | 0x10 => c.rplDecide 0x10 l (sameBytes l) fun m c => c.fixBlank l m
  | 0x11 => c.rplDecide 0x11 l (sameBytes l) fun _ c => c.fixSubst l
  | 0x12 => (c.setF (F.HH_THETA_THETA (le l 0 2 % 1024)) (le l 2 2)).warnCheck (le l 0 2 % 1024) |>.deratesDue
  | 0x18 => c.rplSig l
  | 0x19 => c.rplEvent l
  | 0x1B => c.rplEnd 2 rBadParam
  | 0x1C => c.rplEnd 0 rDone
  | 1 => c.rplEnd 0 rDone
  | 256 => c.rplEnd 4 rBadParam
  | 257 => c.rplEnd 6 rMemory
  | _ => c

/-- REPLAY_RECORD: the next record, once it is due; after the last the recording is complete. A write of DMA_SWREQ raises its request
lines. -/
def execReplayRecord (s : State) : Host.Outcome State Fault Refusal :=
  let c := s.core
  let r :=
    if c.replay then
      match c.rpl.recs with
      | [] => c.rplEnd 0 rDone
      | r :: rest =>
        if r.due ≤ c.now then
          let c := { c.rplStale r.due with rpl := { c.rpl with recs := rest } }.rplApply r rest
          if c.replay && c.rpl.recs.isEmpty then c.rplEnd 0 rDone else c
        else c
    else c
  let swreq := c.replay && (match c.rpl.recs with
    | r :: _ => decide (r.due ≤ c.now) && r.ty == 7 && le r.body 0 4 == R.DMA_SWREQ
    | [] => false)
  let t : State := { s with core := r }
  .next (if swreq then t.raise ((List.range 16).filter (bit (le (c.rpl.recs.headD ⟨0, 0, []⟩).body 4 4))) else t)

end Sys2Proof.Machine
end

