-- ==== Sys2Proof/Machine/Fetch.lean ====
section
/-!
DEFINITION. The fetch of commands from the submission queues (spec/13_host_and_command_protocol.md R352, R355, R358-R361,
R381).
-/

namespace Sys2Proof.Machine

/-- The rule of every opcode. -/
def ruleAll (op : Nat) : Core → CmdIn → CmdOut :=
  if op = 0x92 then Core.cmdReplayStart else if op = 0x93 then Core.cmdReplayStop else ruleOf op

/-- A queue has a visible packet that may be fetched: it is enabled, and its CQ holds no reply back (R359, R360). -/
def Core.fetchable (c : Core) (n : Nat) : Bool :=
  c.fb (F.SQ_CFG_EN n) && c.f (F.SQ_HEAD_HEAD n) != (c.sq n).tail && (c.cq (c.f (F.SQ_CFG_CQ n))).held.isEmpty

/-- The queue whose turn it is (R360). -/
def Core.nextSq (c : Core) : Option Nat := ((List.range 8).map fun i => (c.hi.rr + i) % 8).find? c.fetchable

/-- The packet of 64 bytes (R355). -/
def packetOf (n : Fin 8) (l : List Byte) : Packet :=
  { sq := n, flags := BitVec.ofNat 8 (le l 1 1), seq := BitVec.ofNat 16 (le l 2 2), epoch := BitVec.ofNat 8 (le l 4 1)
    plen := BitVec.ofNat 8 (le l 5 1), rsv := BitVec.ofNat 16 (le l 6 2), par := slice l 8 56 }

/-- A fetch that fails stops its queue (R352). -/
def Core.fetchFailed (c : Core) (n : Nat) (aer : Nat) : Core :=
  ((c.setB (F.SQ_CFG_EN n) false).inc R.HI_PCIE_UE_CNT).post 0x0A07 n (aer + 256)

/-- The packet of a queue taken; one with BARRIER keeps its turn until every command before it has replied (R361). -/
def Core.fetchPacket (c : Core) (n : Nat) (hostFail : Bool) : Core :=
  let l := c.rdHost (c.n64 (R.SQ_BASE_LO n) + 64 * c.f (F.SQ_HEAD_HEAD n)) 64
  if c.mayStart (le l 1 1) then
    let c := { c with hi := { c.hi with rr := (n + 1) % 8 } }.perf 204
    c.command (le l 0 1) { packetOf (Fin.ofNat 8 n) l with hostFail := hostFail } (ruleAll (le l 0 1))
  else { c with hi := { c.hi with rr := n } }

/-- The next command fetched and taken; errors of the link are counted (R352). -/
def Core.fetchNext (c : Core) (err : FetchErr) : Core :=
  if c.coxRuns && c.pwr.held == 0 then
    match c.nextSq with
    | none => c
    | some n =>
      match err with
      | .failed aer => ({ c with hi := { c.hi with rr := (n + 1) % 8 } }.perf 204).fetchFailed n aer.toNat
      | .ok => c.fetchPacket n false
      | .corrected => (c.inc R.HI_PCIE_CE_CNT).fetchPacket n false
      | .readFails => c.fetchPacket n true
  else c

/-- COMMAND_FETCH; a DMA command lets waiting requests be served. -/
def execCommandFetch (err : FetchErr) (s : State) : Host.Outcome State Fault Refusal :=
  .next (State.serve { s with core := s.core.fetchNext err })

end Sys2Proof.Machine
end

