-- ==== Sys2Proof/Machine/Power.lean ====
section
/-!
DEFINITION. Power, the adaptive core voltage, clocks, resets, boot and thermal protection
(spec/20_power_clocks_boot.md R523-R543).
-/

namespace Sys2Proof.Machine

/-! ### Resets (R524, R530-R532, R543) -/

/-- Registers that every reset keeps: the event store's, the fuses', the hot counter, the state of inputs. -/
def keptAlways (off : Nat) : Bool :=
  [R.UMP_EVS_WR, R.UMP_EVS_BOOT, R.THERM_HOT_S, R.FUSE_STAT, R.DEV_UID_LO, R.DEV_UID_HI, R.DEV_GPI].contains off

/-- Registers that a warm reset keeps as well: the MEM block, the PLLs in use and the isolation switches, those of nibs and lanes in the
states that show them (R529, R532; spec/18_fault_tolerance.md R474). -/
def Core.keptWarm (c : Core) (off : Nat) : Bool :=
  off / 0x10000 == 0xC || [R.UMP_ISOL_NIB, R.UMP_ISOL_COX, R.UMP_ISOL_RANK, R.CLK_STAT].contains off ||
    (List.range 18).any (fun n => c.nibState n == 3 && off == R.NIBN_STAT n) ||
    (List.range 64).any fun n => (c.f (F.QLN_STATE_STATE n) == 5 || c.f (F.QLN_STATE_STATE n) == 6) && off == R.QLN_STATE n

/-- The device as a reset leaves it, in BOOT: every register and unit at its reset state, but for what the kind of reset
keeps; DRAM traffic has stopped, and a trip leaves the DRAM in self-refresh (R532, R542). `held` tells what holds it there. A flash write
under way breaks off. -/
def Core.afterReset (c : Core) (warm : Bool) (held : Nat) : Core :=
  let torn := match c.asyncOf 0x04 with
    | some a => c.flashTorn a
    | none => c
  let clk := bits (c.n R.CLK_STAT) 16 3 * 65536
  let r : Core := {
    regs := c.regs.filter fun e => keptAlways e.1 || (warm && c.keptWarm e.1)
    now := c.now, out := c.out, posted := c.posted, lastRead := c.lastRead, freeCtr := c.freeCtr
    evs := c.evs, evsSec := c.evsSec, evsCnt := c.evsCnt, ticks := c.ticks
    hi := { host := c.hi.host, sent := c.hi.sent, trains := c.hi.trains + 1 }
    mem := if warm ∨ held = 2 then { c.mem with held := [], todo := [], last := none } else {}
    ump := { fw := { torn.ump.fw with staged := none, image := [] }, nibImage := warm && c.ump.nibImage, ckptAt := c.now
             faultN := decide (held ≠ 0) }
    pwr := { c.pwr with held := held, coldAt := if warm then c.pwr.coldAt else c.now, download := false, loaded := none
                        stopped := false, image := [], bootEvent := none, busFails := 0, avs := [] } }
  let r := r.each 4 fun n k => k.setEnc n { k.enc n with a := (c.enc n).a, b := (c.enc n).b }
  if warm then r else r.setN R.CLK_STAT clk

/-- The last reading of an on-die sensor, and whether it has failed. -/
def Core.dts (c : Core) (j : Nat) : Int := Tab.get (fun _ => 0) c.pwr.dts j
def Core.dtsFailed (c : Core) (j : Nat) : Bool := bit (c.f F.THERM_STAT_FAILED) j

/-- A valid sensor reads above the re-arm temperature, 95 °C (R543), or none has converted since power came (log entry 74). -/
def Core.tooHot (c : Core) : Bool := !c.pwr.dtsSeen || (List.range 8).any fun j => !c.dtsFailed j && decide (6080 < c.dts j)

/-- BOOT entered by a reset (spec/13_host_and_command_protocol.md R369). -/
def Core.toBoot (c : Core) : Core := if c.st = stBoot then c else c.gotoFrom c.devState stBoot

/-- A reset of any kind: the device stays tripped while the latch is set and it is too hot; else the latch clears, the cause
is reported, BOOT is entered, and BOOT_MODE is sampled from its pins (R533). -/
def Core.resetBy (c : Core) (warm : Bool) (cause : Nat) : Core :=
  if c.pwr.latch && c.tooHot then { c with pwr := { c.pwr with held := 2 } }
  else
    let trip := c.pwr.latch
    let c := c.toBoot.afterReset warm 0
    let c := { c with pwr := { c.pwr with latch := false, mode := c.pwr.pins } }
    let c := ((c.setF F.PWR_RST_CAUSE_CAUSE cause).setB F.PWR_RST_CAUSE_AFTER_TRIP trip).setB F.PWR_RST_CAUSE_WARM warm
    c.setF F.PWR_BOOT_STAT_MODE c.pwr.mode

/-- The whole block after its core was reset: the legacy ports keep what their pins show, and no DMA request waits. -/
def State.withReset (s : State) (c : Core) : State := { s with core := c, leg := { ldadr := s.leg.ldadr }, reqs := [] }

/-- POWER_ON_RESET (R524, R533): a cold reset with cause 1, once REFCLK toggles; the operand tells how BOOT_MODE's pins stand, which they
do until it tells otherwise (log entry 74). -/
def execPowerOnReset (mode : Fin 4) (s : State) : Host.Outcome State Fault Refusal :=
  let c := ({ s.core with pwr := { s.core.pwr with pins := mode } } : Core).setB F.CLK_STAT_REFCLK_OK true
  .next { s.withReset (c.resetBy false 1) with tap := {} }

/-- RST_N_RESET (R531): a cold reset with cause 2, unless power or REFCLK is missing. -/
def execRstNReset (s : State) : Host.Outcome State Fault Refusal :=
  .next (if s.core.pwr.held = 3 ∨ s.core.fb F.CLK_STAT_REFCLK_OK = false then s else s.withReset (s.core.resetBy false 2))

/-- WARM_RESET (R384, R532): 100 µs after the RESET command. -/
def execWarmReset (s : State) : Host.Outcome State Fault Refusal :=
  .next (match s.core.asyncOf 0x02 with
    | some a => if a.a + 100 * usec ≤ s.core.now then s.withReset (s.core.resetBy true 3) else s
    | none => s)

/-- POWER_DOWN (R524): the power-on detector holds the device in cold reset; what was not yet written is lost, the sensors' readings too. -/
def execPowerDown (s : State) : Host.Outcome State Fault Refusal :=
  let c := s.core.toBoot.afterReset false 3
  .next (s.withReset { c with pwr := { c.pwr with dts := [], dtsDiff := [], dtsHot := [], dtsWas := [], dtsSeen := false } })

/-- REFCLK_LOSS (R530): outputs safe, 0x0E08 to the event store alone, and the device held in reset; a tripped one stays tripped. -/
def execRefclkLoss (s : State) : Host.Outcome State Fault Refusal :=
  let c := s.core
  .next (if c.pwr.held = 3 ∨ c.fb F.CLK_STAT_REFCLK_OK = false then s
    else
      let c := c.evStore ⟨c.t32, c.web.s % 2 ^ 48, noLine, c.webPos, 0x0E08, 31, 0⟩
      s.withReset ((c.toBoot.afterReset false (if c.pwr.held = 2 then 2 else 1)).setB F.CLK_STAT_REFCLK_OK false))

/-- REFCLK_RETURN (R530): a cold reset with cause 4. -/
def execRefclkReturn (s : State) : Host.Outcome State Fault Refusal :=
  let c := s.core
  .next (if c.pwr.held = 3 ∨ c.fb F.CLK_STAT_REFCLK_OK then s
    else s.withReset ((c.setB F.CLK_STAT_REFCLK_OK true).resetBy false 4))

/-! ### Boot (R533-R538) -/

/-- The candidates of R535 in order: pending images, the good one of higher VERSION, the other, the recovery image (2). -/
def Core.bootOrder (c : Core) : List Nat :=
  let a := c.flash 0
  let b := c.flash 1
  let pend := (if a.state = 1 then [0] else []) ++ (if b.state = 1 then [1] else [])
  let good := if a.state = 3 ∧ b.state = 3 then (if b.ver ≤ a.ver then [0, 1] else [1, 0])
    else (if a.state = 3 then [0] else []) ++ (if b.state = 3 then [1] else [])
  pend ++ good ++ [2]

/-- The first candidate that passes; a pending one is marked tried first, a failed one sets its FAIL bit. -/
def Core.bootChoose (c : Core) (ok : Nat → Bool) : List Nat → Core × Option Nat
  | [] => (c, none)
  | i :: rest =>
    let c := if i < 2 ∧ (c.flash i).state = 1 then c.setFlash i { c.flash i with state := 2 } else c
    if ok i then (c, some i)
    else Core.bootChoose (c.setF F.PWR_BOOT_STAT_FAIL (c.f F.PWR_BOOT_STAT_FAIL ||| 2 ^ i)) ok rest

/-- The boot stops at a step, which the spec does not number, until a reset: FAULT_N, and a STAGE of 0xE0 to 0xEF. -/
def Core.bootStop (c : Core) : Core :=
  let (v, c) := c.free
  let c := { c with ump := { c.ump with faultN := true }, pwr := { c.pwr with stopped := true } }
  c.setF F.PWR_BOOT_STAT_STAGE (0xE0 + v % 16)

/-- Units that failed their boot tests isolated (R518, R538): slices pass to the other nibs, and the second cox runs in place of
the first. -/
def Core.bootIsolate (c : Core) (badNibs badCoxes : List Nat) : Core :=
  let c := c.eachOf badNibs fun n c =>
    if c.nibState n = 3 then c
    else
      let c := c.setF F.UMP_ISOL_NIB_NIB (setBits (c.f F.UMP_ISOL_NIB_NIB) n 1 1)
      ((c.isolated 11 0 n).setF (F.NIBN_STAT_STATE n) 3).setF (F.NIBN_STAT_SLICE n) 31
  let c := c.eachOf badCoxes fun n c =>
    if bit (c.f F.UMP_ISOL_COX_COX) n then c
    else (c.setF F.UMP_ISOL_COX_COX (setBits (c.f F.UMP_ISOL_COX_COX) n 1 1)).isolated 11 1 n
  let act := b2n (bit (c.f F.UMP_ISOL_COX_COX) 0)
  let c := (c.setF F.UMP_STAT_ACTIVE_COX act).setF F.COX_EPOCH_ACTIVE act
  c.fillSlices

/-- IDLE is entered with an image: versions, the mark good, 0x0D10 with the boot count, and the event of R535. The DRAM that a warm reset
kept takes the image too. -/
def Core.bootDone (c : Core) (img ver out : Nat) (l : List Byte) : Core :=
  let c := { c with pwr := { c.pwr with image := l } }.areaImage
  let c := ((c.setN R.DEV_COX_VER ver).setN R.DEV_NIB_VER ver).setN R.DEV_NIB_OUT out
  let c := ((c.setN R.PWR_BOOT_VER ver).setF F.PWR_BOOT_STAT_IMAGE img).setF F.PWR_BOOT_STAT_STAGE 0
  let c := if img < 2 then c.setFlash img { c.flash img with state := 3 } else c
  let c := { c with ump := { c.ump with faultN := false }, ticks := { c.ticks with stby := c.now } }
  let c := c.spareSync
  let c := c.setB F.UMP_STAT_STBY_READY (c.ump.nibImage && c.f F.UMP_ISOL_COX_COX == 0)
  let c := (c.inc R.UMP_EVS_BOOT).gotoFrom stBoot stIdle
  let c := c.postStore 0x0D10 31 (c.n R.UMP_EVS_BOOT)
  let d := c.f F.PWR_BOOT_STAT_FAIL * 256 + img
  let c := if c.fb F.EV_CFG_EN then c.post 0x0E07 31 d else { c with pwr := { c.pwr with bootEvent := some d } }
  let lost := (List.range 16).filter fun q => !(List.range 18).any fun n => c.nibState n == 2 && c.f (F.NIBN_STAT_SLICE n) == q
  let c := match lost with
    | [] => c
    | [q] => c.redistribute q ((List.range 18).find? (fun n => c.nibState n == 3) |>.getD 0)
    | _ => c.enterSafe 2
  c.health

/-- A boot waits for a download. -/
def Core.bootWait (c : Core) : Core := { c with pwr := { c.pwr with download := true } }

/-- BOOT_COMPLETE (R535, R538): the voltage loop is on whatever comes after it; at a warm reset no memory is tested (R532), whatever
`memBad` says. A boot that has stopped, or that waits for its download, goes no further. -/
def Core.bootComplete (c : Core) (okA okB : Bool) (x : RecImage) (ver out : Nat) (badNibs badCoxes : List Nat) (memBad : Bool) : Core :=
  if c.st ≠ stBoot ∨ c.pwr.held ≠ 0 ∨ c.pwr.stopped ∨ c.pwr.download then c
  else
    let c := c.setB F.AVS_CFG_EN true
    let isol := badCoxes ++ (List.range 2).filter (bit (c.f F.UMP_ISOL_COX_COX))
    if memBad && !c.fb F.PWR_RST_CAUSE_WARM || (isol.contains 0 && isol.contains 1) then c.bootStop
    else match c.pwr.loaded with
      | some (img, v, o) => (c.bootIsolate badNibs badCoxes).bootDone img v o c.pwr.image
      | none =>
        if c.pwr.mode = 1 then c.bootWait
        else
          let recv := recImageBytes x ver out
          let image := fun i => if i < 2 then c.flashImage i else recv
          let ok := fun i => c.imagePasses (image i) (if i = 0 then okA else if i = 1 then okB else x.sigOk)
          let c := (c.setFw { c.ump.fw with qspi := [] }).qspi [.sfdp, .fastRead 0 26, .fastRead 4096 26]
          match c.bootChoose ok c.bootOrder with
          | (c, some i) =>
            let l := image i
            ((c.qspi [.fastRead (imageBase i) l.length]).bootIsolate badNibs badCoxes).bootDone i (le l 4 4) (le l 8 4) l
          | (c, none) => if c.pwr.mode = 2 then c.bootWait else c.bootStop

/-- BOOT_COMPLETE. -/
def execBootComplete (okA okB : Bool) (rec : RecImage) (ver out : Word) (badNibs : List (Fin 18)) (badCoxes : List (Fin 2))
    (memBad : Bool) (s : State) : Host.Outcome State Fault Refusal :=
  .next { s with core := s.core.bootComplete okA okB rec ver.toNat out.toNat (badNibs.map (·.val)) (badCoxes.map (·.val)) memBad }

/-- A write of PWR_BOOT_GO (R537). -/
def Core.bootGo (c : Core) (v : Nat) (sigOk : Bool) : Core :=
  if bit v 0 && c.st == stBoot && c.pwr.download then
    let len := c.f F.PWR_BOOT_LEN_LEN
    let l := c.rdHost (c.n64 R.PWR_BOOT_ADDR_LO) len
    if decide (len ≤ 2 ^ 24) && c.imagePasses l sigOk then
      ({ c with pwr := { c.pwr with download := false, loaded := some (3, le l 4 4, le l 8 4), image := l } } : Core).setF F.PWR_BOOT_STAT_STAGE 0
    else c.setF F.PWR_BOOT_STAT_STAGE 0xE1
  else c

/-- BOOT_GO_WRITE. -/
def execBootGoWrite (v : Word) (sigOk : Bool) (s : State) : Host.Outcome State Fault Refusal :=
  .next { s with core := s.core.hostReg .host0 R.PWR_BOOT_GO v fun c => c.bootGo v.toNat sigOk }

/-! ### The adaptive core voltage (R525-R527) -/

/-- The ageing margin in ps. -/
def Core.ageMargin (c : Core) : Nat := c.f F.PWR_AGE_PPM * c.f F.PWR_AGE_AGE_K / 1000

/-- The next target in mV. -/
def Core.avsTarget (c : Core) (slack : Int) : Nat :=
  let m := c.ageMargin
  let v := c.f F.AVS_STAT_VOUT
  let lo := c.f F.AVS_CFG_VMIN * 5
  let hi := c.f F.AVS_CFG_VMAX * 5
  let t := if slack < (c.f F.AVS_CFG_SLACK_LO + m : Nat) then v + 5
    else if ((c.f F.AVS_CFG_SLACK_HI + m : Nat) : Int) < slack then v - 5 else v
  max lo (min hi t)

/-- The limits reported once an excursion: the target stood at the clamp as the slack was taken (R526). -/
def Core.avsLimits (c : Core) (slack : Int) : Core :=
  let v := c.f F.AVS_STAT_VOUT
  let atMax := decide (v = c.f F.AVS_CFG_VMAX * 5) && decide (slack < (c.f F.AVS_CFG_SLACK_LO : Nat))
  let atMin := decide (v = c.f F.AVS_CFG_VMIN * 5) && decide (((c.f F.AVS_CFG_SLACK_HI + c.ageMargin : Nat) : Int) < slack)
  let c := if atMax && !c.fb F.AVS_STAT_AT_MAX then c.post 0x0E04 31 (2 ^ 31 + v) else c
  let c := if atMin && !c.fb F.AVS_STAT_AT_MIN then c.post 0x0E04 31 v else c
  (c.setB F.AVS_STAT_AT_MAX atMax).setB F.AVS_STAT_AT_MIN atMin

/-- A transaction that fails; the third in a row ends the loop (R526). -/
def Core.avsFail (c : Core) : Core :=
  let n := c.pwr.busFails + 1
  let c := c.inc R.AVS_ERR_CNT
  if n < 3 then { c with pwr := { c.pwr with busFails := n } }
  else
    let c := ({ c with pwr := { c.pwr with busFails := 0 }, ticks := { c.ticks with avsRetry := c.now + 100 * msec } } : Core).setB
      F.AVS_STAT_BUS_FAIL true
    c.post 0x0E05 31 (c.n R.AVS_ERR_CNT)

/-- Transactions of AVSBus go out (R525). -/
def Core.avsSend (c : Core) (l : List AvsCmd) : Core := { c with pwr := { c.pwr with avs := l } }

/-- AVS_TICK, each 1 ms: the ageing is measured (R527), the target is written and read back and the regulator's status read; transactions
that failed are retried at once (R525, R526; log entry 74). -/
def execAvsTick (slack : Int) (busOk : Bool) (s : State) : Host.Outcome State Fault Refusal :=
  let c := s.core
  let r :=
    if c.fb F.AVS_CFG_EN && !c.fb F.AVS_STAT_BUS_FAIL && c.pwr.held == 0 && (decide (c.ticks.avs ≤ c.now) || c.pwr.busFails != 0) then
      let next := if c.pwr.busFails = 0 then nextDue c.ticks.avs msec c.now else c.ticks.avs
      let c := { c with ticks := { c.ticks with avs := next } }.setF F.PWR_AGE_PPM (Config.ringAge c.now).toNat
      let c := c.setF F.AVS_SLACK_PS (wrap 16 slack)
      let v := c.avsTarget slack
      let c := c.avsSend [.voutWrite v, .voutRead, .statusRead]
      if busOk then
        let c := { c with pwr := { c.pwr with busFails := 0 } }
        (c.avsLimits slack).setF F.AVS_STAT_VOUT v
      else c.avsFail
    else c
  .next { s with core := r }

/-- AVS_RETRY, each 100 ms: a status read after a bus failure. -/
def execAvsRetry (ok : Bool) (s : State) : Host.Outcome State Fault Refusal :=
  let c := s.core
  .next { s with core := if c.fb F.AVS_STAT_BUS_FAIL && decide (c.ticks.avsRetry ≤ c.now) then
    let c := { c with ticks := { c.ticks with avsRetry := nextDue c.ticks.avsRetry (100 * msec) c.now } }.avsSend [.statusRead]
    (if ok then c.setB F.AVS_STAT_BUS_FAIL false else c.inc R.AVS_ERR_CNT) else c }

/-! ### Clocks (R529) -/

/-- PLL_LOSS: the PLL in use of a domain loses lock and the other takes over, unless it has failed too; the loss of the other
PLL is only recorded. -/
def execPllLoss (d : Fin 8) (onB : Bool) (s : State) : Host.Outcome State Fault Refusal :=
  let c := s.core
  let inUse := bit (c.f F.CLK_STAT_ON_B) d == onB
  let failed := bit (c.f F.CLK_STAT_FAILED) d
  let c' := c.setF F.CLK_STAT_FAILED (setBits (c.f F.CLK_STAT_FAILED) d 1 1)
  let r :=
    if c.pwr.held ≠ 0 then c
    else if inUse && !failed then
      (c'.setF F.CLK_STAT_ON_B (setBits (c.f F.CLK_STAT_ON_B) d 1 (b2n !onB))).post 0x0E06 d (b2n onB)
    else c'
  .next { s with core := r }

/-! ### Thermal protection (R541-R543) -/

/-- A sensor fails; the pair is lost when its partner has failed too. -/
def Core.dtsFail (c : Core) (j : Nat) : Core :=
  if c.dtsFailed j then c
  else
    let c := c.setF F.THERM_STAT_FAILED (setBits (c.f F.THERM_STAT_FAILED) j 1 1)
    c.post 0x0E02 j (b2n (c.dtsFailed (j ^^^ 1)) * 256 + j)

/-- The readings of a sample kept, with the time since which a sensor differs from its partner by more than 10 °C. -/
def Core.dtsTake (c : Core) (vals : List Int) : Core :=
  c.each 8 fun j c =>
    let v := vals.getD j 0
    let w := vals.getD (j ^^^ 1) 0
    let since := Tab.get (fun _ => none) c.pwr.dtsDiff j
    let differs := decide (640 < (v - w).natAbs) && !c.dtsFailed j && !c.dtsFailed (j ^^^ 1)
    let c := c.setF (F.DTS_TEMP j) (wrap 16 v)
    { c with pwr := { c.pwr with
        dts := Tab.set (fun _ => 0) c.pwr.dts j v
        dtsDiff := Tab.set (fun _ => none) c.pwr.dtsDiff j (if differs then some (since.getD c.now) else none) } }

/-- Warning with its hysteresis on the highest valid reading (R541). -/
def Core.dtsWarn (c : Core) : Core :=
  let valid := ((List.range 8).filter fun j => !c.dtsFailed j).map c.dts
  match valid with
  | [] => c
  | v :: l =>
    let top := l.foldl max v
    let c := c.setF F.THERM_STAT_MAX (wrap 16 top)
    let warn := c.fs F.THERM_WARN_WARN
    if !c.fb F.THERM_STAT_WARNING && decide (warn ≤ top) then
      (c.setB F.THERM_STAT_WARNING true).post 0x0E01 31 (2 ^ 31 + wrap 16 top)
    else if c.fb F.THERM_STAT_WARNING && decide (top ≤ warn - (c.f F.THERM_WARN_HYST : Nat)) then
      (c.setB F.THERM_STAT_WARNING false).post 0x0E01 31 (wrap 16 top)
    else c

/-- The valid sensors of a pair. -/
def Core.pairValid (c : Core) (p : Nat) : List Nat := [2 * p, 2 * p + 1].filter fun j => !c.dtsFailed j

/-- The pair whose valid sensors all read 115 °C or more in the last sample and the one before (R542). -/
def Core.tripPair (c : Core) : Option Nat :=
  (List.range 4).find? fun p =>
    c.pairValid p != [] && (c.pairValid p).all fun j =>
      Tab.get (fun _ => false) c.pwr.dtsHot j && Tab.get (fun _ => false) c.pwr.dtsWas j

/-- The trip: outputs safe, 0x0E03 to the event store alone, the latch, and every clock but the umpire's stopped (R542). -/
def Core.trip (c : Core) (p : Nat) : Core :=
  let v := (c.pairValid p).map c.dts
  let top := v.foldl max (v.headD 0)
  let line := if c.job.tof then (match (c.bar (c.barsInUse.headD 0)).pend.head? with
    | some x => x.line
    | none => noLine) else noLine
  let failed := c.f F.THERM_STAT_FAILED
  let c := c.evStore ⟨c.t32, c.web.s % 2 ^ 48, line, c.webPos, 0x0E03, p, wrap 32 top⟩
  let c := c.afterReset false 2
  ({ c with pwr := { c.pwr with latch := true } } : Core).setF F.THERM_STAT_FAILED failed

/-- The trip judged: a device that has tripped, or that has no power, does not trip. -/
def State.tripJudge (s : State) : State :=
  match if s.core.pwr.latch ∨ s.core.pwr.held = 3 then none else s.core.tripPair with
  | some p => s.withReset (s.core.trip p)
  | none => s

/-- DTS_SAMPLE, each 20 µs under the umpire's clock, from the rise of its rail on: the eight conversions; out of -55 to 150 °C a sensor
fails; warning and trip are judged. -/
def execDtsSample (vals : List Int) (s : State) : Host.Outcome State Fault Refusal :=
  let c := s.core
  if c.now < c.ticks.dts then .next s
  else
    let c := { c with ticks := { c.ticks with dts := nextDue c.ticks.dts (20 * usec) c.now } }
    let c := { c with pwr := { c.pwr with dtsWas := c.pwr.dtsHot, dtsSeen := true } }.dtsTake vals
    let c := c.each 8 fun j c => if c.dts j < -3520 ∨ 9600 < c.dts j then c.dtsFail j else c
    let c := c.dtsWarn
    let c := c.each 8 fun j c =>
      { c with pwr := { c.pwr with dtsHot := Tab.set (fun _ => false) c.pwr.dtsHot j (decide (7360 ≤ c.dts j)) } }
    .next { s with core := c }.tripJudge

/-- DTS_FAIL: a sensor that has differed from its partner by more than 10 °C for 1 s; its pair may then trip on the other alone (R542). -/
def execDtsFail (j : Fin 8) (s : State) : Host.Outcome State Fault Refusal :=
  let c := s.core
  let due := match Tab.get (fun _ => none) c.pwr.dtsDiff j with
    | some t => decide (t + sec ≤ c.now)
    | none => false
  .next (if due then { s with core := c.dtsFail j }.tripJudge else s)

/-- THERM_HOT_TICK: a second with a valid reading above 105 °C. -/
def execThermHotTick (s : State) : Host.Outcome State Fault Refusal :=
  let c := s.core
  let hot := (List.range 8).any fun j => !c.dtsFailed j && decide (6720 < c.dts j)
  .next { s with core := if hot && decide (c.pwr.hotAt + sec ≤ c.now) then
    ({ c with pwr := { c.pwr with hotAt := c.now } } : Core).inc R.THERM_HOT_S else c }

end Sys2Proof.Machine
end

