-- ==== Sys2Proof/Machine/Temps.lean ====
section
/-!
DEFINITION. The commands that change head temperatures (spec/11_head_health.md R299-R303, spec/10_quill_head_link.md R281): the
values as they come, and the derate generations that they call for at once.
-/

namespace Sys2Proof.Machine

/-- TS_CONVERSION, each 10 ms: a value in range is the input's; OPEN or SHORT else, with 0x080B (R302). -/
def execTsConversion (n : Fin 16) (m : TsSample) (s : State) : Host.Outcome State Fault Refusal :=
  let c := s.core
  let fault := fun (opn : Bool) (c : Core) =>
    ((c.setB (F.TS_STAT_OPEN n) opn).setB (F.TS_STAT_SHORT n) (!opn)).post 0x080B (1024 + n) (b2n (!opn))
  let at_ := Tab.get (fun _ => 0) c.ticks.inputs n
  let c := if c.fb (F.TS_CFG_EN n) && decide (at_ ≤ c.now) then
      let c := { c with ticks := { c.ticks with inputs := Tab.set (fun _ => 0) c.ticks.inputs n (nextDue at_ (10 * msec) c.now) } }
      match c.tsResult n m with
      | .high => fault true c
      | .low => fault false c
      | .temp t =>
        let (t, c) := c.tsTemp t
        let c := (c.setB (F.TS_STAT_OPEN n) false).setB (F.TS_STAT_SHORT n) false
        let c := c.setTs n { c.tsIn n with own := t, validAt := some c.now }
        let c := c.setF (F.TS_STAT_TEMP n) (wrap 16 t)
        let c := c.tsJudged n
        if c.fb (F.TS_CFG_HEAD_EN n) ∧ c.tsOf (c.f (F.TS_CFG_HEAD n)) = some n.val then
          c.headDeliver (c.f (F.TS_CFG_HEAD n)) (c.tsValue n)
        else c
    else c
  .next { s with core := c.deratesDue }

/-- TEMP_STALE: a source silent beyond its limit (R300); a board source posts 0x070E (R281). -/
def execTempStale (h : Fin 1024) (s : State) : Host.Outcome State Fault Refusal :=
  let c := s.core
  let due := match c.tsOf h with
    | some n => c.tsStale n
    | none => match (c.head h).delivered with
      | some t => decide (t + c.f F.QL_TEMP_TO_TO * usec ≤ c.now)
      | none => true
  let c := if due then
      let fresh := !c.fb (F.HH_THETA_STALE h)
      let c := (c.setB (F.HH_THETA_STALE h) true).headJudged h
      if fresh ∧ (c.tsOf h).isNone then c.post 0x070E h ((c.now - (c.head h).delivered.getD 0) / usec) else c
    else c
  .next { s with core := c.deratesDue }

/-- TEMP_SUSPECT: a value off its median for 2 s (R301). -/
def execTempSuspect (h : Fin 1040) (s : State) : Host.Outcome State Fault Refusal :=
  let c := s.core.nbrCheck h
  let (from_, is) := if h.val < 1024 then ((c.head h).devFrom, c.fb (F.HH_THETA_SUSPECT h))
    else ((c.tsIn (h - 1024)).devFrom, c.fb (F.TS_STAT_SUSPECT (h - 1024)))
  let due := !is && (match from_ with
    | some t => decide (t + 2 * sec ≤ c.now)
    | none => false)
  .next { s with core := (if due then c.suspect h true else c).deratesDue }

/-- TEMP_SUSPECT_CLEAR: a SUSPECT value within the limit for 10 s (R301). -/
def execTempSuspectClear (h : Fin 1040) (s : State) : Host.Outcome State Fault Refusal :=
  let c := s.core.nbrCheck h
  let (from_, is) := if h.val < 1024 then ((c.head h).okFrom, c.fb (F.HH_THETA_SUSPECT h))
    else ((c.tsIn (h - 1024)).okFrom, c.fb (F.TS_STAT_SUSPECT (h - 1024)))
  let due := is && (match from_ with
    | some t => decide (t + 10 * sec ≤ c.now)
    | none => false)
  .next { s with core := (if due then c.suspect h false else c).deratesDue }

/-- QL_TEMP_RX: the temperatures of two heads, of those that no sensor input serves (R281, R299). -/
def execQlTempRx (_n : Fin 64) (f : BitVec 56) (s : State) : Host.Outcome State Fault Refusal :=
  let c := s.core
  let a := f.toNat
  let put := fun (h : Nat) (v : Int) (c : Core) => if (c.tsOf h).isNone then c.headDeliver h v else c
  let c := put (bits a 46 10) (sext 16 (bits a 30 16)) c
  .next { s with core := (if bit a 3 then put (bits a 20 10) (sext 16 (bits a 4 16)) c else c).deratesDue }

/-- HEAD_WARM_CLEAR: a warm head at or below WARN - HYST for 1 s; its restoring generation is to be formed, after those that
wait (R303), and 0x0801 reports that the warning clears (R318). -/
def execHeadWarmClear (h : Fin 1024) (s : State) : Host.Outcome State Fault Refusal :=
  let c := s.core
  let u := c.head h
  let due := c.fb (F.HH_THETA_WARM h) && (match u.coolFrom with
    | some t => decide (t + sec ≤ c.now)
    | none => false)
  let r :=
    if due then
      let c := (c.setB (F.HH_THETA_WARM h) false).setF F.HH_STAT_WARM (c.f F.HH_STAT_WARM - 1)
      let c := (c.setHead h { u with coolFrom := none, wantDerate := u.wantDerate ++ [false] }).post 0x0801 h (wrap 16 (c.theta h))
      c.deratesDue
    else c
  .next { s with core := r }

end Sys2Proof.Machine
end

