-- ==== Sys2Proof/Machine/Dispatch.lean ====
section
/-!
DEFINITION. The meaning of each command: one arm per constructor, each one direct call.
-/

namespace Sys2Proof.Machine

def exec (i : Instr) (s : State) : Host.Outcome State Fault Refusal :=
  match i with
  | .registerWrite w off v => Sys2Proof.Machine.execRegisterWrite w off v s
  | .reg64LoRead w off => Sys2Proof.Machine.execReg64LoRead w off s
  | .rcRead w off => Sys2Proof.Machine.execRcRead w off s
  | .accessViolation bar off write => Sys2Proof.Machine.execAccessViolation bar off write s
  | .tableWrite off v => Sys2Proof.Machine.execTableWrite off v s
  | .apertureAccess off write data => Sys2Proof.Machine.execApertureAccess off write data s
  | .encCount n a b => Sys2Proof.Machine.execEncCount n a b s
  | .encIndex n => Sys2Proof.Machine.execEncIndex n s
  | .encIndexMissing n => Sys2Proof.Machine.execEncIndexMissing n s
  | .encLos n onB => Sys2Proof.Machine.execEncLos n onB s
  | .encLosClear n => Sys2Proof.Machine.execEncLosClear n s
  | .encAmpFault n radius => Sys2Proof.Machine.execEncAmpFault n radius s
  | .encAmpClear n => Sys2Proof.Machine.execEncAmpClear n s
  | .encSpeedDecay n => Sys2Proof.Machine.execEncSpeedDecay n s
  | .encStandstill n => Sys2Proof.Machine.execEncStandstill n s
  | .cmpTargetWrite m w hi => Sys2Proof.Machine.execCmpTargetWrite m w hi s
  | .cmpCfgWrite m v => Sys2Proof.Machine.execCmpCfgWrite m v s
  | .cmpInterpFire m => Sys2Proof.Machine.execCmpInterpFire m s
  | .cmpPulseEnd m => Sys2Proof.Machine.execCmpPulseEnd m s
  | .fireEdge b => Sys2Proof.Machine.execFireEdge b s
  | .firePulseEnd b genStuck => Sys2Proof.Machine.execFirePulseEnd b genStuck s
  | .slowReqOff => Sys2Proof.Machine.execSlowReqOff s
  | .wdTrip b => Sys2Proof.Machine.execWdTrip b s
  | .wdClearWrite v => Sys2Proof.Machine.execWdClearWrite v s
  | .trimBankLoad g => Sys2Proof.Machine.execTrimBankLoad g s
  | .testTick gates => Sys2Proof.Machine.execTestTick gates s
  | .inkLineComplete n ls sig => Sys2Proof.Machine.execInkLineComplete n ls sig s
  | .nibFault n mech => Sys2Proof.Machine.execNibFault n mech s
  | .nibHeartbeatMiss cls u => Sys2Proof.Machine.execNibHeartbeatMiss cls u s
  | .spareStartDone n ok => Sys2Proof.Machine.execSpareStartDone n ok s
  | .proofFrame f => Sys2Proof.Machine.execProofFrame f s
  | .dwellEnd n j => Sys2Proof.Machine.execDwellEnd n j s
  | .headStale h => Sys2Proof.Machine.execHeadStale h s
  | .binStale seg b => Sys2Proof.Machine.execBinStale seg b s
  | .csiFrameStart p => Sys2Proof.Machine.execCsiFrameStart p s
  | .csiLongPacket p vc dt px crcOk => Sys2Proof.Machine.execCsiLongPacket p vc dt px crcOk s
  | .csiPacketDiscard p ecc => Sys2Proof.Machine.execCsiPacketDiscard p ecc s
  | .csiFrameEnd p => Sys2Proof.Machine.execCsiFrameEnd p s
  | .camFrameTimeout p => Sys2Proof.Machine.execCamFrameTimeout p s
  | .camUnpaired p => Sys2Proof.Machine.execCamUnpaired p s
  | .camStatRecord p => Sys2Proof.Machine.execCamStatRecord p s
  | .camTestFrame p => Sys2Proof.Machine.execCamTestFrame p s
  | .expWritesDone p => Sys2Proof.Machine.execExpWritesDone p s
  | .cciWriteFail p k => Sys2Proof.Machine.execCciWriteFail p k s
  | .qlCodeword n down msg check => Sys2Proof.Machine.execQlCodeword n down msg check s
  | .qlTapReqRx n arg => Sys2Proof.Machine.execQlTapReqRx n arg s
  | .qlHelloRx n arg => Sys2Proof.Machine.execQlHelloRx n arg s
  | .qlAckRx n arg => Sys2Proof.Machine.execQlAckRx n arg s
  | .qlLinkRx n arg => Sys2Proof.Machine.execQlLinkRx n arg s
  | .qlFrameCheckRx n arg => Sys2Proof.Machine.execQlFrameCheckRx n arg s
  | .qlStatusRx n f => Sys2Proof.Machine.execQlStatusRx n f s
  | .qlTempRx n f => Sys2Proof.Machine.execQlTempRx n f s
  | .qlRecordRx n f data crc => Sys2Proof.Machine.execQlRecordRx n f data crc s
  | .mgmtResend n => Sys2Proof.Machine.execMgmtResend n s
  | .qlCfgWrite n v => Sys2Proof.Machine.execQlCfgWrite n v s
  | .qlRetrain n => Sys2Proof.Machine.execQlRetrain n s
  | .qlTestWrite n v => Sys2Proof.Machine.execQlTestWrite n v s
  | .qlStepTimeout n => Sys2Proof.Machine.execQlStepTimeout n s
  | .qlLockTimer n => Sys2Proof.Machine.execQlLockTimer n s
  | .qlDownRetry n => Sys2Proof.Machine.execQlDownRetry n s
  | .qlUplockLoss n => Sys2Proof.Machine.execQlUplockLoss n s
  | .boardLineStart g mirror f => Sys2Proof.Machine.execBoardLineStart g mirror f s
  | .boardFrame g mirror fh words crc high bad => Sys2Proof.Machine.execBoardFrame g mirror fh words crc high bad s
  | .boardFire g => Sys2Proof.Machine.execBoardFire g s
  | .boardBankLoad g f words crc => Sys2Proof.Machine.execBoardBankLoad g f words crc s
  | .boardInputLoss g mirror => Sys2Proof.Machine.execBoardInputLoss g mirror s
  | .boardMirrorRelock g => Sys2Proof.Machine.execBoardMirrorRelock g s
  | .boardTapAck g arg => Sys2Proof.Machine.execBoardTapAck g arg s
  | .boardHeadId g arg => Sys2Proof.Machine.execBoardHeadId g arg s
  | .boardWaveSel g arg => Sys2Proof.Machine.execBoardWaveSel g arg s
  | .boardSelect g arg => Sys2Proof.Machine.execBoardSelect g arg s
  | .boardLoop g arg => Sys2Proof.Machine.execBoardLoop g arg s
  | .boardRecWrite g arg data crc => Sys2Proof.Machine.execBoardRecWrite g arg data crc s
  | .boardRecRead g arg => Sys2Proof.Machine.execBoardRecRead g arg s
  | .tsConversion n m => Sys2Proof.Machine.execTsConversion n m s
  | .tempStale h => Sys2Proof.Machine.execTempStale h s
  | .staleHeadBlank h => Sys2Proof.Machine.execStaleHeadBlank h s
  | .tempSuspect h => Sys2Proof.Machine.execTempSuspect h s
  | .tempSuspectClear h => Sys2Proof.Machine.execTempSuspectClear h s
  | .headWarmClear h => Sys2Proof.Machine.execHeadWarmClear h s
  | .headLimitTick => Sys2Proof.Machine.execHeadLimitTick s
  | .headBlankClear h => Sys2Proof.Machine.execHeadBlankClear h s
  | .tempCheckTick => Sys2Proof.Machine.execTempCheckTick s
  | .recWriteTimer => Sys2Proof.Machine.execRecWriteTimer s
  | .dramRead req pa n err => Sys2Proof.Machine.execDramRead req pa n err s
  | .dramWrite req pa data crcFails => Sys2Proof.Machine.execDramWrite req pa data crcFails s
  | .refreshDue c r blocked => Sys2Proof.Machine.execRefreshDue c r blocked s
  | .mr4Poll codes => Sys2Proof.Machine.execMr4Poll codes s
  | .patrolScrub c r err => Sys2Proof.Machine.execPatrolScrub c r err s
  | .migrationBlock c err => Sys2Proof.Machine.execMigrationBlock c err s
  | .driftCheck c r delay => Sys2Proof.Machine.execDriftCheck c r delay s
  | .retrainSlice c r last step => Sys2Proof.Machine.execRetrainSlice c r last step s
  | .memLoopWrite v => Sys2Proof.Machine.execMemLoopWrite v s
  | .memInitDone result => Sys2Proof.Machine.execMemInitDone result s
  | .rankReturnDone c r res => Sys2Proof.Machine.execRankReturnDone c r res s
  | .sqDoorbell n v => Sys2Proof.Machine.execSqDoorbell n v s
  | .cqDoorbell m v => Sys2Proof.Machine.execCqDoorbell m v s
  | .evHeadWrite v => Sys2Proof.Machine.execEvHeadWrite v s
  | .sqCfgWrite n v => Sys2Proof.Machine.execSqCfgWrite n v s
  | .cqCfgWrite m v => Sys2Proof.Machine.execCqCfgWrite m v s
  | .commandFetch err => Sys2Proof.Machine.execCommandFetch err s
  | .irqTimer src => Sys2Proof.Machine.execIrqTimer src s
  | .hostReset cause => Sys2Proof.Machine.execHostReset cause s
  | .pciePoisonedWrite => Sys2Proof.Machine.execPciePoisonedWrite s
  | .nop p => Sys2Proof.Machine.execNop p s
  | .identify p => Sys2Proof.Machine.execIdentify p s
  | .reset p => Sys2Proof.Machine.execReset p s
  | .warmReset => Sys2Proof.Machine.execWarmReset s
  | .safeLeave p => Sys2Proof.Machine.execSafeLeave p s
  | .fwStage p => Sys2Proof.Machine.execFwStage p s
  | .fwStageDone sigOk hwOk => Sys2Proof.Machine.execFwStageDone sigOk hwOk s
  | .fwActivate p => Sys2Proof.Machine.execFwActivate p s
  | .fwNibStep => Sys2Proof.Machine.execFwNibStep s
  | .colourLoad p => Sys2Proof.Machine.execColourLoad p s
  | .screenLoad p => Sys2Proof.Machine.execScreenLoad p s
  | .shadowRevert p => Sys2Proof.Machine.execShadowRevert p s
  | .shadowRevertDone => Sys2Proof.Machine.execShadowRevertDone s
  | .jobOpen p => Sys2Proof.Machine.execJobOpen p s
  | .jobClose p => Sys2Proof.Machine.execJobClose p s
  | .surfRegister p => Sys2Proof.Machine.execSurfRegister p s
  | .surfResident p => Sys2Proof.Machine.execSurfResident p s
  | .surfResidentDone id => Sys2Proof.Machine.execSurfResidentDone id s
  | .surfRelease p => Sys2Proof.Machine.execSurfRelease p s
  | .panelQueue p => Sys2Proof.Machine.execPanelQueue p s
  | .commit p => Sys2Proof.Machine.execCommit p s
  | .arm p => Sys2Proof.Machine.execArm p s
  | .tof p => Sys2Proof.Machine.execTof p s
  | .disarm p => Sys2Proof.Machine.execDisarm p s
  | .abort p => Sys2Proof.Machine.execAbort p s
  | .nozzleMapLoad p => Sys2Proof.Machine.execNozzleMapLoad p s
  | .serviceEnter p => Sys2Proof.Machine.execServiceEnter p s
  | .serviceLeave p => Sys2Proof.Machine.execServiceLeave p s
  | .testFire p => Sys2Proof.Machine.execTestFire p s
  | .spit p => Sys2Proof.Machine.execSpit p s
  | .testStop p => Sys2Proof.Machine.execTestStop p s
  | .gateApply p => Sys2Proof.Machine.execGateApply p s
  | .headUnblank p => Sys2Proof.Machine.execHeadUnblank p s
  | .wdClear p => Sys2Proof.Machine.execWdClear p s
  | .recRefresh p => Sys2Proof.Machine.execRecRefresh p s
  | .pfClear p => Sys2Proof.Machine.execPfClear p s
  | .pfClearDone => Sys2Proof.Machine.execPfClearDone s
  | .loopSuspend p => Sys2Proof.Machine.execLoopSuspend p s
  | .expLoad p => Sys2Proof.Machine.execExpLoad p s
  | .expSelect p => Sys2Proof.Machine.execExpSelect p s
  | .sensorAccess p rd nack => Sys2Proof.Machine.execSensorAccess p rd nack s
  | .dpcLoad p => Sys2Proof.Machine.execDpcLoad p s
  | .shadingLoad p => Sys2Proof.Machine.execShadingLoad p s
  | .memInit p => Sys2Proof.Machine.execMemInit p s
  | .memRetrain p => Sys2Proof.Machine.execMemRetrain p s
  | .dmaStart p => Sys2Proof.Machine.execDmaStart p s
  | .dmaResume p => Sys2Proof.Machine.execDmaResume p s
  | .dmaStop p => Sys2Proof.Machine.execDmaStop p s
  | .evzRun p => Sys2Proof.Machine.execEvzRun p s
  | .timeStep p => Sys2Proof.Machine.execTimeStep p s
  | .ptpMode p => Sys2Proof.Machine.execPtpMode p s
  | .logCtrl p => Sys2Proof.Machine.execLogCtrl p s
  | .logExport p => Sys2Proof.Machine.execLogExport p s
  | .logExportDone => Sys2Proof.Machine.execLogExportDone s
  | .replayStart p => Sys2Proof.Machine.execReplayStart p s
  | .replayStop p => Sys2Proof.Machine.execReplayStop p s
  | .selfTest p => Sys2Proof.Machine.execSelfTest p s
  | .selfTestDone ok => Sys2Proof.Machine.execSelfTestDone ok s
  | .switchBack p => Sys2Proof.Machine.execSwitchBack p s
  | .switchBackEnd cox u ok => Sys2Proof.Machine.execSwitchBackEnd cox u ok s
  | .coxSwitch p => Sys2Proof.Machine.execCoxSwitch p s
  | .laneRetrain p => Sys2Proof.Machine.execLaneRetrain p s
  | .crewForm p => Sys2Proof.Machine.execCrewForm p s
  | .crewFormed locked => Sys2Proof.Machine.execCrewFormed locked s
  | .crewLeave p => Sys2Proof.Machine.execCrewLeave p s
  | .lpMap p => Sys2Proof.Machine.execLpMap p s
  | .legacyStart p => Sys2Proof.Machine.execLegacyStart p s
  | .legacyStop p => Sys2Proof.Machine.execLegacyStop p s
  | .lspDiscard => Sys2Proof.Machine.execLspDiscard s
  | .lspFramingReset => Sys2Proof.Machine.execLspFramingReset s
  | .lhStatus p => Sys2Proof.Machine.execLhStatus p s
  | .lhReset p => Sys2Proof.Machine.execLhReset p s
  | .lhSetEncDiv p => Sys2Proof.Machine.execLhSetEncDiv p s
  | .lhSetPitch p => Sys2Proof.Machine.execLhSetPitch p s
  | .lhLoadBand p => Sys2Proof.Machine.execLhLoadBand p s
  | .lhStart p => Sys2Proof.Machine.execLhStart p s
  | .lhStop p => Sys2Proof.Machine.execLhStop p s
  | .lhSetOffset p => Sys2Proof.Machine.execLhSetOffset p s
  | .lhSetWave p => Sys2Proof.Machine.execLhSetWave p s
  | .lhReadTemp p => Sys2Proof.Machine.execLhReadTemp p s
  | .lhSpit p => Sys2Proof.Machine.execLhSpit p s
  | .lhMaskNozzle p => Sys2Proof.Machine.execLhMaskNozzle p s
  | .lhReadCount p => Sys2Proof.Machine.execLhReadCount p s
  | .lhSetMode p => Sys2Proof.Machine.execLhSetMode p s
  | .lhEcho p => Sys2Proof.Machine.execLhEcho p s
  | .lhBadOpcode p => Sys2Proof.Machine.execLhBadOpcode p s
  | .ldpWord w => Sys2Proof.Machine.execLdpWord w s
  | .lgStartWin => Sys2Proof.Machine.execLgStartWin s
  | .bridgeRetry => Sys2Proof.Machine.execBridgeRetry s
  | .dmaDescFetch ch => Sys2Proof.Machine.execDmaDescFetch ch s
  | .dmaRequest line => Sys2Proof.Machine.execDmaRequest line s
  | .dmaSwreqWrite v => Sys2Proof.Machine.execDmaSwreqWrite v s
  | .dmaDescComplete ch => Sys2Proof.Machine.execDmaDescComplete ch s
  | .dmaHalf ch => Sys2Proof.Machine.execDmaHalf ch s
  | .dmaBusError ch host addr issued => Sys2Proof.Machine.execDmaBusError ch host addr issued s
  | .dmaAppendWrite ch w hi => Sys2Proof.Machine.execDmaAppendWrite ch w hi s
  | .evzJobEnd fault => Sys2Proof.Machine.execEvzJobEnd fault s
  | .ptpMessage p msg => Sys2Proof.Machine.execPtpMessage p msg s
  | .ptpTxTimer p kind => Sys2Proof.Machine.execPtpTxTimer p kind s
  | .ptpAnnounceTimeout p => Sys2Proof.Machine.execPtpAnnounceTimeout p s
  | .holdoverEnd => Sys2Proof.Machine.execHoldoverEnd s
  | .ethLink p up => Sys2Proof.Machine.execEthLink p up s
  | .ethFrameDrop p => Sys2Proof.Machine.execEthFrameDrop p s
  | .crewPosRx t pos speed flags seq => Sys2Proof.Machine.execCrewPosRx t pos speed flags seq s
  | .crewPosApply => Sys2Proof.Machine.execCrewPosApply s
  | .posRepeat => Sys2Proof.Machine.execPosRepeat s
  | .crewFlywheel => Sys2Proof.Machine.execCrewFlywheel s
  | .crewPosLoss => Sys2Proof.Machine.execCrewPosLoss s
  | .crewTimeTx => Sys2Proof.Machine.execCrewTimeTx s
  | .crewTimeRx t => Sys2Proof.Machine.execCrewTimeRx t s
  | .crewReskew p => Sys2Proof.Machine.execCrewReskew p s
  | .crewSkewRx p m => Sys2Proof.Machine.execCrewSkewRx p m s
  | .crewReskewTimeout p => Sys2Proof.Machine.execCrewReskewTimeout p s
  | .crewSeamRx right sigma fires vals => Sys2Proof.Machine.execCrewSeamRx right sigma fires vals s
  | .crewTokenReq seat req => Sys2Proof.Machine.execCrewTokenReq seat req s
  | .crewPrepare id seat req commons => Sys2Proof.Machine.execCrewPrepare id seat req commons s
  | .crewVote seat id vote => Sys2Proof.Machine.execCrewVote seat id vote s
  | .crewVoteTimeout seat => Sys2Proof.Machine.execCrewVoteTimeout seat s
  | .crewDecide id dec => Sys2Proof.Machine.execCrewDecide id dec s
  | .crewTokenApply => Sys2Proof.Machine.execCrewTokenApply s
  | .crewUmpTx => Sys2Proof.Machine.execCrewUmpTx s
  | .crewUmpRx seat safe faultN degraded => Sys2Proof.Machine.execCrewUmpRx seat safe faultN degraded s
  | .crewBulkRx p m crcOk => Sys2Proof.Machine.execCrewBulkRx p m crcOk s
  | .crewLinkDown p => Sys2Proof.Machine.execCrewLinkDown p s
  | .lockstepMismatch mech => Sys2Proof.Machine.execLockstepMismatch mech s
  | .coxDrained => Sys2Proof.Machine.execCoxDrained s
  | .coxResume => Sys2Proof.Machine.execCoxResume s
  | .ckptWrite => Sys2Proof.Machine.execCkptWrite s
  | .stbyTest ok => Sys2Proof.Machine.execStbyTest ok s
  | .umpireTmr lane => Sys2Proof.Machine.execUmpireTmr lane s
  | .umpireOsc dev => Sys2Proof.Machine.execUmpireOsc dev s
  | .logBlockClose => Sys2Proof.Machine.execLogBlockClose s
  | .logLost => Sys2Proof.Machine.execLogLost s
  | .replayRecord => Sys2Proof.Machine.execReplayRecord s
  | .perfSnap => Sys2Proof.Machine.execPerfSnap s
  | .tstCtrlWrite v errs => Sys2Proof.Machine.execTstCtrlWrite v errs s
  | .tapInstruction ir => Sys2Proof.Machine.execTapInstruction ir s
  | .powerOnReset mode => Sys2Proof.Machine.execPowerOnReset mode s
  | .rstNReset => Sys2Proof.Machine.execRstNReset s
  | .bootComplete okA okB okRec ver out badNibs badCoxes memBad => Sys2Proof.Machine.execBootComplete okA okB okRec ver out badNibs badCoxes memBad s
  | .bootGoWrite v sigOk => Sys2Proof.Machine.execBootGoWrite v sigOk s
  | .avsTick slack busOk => Sys2Proof.Machine.execAvsTick slack busOk s
  | .avsRetry ok => Sys2Proof.Machine.execAvsRetry ok s
  | .pllLoss d onB => Sys2Proof.Machine.execPllLoss d onB s
  | .refclkLoss => Sys2Proof.Machine.execRefclkLoss s
  | .refclkReturn => Sys2Proof.Machine.execRefclkReturn s
  | .ethRefclkLost => Sys2Proof.Machine.execEthRefclkLost s
  | .dtsSample vals => Sys2Proof.Machine.execDtsSample vals s
  | .dtsFail j => Sys2Proof.Machine.execDtsFail j s
  | .thermHotTick => Sys2Proof.Machine.execThermHotTick s
  | .boardTempReport g temps => Sys2Proof.Machine.execBoardTempReport g temps s
  | .boardTapRequest g arg => Sys2Proof.Machine.execBoardTapRequest g arg s
  | .boardReset g => Sys2Proof.Machine.execBoardReset g s
  | .plannedSwitchover => Sys2Proof.Machine.execPlannedSwitchover s
  | .retrainInterval c r => Sys2Proof.Machine.execRetrainInterval c r s
  | .powerDown => Sys2Proof.Machine.execPowerDown s
  | .trstNReset => Sys2Proof.Machine.execTrstNReset s
  | .lspReplyClock n => Sys2Proof.Machine.execLspReplyClock n s
  | .ldadrChange a => Sys2Proof.Machine.execLdadrChange a s

end Sys2Proof.Machine
end

