-- ==== Sys2Proof/Machine/Tick.lean ====
section
/-!
DEFINITION. One tick of the 400 MHz timebase (spec/17_time_and_crew.md R449): what happens with time alone. The step takes it on an
empty queue (DESIGN CHOICE, log entry 1).
-/

namespace Sys2Proof.Machine

/-- The performance counters of time (spec/19_observation_and_test.md R512): microseconds, those in which a nib was busy,
and the ticks of the umpire's 25 MHz oscillator (spec/18_fault_tolerance.md R474). -/
def Core.perfTime (c : Core) : Core :=
  let c := if c.now % 32 = 0 then c.perf 241 else c
  if c.now % usec = 0 then
    let c := (c.perf 240).each 18 fun n c => if (c.nib n).busy || (c.nib n).cur.isSome then c.perf (50 + n) else c
    { c with pipe := { c.pipe with nibs := c.pipe.nibs.map fun e => (e.1, { e.2 with busy := false }) } }
  else c

/-- What the core does in a tick of 2.5 ns: the 100 MHz clock counts at every fourth (spec/17_time_and_crew.md R448), a
flywheeling member extrapolates (R463), DRAM accesses that wait are offered again, counters count, and LOG_RATE is taken each second. -/
def Core.tick (c : Core) : Core :=
  let c := { c with now := c.now + 2 }
  if c.pwr.held ≠ 0 then c
  else
    let c := if c.now % 8 = 0 then c.timeTick else c
    let c := c.releaseHeld
    let c := (c.coast.tstTick.perfTime.tempsDue).logLostPost
    if c.now % sec = 0 then c.logSecond else c

/-- A tick of the block; the legacy bridge takes its words (spec/15_lh460_compatibility.md R406). -/
def State.tick (s : State) : State :=
  let t : State := { s with core := s.core.tick }
  if s.core.pwr.held ≠ 0 then t else t.ldpTick

end Sys2Proof.Machine
end

