-- ==== Sys2Proof/Machine/Frame.lean ====
section
/-!
DEFINITION. The terms in which frames are stated: what recording and reporting touch (the logbook, events, vectors, counters),
what taking a packet and replying to it touch, and that everything else is as it was.
-/

namespace Sys2Proof.Machine

/-- The registers that recording and reporting write: the LOG and PERF blocks, EV_TAIL and its drop counters, the MSI-X
pending bits, and the event store's pointers. -/
def logOff (off : Nat) : Bool :=
  (decide (0x120000 ≤ off) && decide (off < 0x140000)) || off == R.EV_TAIL || off == R.EV_DROP_CNT ||
    off == R.EV_DEFECT_DROP_CNT || off == R.UMP_EVS_LOST_CNT || off == R.UMP_EVS_WR ||
    (decide (0x13000 ≤ off) && decide (off < 0x13100))

/-- `d` differs from `c` by recording and reporting (the requester and class of the last memory access among it), and by
the registers at the offsets that `k` admits, alone. -/
structure Core.Keeps (k : Nat → Bool) (c d : Core) : Prop where
  ump : d.ump = c.ump
  heads : d.heads = c.heads
  test : d.test = c.test
  ts : d.ts = c.ts
  gateRx : d.gateRx = c.gateRx
  ticks : d.ticks = c.ticks
  lanes : d.lanes = c.lanes
  groups : d.groups = c.groups
  out : d.out = c.out
  now : d.now = c.now
  lastRead : d.lastRead = c.lastRead
  freeCtr : d.freeCtr = c.freeCtr
  encs : d.encs = c.encs
  web : d.web = c.web
  cmps : d.cmps = c.cmps
  bars : d.bars = c.bars
  job : d.job = c.job
  inks : d.inks = c.inks
  pipe : d.pipe = c.pipe
  pf : d.pf = c.pf
  crew : d.crew = c.crew
  cams : d.cams = c.cams
  lg : d.lg = c.lg
  dma : d.dma = c.dma
  rpl : d.rpl = c.rpl
  tst : d.tst = c.tst
  pwr : d.pwr = c.pwr
  clk : d.clk = c.clk
  mem : d.mem = { c.mem with dram := d.mem.dram, poison := d.mem.poison, last := d.mem.last, todo := d.mem.todo }
  hi : d.hi = { c.hi with host := d.hi.host, evUsed := d.hi.evUsed, evDropped := d.hi.evDropped, evUnsig := d.hi.evUnsig
                          evFirst := d.hi.evFirst, sent := d.hi.sent, lastPost := d.hi.lastPost }
  replay : d.log.replay = c.log.replay
  regs : ∀ off, k off = false → d.r off = c.r off
  posted : ∃ l, d.posted = l ++ c.posted

/-- `d` differs from `c` by recording and reporting alone. -/
abbrev Core.Quiet (c d : Core) : Prop := Core.Keeps logOff c d

/-- `d` differs from `c` by recording, reporting and the registers of a list alone. -/
abbrev Core.Only (l : List Nat) (c d : Core) : Prop := Core.Keeps (fun o => logOff o || l.contains o) c d

/-- The registers that taking a packet and replying to it write: those of recording and reporting, and the CMDQ block. -/
def calmOff (off : Nat) : Bool := logOff off || off / 0x10000 == 1

/-- `d` differs from `c` by recording, reporting (the requester and class of the last memory access among it), taking
packets and replying alone. -/
structure Core.Calm (c d : Core) : Prop where
  ump : d.ump = c.ump
  heads : d.heads = c.heads
  test : d.test = c.test
  ts : d.ts = c.ts
  gateRx : d.gateRx = c.gateRx
  ticks : d.ticks = c.ticks
  lanes : d.lanes = c.lanes
  groups : d.groups = c.groups
  out : d.out = c.out
  now : d.now = c.now
  lastRead : d.lastRead = c.lastRead
  freeCtr : d.freeCtr = c.freeCtr
  encs : d.encs = c.encs
  web : d.web = c.web
  cmps : d.cmps = c.cmps
  bars : d.bars = c.bars
  job : d.job = c.job
  inks : d.inks = c.inks
  pipe : d.pipe = c.pipe
  pf : d.pf = c.pf
  crew : d.crew = c.crew
  cams : d.cams = c.cams
  lg : d.lg = c.lg
  dma : d.dma = c.dma
  rpl : d.rpl = c.rpl
  tst : d.tst = c.tst
  pwr : d.pwr = c.pwr
  clk : d.clk = c.clk
  mem : d.mem = { c.mem with dram := d.mem.dram, poison := d.mem.poison, last := d.mem.last, todo := d.mem.todo }
  async : d.hi.async = c.hi.async
  waiting : d.hi.waiting = c.hi.waiting
  replay : d.log.replay = c.log.replay
  regs : ∀ off, calmOff off = false → d.r off = c.r off
  posted : ∃ l, d.posted = l ++ c.posted

end Sys2Proof.Machine
end

