-- ==== Sys2Proof/WellFormed.lean ====
section
/-!
DEFINITION. Well-formed commands: the operand bounds that the operand types do not already carry.
-/

namespace Sys2Proof

/-- A command packet carries 56 parameter bytes (spec/13_host_and_command_protocol.md R355). -/
def Packet.wf (p : Packet) : Bool := p.par.length == 56

end Sys2Proof
end

