-- ==== Sys2Proof/Certificates/Slice0/Obligations.lean ====
section
/-!
DEFINITION. The statements for the provers. A command completes in the terms of `Claims.Runs` (its next state differs from
the state in the core alone) or of `Claims.Does`; a frame is said by `Core.Only` and `Core.Calm` (Machine/Frame.lean).
-/

namespace Sys2Proof.Claims

open Sys2Proof.Machine

/-- `exec` answers a next state with the property. -/
def Does (i : Instr) (s : State) (P : State → Prop) : Prop := ∃ t, exec i s = .next t ∧ P t

/-- `exec` answers a next state that differs in the core alone (queue, head boards, legacy pins, request lines and test
access port are as they were), and the core has the property. -/
def Runs (i : Instr) (s : State) (P : Core → Prop) : Prop := ∃ d, exec i s = .next { s with core := d } ∧ P d

/-- Between two cores an event record of a code, source and data has been posted. -/
def Posts (c d : Core) (code src data : Nat) : Prop :=
  ∃ l e m, d.posted = l ++ e :: (m ++ c.posted) ∧ e.code = code ∧ e.src = src ∧ e.data = data % 2 ^ 32

/-- A register at an offset answers a write of the host: the device is not held, and the block answers in its state. -/
def Answers (c : Core) (off : Nat) : Prop := c.pwr.held = 0 ∧ c.blockAnswers off = true

/-- A register answers a write through a window: the window's requester is not isolated (spec/18_fault_tolerance.md R474). -/
def AnswersBy (c : Core) (w : Win) (off : Nat) : Prop := Answers c off ∧ c.winCut w = false

/-- The cox takes the packet, which no BARRIER holds back, and no check before the command's own rule refuses it. -/
def Accepts (c : Core) (op : Nat) (p : Packet) : Prop := c.mayStart p.flags.toNat = true ∧ c.refusal op p = none

/-- `exec` answers a next state: the core has the property, and then the derate generations that are due are formed (R303), which
leaves it as it is where none is due. -/
def RunsDerated (i : Instr) (s : State) (P : Core → Prop) : Prop :=
  Runs i s fun d => ∃ c, P c ∧ d = c.deratesDue ∧ (c.printing = false ∨ (∀ e ∈ c.heads, e.2.wantDerate = []) → d = c)

/-- The core has replied to the packet with a status and a RESULT: the journal's new entry. -/
def Replied (c d : Core) (op : Nat) (p : Packet) (st : Nat) (res : List Byte) : Prop :=
  ∃ e, d.hi.journal = c.hi.journal ++ [e] ∧ e.sq = p.sq.val ∧ e.seq = p.seq.toNat ∧ e.op = op ∧
    e.reply.getD 3 0 = BitVec.ofNat 8 st ∧ slice e.reply 4 8 = (res ++ List.replicate 8 0).take 8

end Sys2Proof.Claims

open Sys2Proof Sys2Proof.Machine Sys2Proof.Claims

/-! ### The step and the state -/

/-- A step with a command at the front of the queue is that command executed with the queue's rest. -/
def Obligations.StepRunsFront : Prop :=
  ∀ (i : Instr) (q : List Instr) (s : State), s.pending = i :: q → step s = exec i { s with pending := q }

/-- On an empty queue the timebase advances one tick, and the 100 MHz clock at every fourth adds TIME_INC (R448; the tick on
an empty queue is the model's choice, log entry 1), and LDACK_N shows whether a band is open (R406). -/
def Obligations.IdleTick : Prop :=
  ∀ s : State, s.pending = [] →
    (s.core.pwr.held ≠ 0 → step s = .next { s with core := { s.core with now := s.core.now + 2 } }) ∧
    (s.core.pwr.held = 0 → s.core.crewMember = false → s.core.fb F.LG_STAT_OWNER = false → s.core.lg.queue = [] →
      s.core.f F.TST_CTRL_IF = 0 → s.core.mem.held = [] → s.core.mem.todo = [] →
      (∀ n, n < 8 → s.leg.fifo n = []) →
      ∃ t, step s = .next t ∧ t.pending = [] ∧ t.boards = s.boards ∧ t.leg = { s.leg with ack := s.ldackNow } ∧
        t.core.now = s.core.now + 2 ∧
        t.core.clk.time =
          if (s.core.now + 2) % 8 = 0 then (s.core.clk.time + s.core.timeInc) % 2 ^ 96 else s.core.clk.time)

/-- After reset: BOOT, the clock FREE at 0 with an increment of 10 ns, every nozzle masked and every segment entry 0 (R163), no
submission queue enabled, nothing posted, no request and no word waiting, and the queue empty. -/
def Obligations.ResetState : Prop :=
  State.reset.core.st = stBoot ∧ State.reset.core.clk.time = 0 ∧ State.reset.core.timeState = 0 ∧
    State.reset.core.timeInc = 10 * 2 ^ 32 ∧
    (∀ n, Tab.get nzReset State.reset.core.job.shadow.nz n = 0xC0000000#32) ∧
    (∀ j, Tab.get (fun _ => (0 : Word)) State.reset.core.job.shadow.seg j = 0) ∧
    (∀ n, n < 8 → State.reset.core.fb (F.SQ_CFG_EN n) = false) ∧
    State.reset.core.posted = [] ∧ State.reset.reqs = [] ∧ State.reset.leg.fifos = [] ∧ State.reset.pending = []

/-- What every step keeps (R430, R406, R288): no request line counts beyond 16, no personality's FIFO holds more than 512
words, every head board is in one of the modes 0 to 2, and these tables are in canonical form. -/
def Sys2Proof.Claims.Bounded (s : State) : Prop :=
  (∀ l, Tab.get (fun _ => 0) s.reqs l ≤ 16) ∧ Tab.wf (fun _ => 0) s.reqs ∧
    (∀ n, (s.leg.fifo n).length ≤ 512) ∧ Tab.wf (fun _ => []) s.leg.fifos ∧
    (∀ g, (s.board g).mode ≤ 2) ∧ Tab.wf (fun _ => ({} : Board)) s.boards.tab

/-- The bounds hold after reset. -/
def Obligations.BoundedAtReset : Prop := Bounded State.reset

/-- Every step keeps the bounds. -/
def Obligations.BoundedKept : Prop := ∀ s t : State, Bounded s → step s = .next t → Bounded t

/-! ### Register accesses -/

/-- A write of a register without a row of its own changes its fields by their access types and nothing else (R4), here
through each window that may write it, for the blocks whose registers have no effect of their own. A 1 written to a reserved
field is counted first (`resvNote`: R5 in the model's reading, log entry 48). -/
def Sys2Proof.Claims.RegisterWritten : Prop :=
  ∀ (w : Win) (off : BitVec 21) (v : Word) (s : State) (r : RegRow),
    AnswersBy s.core w off.toNat → w ≠ .host2 → off.toNat % 4 = 0 → regRow off.toNat = some r → r.writes = true →
    [0, 4, 5, 6, 7, 8, 0xB, 0xE, 0x10, 0x11, 0x14].contains (off.toNat / 0x10000) = true →
    isLo off.toNat = false → isLo (off.toNat - 4) = false →
    let c := s.core.resvNote off.toNat v
    Runs (.registerWrite w off v) s fun d => Core.Quiet (c.setN off.toNat (r.write (c.n off.toNat) v.toNat)) d

/-- A write of a _LO word is staged in the window; the write of its _HI word then sets both words (R3, R550). -/
def Sys2Proof.Claims.WideRegisterWritten : Prop :=
  ∀ (w : Win) (off : BitVec 21) (v : Word) (s : State) (r rl : RegRow),
    AnswersBy s.core w off.toNat → w ≠ .host2 → off.toNat % 4 = 0 → regRow off.toNat = some r → r.writes = true →
    let c := s.core.resvNote off.toNat v
    (isLo off.toNat = true → Runs (.registerWrite w off v) s fun d => Core.Quiet (c.stage w off.toNat v) d) ∧
    ([4, 5, 6, 7, 8, 0xB, 0xE, 0x10].contains (off.toNat / 0x10000) = true → 4 ≤ off.toNat →
      isLo off.toNat = false → isLo (off.toNat - 4) = true → regRow (off.toNat - 4) = some rl →
      Runs (.registerWrite w off v) s fun d =>
        Core.Quiet (((c.stageUsed w (off.toNat - 4)).setN (off.toNat - 4)
          (rl.write (c.n (off.toNat - 4)) (c.lowOf w (off.toNat - 4)).toNat)).setN off.toNat
          (r.write (c.n off.toNat) v.toNat)) d)

/-- A read of a _LO word returns it and latches the high word in the requester's window (R550); a read of a clear-on-read
register by the host returns it and clears it, the cox's leaves it (R4, R551). -/
def Sys2Proof.Claims.RegisterRead : Prop :=
  ∀ (w : Win) (off : BitVec 21) (s : State) (reg : Nat),
    s.core.pwr.held = 0 → s.core.winCut w = false → s.core.readable w off.toNat = some reg →
    (isLo reg = true → Runs (.reg64LoRead w off) s fun d =>
      d = { s.core with
        lastRead := s.core.readWord w reg
        hi := { s.core.hi with
          rdLatch := Tab.set (fun _ => (0, 0)) s.core.hi.rdLatch (winIx w) (reg + 4, BitVec.ofNat 32 (s.core.view (reg + 4))) } }) ∧
    (∀ r, regRow reg = some r → r.flds.any (·.acc == .rc) = true → Runs (.rcRead w off) s fun d =>
      d.lastRead = s.core.readWord w reg ∧ d.n reg = (if w = .cox then s.core.n reg else 0) ∧
        Core.Only [reg] { s.core with lastRead := d.lastRead } d)

/-- Reads and writes of registers (R3, R4, R550, R551). -/
def Obligations.RegistersAccessed : Prop := Claims.RegisterWritten ∧ Claims.WideRegisterWritten ∧ Claims.RegisterRead

/-- A violation is counted and its address recorded; the access reads as zero (R5, R350). -/
def Obligations.ViolationCounted : Prop :=
  ∀ (bar : Bar) (off : BitVec 26) (write : Bool) (s : State), Runs (.accessViolation bar off write) s fun d =>
    d.r R.DEV_VIOL_CNT = s.core.r R.DEV_VIOL_CNT + 1 ∧
    d.n R.HI_VIOL_ADDR = off.toNat + barCode bar * 2 ^ 26 + b2n write * 2 ^ 28 ∧
    d.lastRead = (if write then s.core.lastRead else 0) ∧
    Core.Only [R.DEV_VIOL_CNT, R.HI_VIOL_ADDR] { s.core with lastRead := d.lastRead } d

/-- In BOOT only the DEV, CMDQ, UMPIRE and PWR/CLK blocks answer: every other access of BAR0 and every one of BAR2 and BAR4 is a
violation that changes nothing else; from IDLE on every block answers (R549). -/
def Obligations.BootBlocks : Prop :=
  ∀ s : State,
    let viol (i : Instr) (read : Bool) : Prop := Runs i s fun d =>
      d.r R.DEV_VIOL_CNT = s.core.r R.DEV_VIOL_CNT + 1 ∧
      d.lastRead = (if read then d.lastRead else s.core.lastRead) ∧
      Core.Only [R.DEV_VIOL_CNT, R.HI_VIOL_ADDR] { s.core with lastRead := d.lastRead } d
    (s.core.st = stBoot → s.core.pwr.held = 0 →
      (∀ (w : Win) (off : BitVec 21) (v : Word), s.core.winCut w = false → w = .host2 ∨ [0, 1, 0x11, 0x14].contains (off.toNat / 0x10000) = false →
        viol (.registerWrite w off v) false ∧
        (viol (.reg64LoRead w off) true ∧ Runs (.reg64LoRead w off) s fun d => d.lastRead = 0) ∧
        (viol (.rcRead w off) true ∧ Runs (.rcRead w off) s fun d => d.lastRead = 0)) ∧
      (∀ (off : BitVec 26) (v : Word), viol (.tableWrite off v) false) ∧
      (∀ (off : BitVec 26) (write : Bool) (data : List (Option Byte)), viol (.apertureAccess off write data) (!write))) ∧
    (∀ off, s.core.blockAnswers off = (s.core.st != stBoot || [0, 1, 0x11, 0x14].contains (off / 0x10000))) ∧
    (∀ (w : Win) (off : Nat), w ≠ .host2 → off % 4 = 0 → (regRow off).isSome = true →
      (s.core.st ≠ stBoot ∨ [0, 1, 0x11, 0x14].contains (off / 0x10000) = true) → s.core.readable w off = some off)

/-- A word written through the table windows sets the shadow's nozzle or segment entry while VIEW is clear, but for the reserved
bits 1 and 0 (R160, R162), where a 1 is counted (log entry 48), and is a violation while VIEW is set (R184). -/
def Sys2Proof.Claims.TableWritten : Prop :=
  ∀ (off : BitVec 26) (v : Word) (s : State), s.core.st ≠ stBoot → off.toNat % 4 = 0 → off.toNat < 0x820000 →
    (s.core.fb F.NZ_CFG_VIEW = false → Runs (.tableWrite off v) s fun d =>
      let t := s.core.job.shadow
      let w := BitVec.ofNat 32 (v.toNat / 4 * 4)
      let c := if v.toNat % 4 = 0 then s.core else s.core.violate .bar4 off.toNat true
      (∀ n, Tab.get nzReset d.job.shadow.nz n = if n * 4 = off.toNat ∧ off.toNat < 0x800000 then w else Tab.get nzReset t.nz n) ∧
      (∀ j, Tab.get (fun _ => (0 : Word)) d.job.shadow.seg j =
        if 0x800000 + j * 4 = off.toNat then w else Tab.get (fun _ => 0) t.seg j) ∧
      Core.Quiet { c with job := { s.core.job with shadow := { t with nz := d.job.shadow.nz, seg := d.job.shadow.seg } } } d) ∧
    (s.core.fb F.NZ_CFG_VIEW = true → Runs (.tableWrite off v) s fun d =>
      d.r R.DEV_VIOL_CNT = s.core.r R.DEV_VIOL_CNT + 1 ∧ Core.Only [R.DEV_VIOL_CNT, R.HI_VIOL_ADDR] s.core d)

/-- A whole burst written through the aperture is the DRAM's burst at HI_APERTURE + offset, and no other byte changes; a read
of the aperture returns the bytes, unmarked (R351). The requester is 56, of class BE (R325). -/
def Sys2Proof.Claims.ApertureReached : Prop :=
  ∀ (off : BitVec 26) (data : List Byte) (s : State),
    let pa := s.core.n64 R.HI_APERTURE_LO / 2 ^ 20 * 2 ^ 20 + (off.toNat - 0x2000000)
    0x2000000 ≤ off.toNat → s.core.st ≠ stBoot → s.core.mayReach pa data.length = true →
    (pa % 64 = 0 → data.length = 64 → Runs (.apertureAccess off true (data.map some)) s fun d =>
      d.rd pa 64 = some data ∧
      (∀ a, a < pa ∨ pa + 64 ≤ a → Tab.get (fun _ => (0 : Byte)) d.mem.dram a = Tab.get (fun _ => 0) s.core.mem.dram a) ∧
      d = { s.core with mem := { s.core.mem with dram := d.mem.dram, poison := d.mem.poison, last := some (56, .be), todo := d.mem.todo } }) ∧
    (∀ l, s.core.rd pa data.length = some l → Runs (.apertureAccess off false (data.map some)) s fun d =>
      d = { s.core with lastRead := ofLe l, mem := { s.core.mem with last := some (56, .be), todo := d.mem.todo }
                        hi := { s.core.hi with ep := false } })

/-- Below the DRAM aperture BAR4 shows the line store, read only, and the tables, one aligned DWORD at a time (R24, R350); every other
access there is a violation (R5). -/
def Sys2Proof.Claims.WindowsReached : Prop :=
  ∀ (off : BitVec 26) (data : List (Option Byte)) (s : State), s.core.st ≠ stBoot →
    (0x1000000 ≤ off.toNat → off.toNat < 0x2000000 →
      (Runs (.apertureAccess off false data) s fun d => d = { s.core with
        lastRead := ofLe ((List.range data.length).map fun i => s.core.lineStoreByte (off.toNat - 0x1000000 + i)) }) ∧
      Runs (.apertureAccess off true data) s fun d => d.r R.DEV_VIOL_CNT = s.core.r R.DEV_VIOL_CNT + 1 ∧
        Core.Only [R.DEV_VIOL_CNT, R.HI_VIOL_ADDR] s.core d) ∧
    (off.toNat < 0x820000 → oneDword off.toNat data = true →
      (Runs (.apertureAccess off false data) s fun d => d = { s.core with lastRead := s.core.tableRead off.toNat }) ∧
      exec (.apertureAccess off true data) s = exec (.tableWrite off (BitVec.ofNat 32 (ofLe (data.map (·.getD 0))))) s) ∧
    (off.toNat < 0x1000000 → ¬ (off.toNat < 0x820000 ∧ oneDword off.toNat data = true) → ∀ write,
      Runs (.apertureAccess off write data) s fun d => d.r R.DEV_VIOL_CNT = s.core.r R.DEV_VIOL_CNT + 1 ∧
        d.lastRead = (if write then s.core.lastRead else 0) ∧
        Core.Only [R.DEV_VIOL_CNT, R.HI_VIOL_ADDR] { s.core with lastRead := d.lastRead } d)

/-- Writes through the table windows and accesses through BAR4 (R184, R350, R351). -/
def Obligations.TablesReached : Prop := Claims.TableWritten ∧ Claims.ApertureReached ∧ Claims.WindowsReached

/-! ### Encoders and the web position -/

/-- What a count does to a port (R39, R41): nothing where the port is off or the levels stand; an illegal transition leaves
count and position; a count of an axis port moves count and position by its sign. -/
def Obligations.EncoderCounts : Prop :=
  ∀ (n : Fin 4) (a b : Bool) (s : State),
    let u := s.core.enc n
    let step := (quad a b + 4 - quad u.a u.b) % 4
    let neg := (step == 3) != s.core.fb (F.ENC_CFG_INVERT n)
    let sgn : Int := if neg then -1 else 1
    (s.core.encOn n = false ∨ step = 0 → Runs (.encCount n a b) s fun d => d = s.core.setEnc n { u with a := a, b := b }) ∧
    (s.core.encOn n = true → step = 2 → 2 ≤ n.val ∨ s.core.f F.WEB_ILL_FAULT_N = 0 → Runs (.encCount n a b) s fun d =>
      d.r (R.ENC_ILLEGAL_CNT n) = s.core.r (R.ENC_ILLEGAL_CNT n) + 1 ∧ d.fb (F.ENC_STATUS_ILLEGAL n) = true ∧
      (d.enc n).count = u.count ∧ (d.enc n).pos = u.pos ∧ (∀ m, m ≠ n.val → d.enc m = s.core.enc m) ∧
      Core.Only [R.ENC_ILLEGAL_CNT n, R.ENC_STATUS n] { s.core with encs := d.encs } d) ∧
    (s.core.encOn n = true → step = 1 ∨ step = 3 → 2 ≤ n.val → Runs (.encCount n a b) s fun d =>
      (d.enc n).count = u.count + sgn ∧ (d.enc n).pos = u.pos + sgn * (corrStep u).1 * u.scale ∧
      d.fb (F.ENC_STATUS_DIR n) = neg ∧ d.fb (F.ENC_STATUS_STANDSTILL n) = false ∧ d.n (R.ENC_LAST_EDGE n) = s.core.edgeT32 ∧
      (∀ m, m ≠ n.val → d.enc m = s.core.enc m) ∧
      d.web = s.core.web ∧ d.job = s.core.job ∧ d.bars = s.core.bars ∧ d.heads = s.core.heads ∧ d.pipe = s.core.pipe)

/-- WEB_POS moves with the counts of the active source (R50): here while no stroke boundary, compare target, pending line or
tracking hangs on the count. -/
def Obligations.WebFollowsSource : Prop :=
  ∀ (n : Fin 2) (a b : Bool) (s : State),
    let u := s.core.enc n
    let step := (quad a b + 4 - quad u.a u.b) % 4
    let sgn : Int := if (step == 3) != s.core.fb (F.ENC_CFG_INVERT n) then -1 else 1
    let x := s.core.webPosRaw + sgn * (corrStep u).1 * u.scale
    s.core.encOn n = true → step = 1 ∨ step = 3 → s.core.f F.WEB_SRC_ACTIVE = n.val → s.core.fb F.WEB_SRC_LOST = false →
    s.core.fb F.CREW_STAT_FORMED = false → s.core.fb F.WEB_CTRL_ENC1_TRACK_EN = false → s.core.web.switchBack = false →
    (∀ t, u.lastCount = some t → t + 16 ≤ s.core.now) → (∀ m, m < 16 → s.core.fb (F.CMP_CFG_EN m) = false) →
    (∀ m, m < 16 → (s.core.bar m).pend = []) → s.core.web.pitch = 0 ∨
      (if s.core.web.rev then s.core.web.bNext < x else x < s.core.web.bNext) →
    Runs (.encCount (n.castLE (by decide)) a b) s fun d =>
      d.webPosRaw = x ∧ (d.enc n).count = u.count + sgn ∧ d.web.s = s.core.web.s ∧ d.web.bNext = s.core.web.bNext ∧
      d.job = s.core.job ∧ d.heads = s.core.heads ∧ d.pipe = s.core.pipe ∧ (∀ m, m ≠ n.val → d.enc m = s.core.enc m)

/-- The index (R45, R46, R48): the first one only starts an interval; an error beyond the tolerance is flagged, reported with
INDEX_ERR, and corrects nothing; a missing one is flagged and reported once. -/
def Sys2Proof.Claims.IndexChecked : Prop :=
  ∀ (n : Fin 4) (s : State),
    let u := s.core.enc n
    let exp := s.core.n (R.ENC_INDEX_EXP n)
    let err : Int := (u.sinceIdx.natAbs : Int) - exp
    s.core.encOn n = true → s.core.fb (F.ENC_CFG_Z_EN n) = true →
    (b2n u.a * 2 + b2n u.b = s.core.f (F.ENC_CFG_Z_GATE n) →
      (u.idxValid = false → Runs (.encIndex n) s fun d =>
        d.fb (F.ENC_STATUS_INDEX_SEEN n) = true ∧ (d.enc n).idxValid = true ∧ (d.enc n).sinceIdx = 0 ∧
        (d.enc n).corr = u.corr ∧ (d.enc n).pos = u.pos ∧ Core.Only [R.ENC_STATUS n] { s.core with encs := d.encs } d) ∧
      (u.idxValid = true → u.idxTurn = false → exp ≠ 0 → s.core.f (F.ENC_INDEX_TOL_TOL n) < err.natAbs →
        s.core.fb (F.ENC_CFG_IDX_FAULT n) = false → Runs (.encIndex n) s fun d =>
        d.r (R.ENC_INDEX_ERR n) = BitVec.ofInt 32 err ∧ d.fb (F.ENC_STATUS_INDEX_SEEN n) = true ∧
        d.fb (F.ENC_STATUS_INDEX_ERR n) = true ∧ Posts s.core d 0x0104 n (wrap 32 err) ∧
        (d.enc n).corr = u.corr ∧ (d.enc n).pos = u.pos ∧
        Core.Only [R.ENC_STATUS n, R.ENC_INDEX_ERR n] { s.core with encs := d.encs } d)) ∧
    (exp ≠ 0 → u.missed = false → 3 * exp ≤ 2 * u.monotone → Runs (.encIndexMissing n) s fun d =>
      d.fb (F.ENC_STATUS_INDEX_MISSING n) = true ∧ Posts s.core d 0x0105 n u.sinceIdx.natAbs ∧ (d.enc n).missed = true ∧
      Core.Only [R.ENC_STATUS n] { s.core with encs := d.encs } d)

/-- Signal faults of an axis port set their flags and are reported; the flags clear when the signals return (R38, R44). -/
def Sys2Proof.Claims.SignalFaults : Prop :=
  ∀ (n : Fin 4) (onB : Bool) (radius : BitVec 16) (s : State),
    (s.core.encOn n = true → 2 ≤ n.val → s.core.fb (F.ENC_STATUS_LOS n) = false → Runs (.encLos n onB) s fun d =>
      d.fb (F.ENC_STATUS_LOS n) = true ∧ Posts s.core d 0x0101 n (b2n onB) ∧ Core.Only [R.ENC_STATUS n] s.core d) ∧
    (s.core.fb (F.ENC_STATUS_LOS n) = true → Runs (.encLosClear n) s fun d =>
      d = (s.core.setB (F.ENC_STATUS_LOS n) false).setEnc n { s.core.enc n with cleanSince := s.core.now }) ∧
    (s.core.encOn n = true → 2 ≤ n.val → s.core.f (F.ENC_CFG_MODE n) = 1 → s.core.fb (F.ENC_STATUS_AMP_FAULT n) = false →
      radius.toNat < s.core.f (F.ENC_AMP_AMP_LO n) ∨ s.core.f (F.ENC_AMP_AMP_HI n) < radius.toNat →
      Runs (.encAmpFault n radius) s fun d =>
        d.fb (F.ENC_STATUS_AMP_FAULT n) = true ∧ Posts s.core d 0x0102 n radius.toNat ∧ Core.Only [R.ENC_STATUS n] s.core d) ∧
    (s.core.fb (F.ENC_STATUS_AMP_FAULT n) = true → Runs (.encAmpClear n) s fun d =>
      d = (s.core.setB (F.ENC_STATUS_AMP_FAULT n) false).setEnc n { s.core.enc n with cleanSince := s.core.now })

/-- The faults that an axis port or a checked index shows (R38, R44-R46, R48). -/
def Obligations.EncoderFaults : Prop := Claims.IndexChecked ∧ Claims.SignalFaults

/-- A fault on ENC1 while ENC0 is active posts 0x0109 with DATA[31] set and stops tracking; the source stays (R65), and HEALTH follows
where no switch-over holds it (R486). So for every cause, and for the loss of signal and the amplitude fault that raise it. -/
def Obligations.StandbyLost : Prop :=
  ∀ s : State, s.core.f F.WEB_SRC_ACTIVE = 0 → s.core.ownWeb = true → s.core.fb (F.ENC_STATUS_FAULTED 1) = false →
    (∀ cause, cause < 2 ^ 31 →
      let d := s.core.encFault 1 cause
      Posts s.core d 0x0109 1 (2 ^ 31 + cause) ∧ d.web = { s.core.web with tracking := false } ∧
      d.f F.WEB_SRC_ACTIVE = 0 ∧
      (s.core.ump.starting = [] → s.core.fb F.COX_EPOCH_SWITCHING = false → d.f F.UMP_STAT_HEALTH = d.healthNow) ∧
      Core.Only [R.ENC_STATUS 1, R.UMP_STAT] { s.core with web := d.web } d) ∧
    (∀ onB, s.core.encOn 1 = true → s.core.fb (F.ENC_STATUS_LOS 1) = false → Runs (.encLos 1 onB) s fun d =>
      Posts s.core d 0x0109 1 (2 ^ 31 + 1) ∧ d.web = { s.core.web with tracking := false } ∧ d.f F.WEB_SRC_ACTIVE = 0 ∧
      d.fb (F.ENC_STATUS_FAULTED 1) = true) ∧
    (∀ radius : BitVec 16, s.core.encOn 1 = true → s.core.fb (F.ENC_STATUS_AMP_FAULT 1) = false → s.core.f (F.ENC_CFG_MODE 1) = 1 →
      radius.toNat < s.core.f (F.ENC_AMP_AMP_LO 1) → Runs (.encAmpFault 1 radius) s fun d =>
        Posts s.core d 0x0109 1 (2 ^ 31 + 2) ∧ d.web = { s.core.web with tracking := false } ∧ d.f F.WEB_SRC_ACTIVE = 0 ∧
        d.fb (F.ENC_STATUS_FAULTED 1) = true)

/-- The loss of ENC0 with no tracking encoder loses the web: the position freezes, FAULT_N asserts and the device enters SAFE
(R64, R487). -/
def Sys2Proof.Claims.WebLost : Prop :=
  ∀ (onB : Bool) (s : State), s.core.f F.WEB_SRC_ACTIVE = 0 → s.core.ownWeb = true → s.core.fb F.WEB_SRC_LOST = false →
    s.core.encOn 0 = true → s.core.fb (F.ENC_STATUS_LOS 0) = false → s.core.fb (F.ENC_STATUS_FAULTED 0) = false →
    s.core.web.tracking = false → s.core.st ≠ stBoot →
    Runs (.encLos 0 onB) s fun d =>
      d.fb F.WEB_SRC_LOST = true ∧ d.web.lostPos = s.core.webPosRaw ∧ d.webPosRaw = s.core.webPosRaw ∧
      d.ump.faultN = true ∧ d.st = stSafe ∧ Posts s.core d 0x010E (31 + 0x8000) 0xFFFFFFFF

/-- Speed falls between counts to the scale over the time since the last one, and is zero at standstill (R55, R56), which may end an
excursion above WEB_SPEED_MAX (R58) and withdraws predictions at speed zero (R83); the device leaves PRINTING for HOLD when the web
stands still and no abort is under way (R57). -/
def Sys2Proof.Claims.SpeedFalls : Prop :=
  ∀ (n : Fin 4) (s : State) (t : Nat), (s.core.enc n).lastCount = some t →
    let u := s.core.enc n
    let v := s.core.i (R.ENC_SPEED n)
    let w := u.scale * 4 / (5 * 65536 * (s.core.now - t))
    let web (d : Core) : Web := { s.core.web with overPosted := d.web.overPosted }
    (t < s.core.now → w < v.natAbs → Runs (.encSpeedDecay n) s fun d =>
      d.r (R.ENC_SPEED n) = BitVec.ofInt 32 (if v < 0 then -(w : Int) else w) ∧ d.encs = s.core.encs ∧
      (s.core.isSource n = true → (d.i R.WEB_SPEED).natAbs ≤ s.core.i R.WEB_SPEED_MAX → d.web.overPosted = false) ∧
      (w ≠ 0 → d.bars = s.core.bars) ∧
      Core.Only [R.ENC_SPEED n, R.WEB_SPEED] { s.core with web := web d, bars := d.bars } d) ∧
    (t + max 10 (min 10000000 (s.core.f (F.ENC_STANDSTILL_TIMEOUT n))) * usec ≤ s.core.now →
      s.core.encOn n = true → s.core.fb (F.ENC_STATUS_STANDSTILL n) = false →
      (s.core.st ≠ stPrinting ∨ s.core.isSource n = false → Runs (.encStandstill n) s fun d =>
        d.r (R.ENC_SPEED n) = 0 ∧ d.fb (F.ENC_STATUS_STANDSTILL n) = true ∧ Posts s.core d 0x0107 n 0 ∧
        (d.enc n).pos = u.pos ∧ (d.enc n).count = u.count ∧
        (∀ b, b < 16 → (d.bar b).pend.map PendLine.line = (s.core.bar b).pend.map PendLine.line) ∧
        Core.Only [R.ENC_SPEED n, R.WEB_SPEED, R.ENC_STATUS n] { s.core with encs := d.encs, web := web d, bars := d.bars } d) ∧
      (s.core.st = stPrinting → s.core.isSource n = true → s.core.job.aborting = false → Runs (.encStandstill n) s fun d =>
        d.r (R.ENC_SPEED n) = 0 ∧ d.r R.WEB_SPEED = 0 ∧ d.fb (F.ENC_STATUS_STANDSTILL n) = true ∧ d.st = stHold ∧
        d.web = web d ∧ d.job = s.core.job))

/-- The web lost, and the web at a standstill (R55-R57, R64, R487). -/
def Obligations.WebStops : Prop := Claims.WebLost ∧ Claims.SpeedFalls

/-! ### Compare channels -/

/-- A periodic channel whose interval is below twice its source's scale sets CFG_ERR and does not arm (R73). -/
def Obligations.ShortIntervalRefused : Prop :=
  ∀ (m : Fin 16) (w : Win) (hi : Word) (s : State), AnswersBy s.core w (R.CMP_TARGET_HI m) → s.core.f (F.CMP_CFG_MODE m) = 1 →
    s.core.f (F.CMP_CFG_SRC m) ≠ 3 → s.core.n (R.CMP_INTERVAL m) * 2 ^ 32 < 2 * (s.core.enc (s.core.cmpPort m)).scale →
    Runs (.cmpTargetWrite m w hi) s fun d =>
      d.fb (F.CMP_STATUS_CFG_ERR m) = true ∧ d.fb (F.CMP_STATUS_ARMED m) = s.core.fb (F.CMP_STATUS_ARMED m) ∧
      d.cmp m = s.core.cmp m

/-- The channels' commands (R67, R68, R70, R72, R75): a one-shot target arms, is reached where it equals the position of an enabled
channel, or is missed where it lies behind it; a full FIFO drops; disabling holds the targets and ends the pulse; a predicted crossing fires; a pulse ends. -/
def Obligations.CompareChannels : Prop :=
  ∀ (m : Fin 16) (s : State),
    (∀ (w : Win) (hi : Word), AnswersBy s.core w (R.CMP_TARGET_HI m) → s.core.f (F.CMP_CFG_SRC m) ≠ 3 →
      let t := sext 64 ((s.core.lowOf w (R.CMP_TARGET_LO m)).toNat + hi.toNat * 2 ^ 32)
      (s.core.f (F.CMP_CFG_MODE m) = 0 →
        s.core.fb (F.CMP_CFG_EN m) = false ∨ (s.core.cmpBehind m t = false ∧ t * p32 ≠ s.core.cmpPos m) →
        Runs (.cmpTargetWrite m w hi) s fun d => d.fb (F.CMP_STATUS_ARMED m) = true ∧ (d.cmp m).target = t ∧
          d.fb (F.CMP_STATUS_CFG_ERR m) = false ∧
          Core.Only [R.CMP_TARGET_LO m, R.CMP_TARGET_HI m, R.CMP_STATUS m] { s.core with cmps := d.cmps, hi := d.hi } d) ∧
      (s.core.f (F.CMP_CFG_MODE m) = 0 → s.core.fb (F.CMP_CFG_EN m) = true → t * p32 = s.core.cmpPos m →
        s.core.st ≠ stSafe → s.core.muted = false → s.core.fb (F.CMP_STATUS_ACTIVE m) = false →
        Runs (.cmpTargetWrite m w hi) s fun d => d.fb (F.CMP_STATUS_ACTIVE m) = true ∧ d.fb (F.CMP_STATUS_ARMED m) = false ∧
          d.n (R.CMP_LAST_T32 m) = s.core.t32 ∧ d.r (R.CMP_PULSES m) = s.core.r (R.CMP_PULSES m) + 1) ∧
      (s.core.f (F.CMP_CFG_MODE m) = 0 → s.core.fb (F.CMP_CFG_EN m) = true → s.core.cmpBehind m t = true →
        s.core.fb (F.CMP_CFG_LATE_FIRE m) = false →
        Runs (.cmpTargetWrite m w hi) s fun d => d.fb (F.CMP_STATUS_MISSED m) = true ∧ d.fb (F.CMP_STATUS_ARMED m) = false ∧
          Posts s.core d 0x0110 (16 + m) (wrap 32 t) ∧ d.cams = s.core.cams ∧
          d.r (R.CMP_PULSES m) = s.core.r (R.CMP_PULSES m)) ∧
      (s.core.f (F.CMP_CFG_MODE m) = 2 → 16 ≤ (s.core.cmp m).queue.length →
        Runs (.cmpTargetWrite m w hi) s fun d => d.fb (F.CMP_STATUS_FIFO_OVF m) = true ∧ d.cmp m = s.core.cmp m ∧
          Posts s.core d 0x0112 (16 + m) (wrap 32 t))) ∧
    (∀ v : Word, Answers s.core (R.CMP_CFG m) →
      (v &&& 1 = 0 → (v >>> 1) &&& 3 ≠ 3 → (v >>> 3) &&& 3 ≠ 3 → (v >>> 3) &&& 3 ≠ 2 → Runs (.cmpCfgWrite m v) s fun d =>
        d.r (R.CMP_CFG m) = v &&& 0x7FF ∧ d.fb (F.CMP_STATUS_ACTIVE m) = false ∧
        (d.cmp m).target = (s.core.cmp m).target ∧ (d.cmp m).queue = (s.core.cmp m).queue ∧
        d.fb (F.CMP_STATUS_ARMED m) = s.core.fb (F.CMP_STATUS_ARMED m))) ∧
    (∀ t, (s.core.cmp m).predicted = some t → t ≤ s.core.now → s.core.f (F.CMP_CFG_MODE m) = 0 →
      s.core.st ≠ stSafe → s.core.muted = false → s.core.fb (F.CMP_STATUS_ACTIVE m) = false →
      Runs (.cmpInterpFire m) s fun d => d.fb (F.CMP_STATUS_ACTIVE m) = true ∧ d.fb (F.CMP_STATUS_ARMED m) = false ∧
        (d.cmp m).pulseEnd = s.core.now + 2 * max 4 (min 400000 (s.core.f (F.CMP_WIDTH_WIDTH m))) ∧
        d.n (R.CMP_LAST_T32 m) = s.core.t32 ∧ d.r (R.CMP_PULSES m) = s.core.r (R.CMP_PULSES m) + 1) ∧
    (s.core.fb (F.CMP_STATUS_ACTIVE m) = true → (s.core.cmp m).pulseEnd ≤ s.core.now → Runs (.cmpPulseEnd m) s fun d =>
      d = s.core.setB (F.CMP_STATUS_ACTIVE m) false)

/-! ### The fire unit -/

/-- The edge of a bar's oldest pending line falls due at its predicted instant (R79, R81): it issues (R85), is blocked while the
watchdog is latched (R101), or is skipped where it comes too soon (R96, R97). -/
def Sys2Proof.Claims.FireEdges : Prop :=
  ∀ (b : Fin 16) (s : State) (p : PendLine) (rest : List PendLine) (t : Nat),
    (s.core.bar b).pend = p :: rest → p.pred = some t → t ≤ s.core.now → s.core.printing = true →
    let u := s.core.bar b
    (s.core.latched b = false → u.fresh = true ∨ s.core.tooSoon b p.line = false → s.core.muted = false →
      Runs (.fireEdge b) s fun d => (d.bar b).active = true ∧
        (d.bar b).activeSince = (if u.active then u.activeSince else s.core.now) ∧
        (d.bar b).lastEdge = some s.core.now ∧ (d.bar b).curLine = p.line ∧ (d.bar b).width = s.core.fireWidth b p.line ∧
        (d.bar b).pend = (p :: rest).filter (·.s ≠ p.s) ∧
        d.r (R.FIRE_FIRED_CNT b) = s.core.r (R.FIRE_FIRED_CNT b) + 1 ∧ d.n (R.FIRE_LAST_T32 b) = s.core.t32 ∧
        d.web = s.core.web ∧ d.job = s.core.job ∧ ∀ m, m ≠ b.val → d.bar m = s.core.bar m) ∧
    (s.core.latched b = true → Runs (.fireEdge b) s fun d =>
        d.r (R.FIRE_BLOCK_CNT b) = s.core.r (R.FIRE_BLOCK_CNT b) + 1 ∧ (d.bar b).active = u.active ∧
        (d.bar b).blockedCnt = u.blockedCnt + 1 ∧ (d.bar b).lastEdge = u.lastEdge ∧
        Core.Only [R.FIRE_BLOCK_CNT b, R.FIRE_STATUS b]
          { s.core with bars := d.bars, pf := { s.core.pf with bad := d.pf.bad } } d ∧
        ∀ m, m ≠ b.val → d.bar m = s.core.bar m) ∧
    (s.core.latched b = false → u.fresh = false → s.core.tooSoon b p.line = true → Runs (.fireEdge b) s fun d =>
        d.r (R.FIRE_SKIP_CNT b) = s.core.r (R.FIRE_SKIP_CNT b) + 1 ∧ (d.bar b).active = u.active ∧
        (d.bar b).lastEdge = u.lastEdge ∧ (∃ data, Posts s.core d 0x0203 (b + 0x8000) data) ∧
        d.r (R.FIRE_FIRED_CNT b) = s.core.r (R.FIRE_FIRED_CNT b) ∧ d.web = s.core.web ∧ d.job = s.core.job)

/-- A pulse ends after its width, unless the generator sticks (R85, R100); SLOW_REQ falls once the ratios have stayed low for
1 ms (R98). -/
def Sys2Proof.Claims.PulseAndSlowEnd : Prop :=
  ∀ s : State,
    (∀ (b : Fin 16) (stuck : Bool), (s.core.bar b).active = true →
      (s.core.bar b).lastEdge.getD 0 + (s.core.bar b).width ≤ s.core.now →
      Runs (.firePulseEnd b stuck) s fun d =>
        d = s.core.setBar b { s.core.bar b with active := stuck, genStuck := stuck }) ∧
    (∀ t, s.core.web.slowLow = some t → t + msec ≤ s.core.now → s.core.fb F.FIRE_SLOW_STAT_SLOW_REQ = true →
      Runs .slowReqOff s fun d => d.fb F.FIRE_SLOW_STAT_SLOW_REQ = false ∧ Posts s.core d 0x0202 31 0 ∧
        Core.Only [R.FIRE_SLOW_STAT] s.core d)

/-- Fire edges, the ends of pulses and of the slow request. -/
def Obligations.FireEdgesTaken : Prop := Claims.FireEdges ∧ Claims.PulseAndSlowEnd

/-- In ARMED, PRINTING, HOLD and REPLAY the watchdog runs whatever WD_EN holds, and a write of FIRE_WD_b has no effect (R103), but
that a 1 in its reserved bits is counted (`resvNote`, R5). -/
def Obligations.WatchdogRuns : Prop :=
  ∀ (b : Fin 16) (s : State), [stArmed, stPrinting, stHold, stReplay].contains s.core.devState = true →
    s.core.wdRuns = true ∧
    ((s.core.bar b).active = true → (s.core.bar b).activeSince + s.core.wdLimit b ≤ s.core.now →
      Runs (.wdTrip b) s fun d => d.latched b = true ∧ (d.bar b).active = false) ∧
    (∀ (w : Win) (v : Word), AnswersBy s.core w (R.FIRE_WD b) → w ≠ .host2 →
      Runs (.registerWrite w (BitVec.ofNat 21 (R.FIRE_WD b)) v) s fun d => Core.Quiet (s.core.resvNote (R.FIRE_WD b) v) d)

/-- A watchdog that acts forces the output inactive, latches, and reports: UMP_DECISION with MECH 7, CLASS 5 and the bar, no
count, and defect record 0x0204 (R100). -/
def Sys2Proof.Claims.WatchdogTrips : Prop :=
  ∀ (b : Fin 16) (s : State), (s.core.bar b).active = true → s.core.wdRuns = true →
    (s.core.bar b).activeSince + s.core.wdLimit b ≤ s.core.now →
    Runs (.wdTrip b) s fun d => (d.bar b).active = false ∧ d.latched b = true ∧
      d.n R.UMP_DECISION = 7 + 5 * 256 + b * 65536 ∧ d.r R.UMP_DECISION_CNT = s.core.r R.UMP_DECISION_CNT ∧
      (∃ data, Posts s.core d 0x0204 (b + 0x8000) data) ∧ d.web = s.core.web ∧ d.job = s.core.job ∧
      ∀ m, m ≠ b.val → d.bar m = s.core.bar m

/-- A write of FIRE_WD_CLEAR clears the latches named whose generators are inactive, with the count of blocked lines in
0x0206; the others stay (R102). -/
def Sys2Proof.Claims.WatchdogCleared : Prop :=
  ∀ (v : Word) (s : State), Answers s.core R.FIRE_WD_CLEAR → Runs (.wdClearWrite v) s fun d =>
    (∀ b, b < 16 → d.latched b = (s.core.latched b && (!bit v.toNat b || (s.core.bar b).genStuck))) ∧
    (∀ b, b < 16 → bit v.toNat b = true → s.core.latched b = true → (s.core.bar b).genStuck = false →
      Posts s.core d 0x0206 b (s.core.bar b).blockedCnt) ∧
    d.web = s.core.web ∧ d.job = s.core.job ∧ d.heads = s.core.heads

/-- The fire watchdog trips, and is cleared. -/
def Obligations.WatchdogActs : Prop := Claims.WatchdogTrips ∧ Claims.WatchdogCleared

/-- A group's inactive bank, once it is free, takes the trims that wait first; outside a job it is in use at once, in one from stroke
L_c + D_b (R92, R93). -/
def Sys2Proof.Claims.TrimBankLoaded : Prop :=
  ∀ (g : Fin 64) (s : State) (le : Nat) (rest : List Nat), (s.core.group g).want = le :: rest → s.core.bankFree g = true →
    let u := s.core.group g
    let gen := s.core.trimGen le
    Runs (.trimBankLoad g) s fun d =>
      (∀ j, j < 512 → Tab.get (fun _ => 0) (d.group g).trims ((1 - u.bank) * 512 + j) = gen.trimEntry g j) ∧
      (d.group g).want = rest ∧
      (if s.core.job.tof then (d.group g).bank = u.bank ∧
          (d.group g).next = some (le + (s.core.bar ((gen.groupBar g).getD 0)).d).toNat
        else (d.group g).bank = 1 - u.bank) ∧
      d = { s.core with groups := d.groups, out := d.out } ∧ ∀ h, h ≠ g.val → d.group h = s.core.group h

/-- A tick of the test generator fires the next line of a pattern or a spit on the selected bars, but on one whose previous pulse or
the 40 ns after it still runs (R86); the last line ends the test, as a stop does, with the count of the lines fired on some bar (R104,
R105). A spit of no lines ends at its first tick (log entry 50). -/
def Sys2Proof.Claims.TestLines : Prop :=
  ∀ (gates : List GateSamples) (s : State) (t : TestRun), s.core.test = some t → t.mode ≠ 1 → t.next ≤ s.core.now →
    s.core.lg.spit = none →
    let code := if t.mode = 2 then 0x0209 else 0x0208
    (t.stop = true → Runs (.testTick gates) s fun d => d.test = none ∧ Posts s.core d 0x020A 31 t.lit ∧
      d.fb F.FIRE_TEST_STAT_RUNNING = false ∧ d.bars = s.core.bars) ∧
    (t.stop = false → t.mode ≠ 2 ∨ t.lines ≠ 0 → Runs (.testTick gates) s fun d =>
      let lit := t.lit + b2n (s.core.testLit t)
      d.web = s.core.web ∧ d.f F.FIRE_TEST_STAT_LINES = lit % 2 ^ 24 ∧
      (if t.fired + 1 < t.lines then
        ∃ u, d.test = some u ∧ u.fired = t.fired + 1 ∧ u.lit = lit ∧ u.next = t.start + (t.fired + 1) * t.period * 4 / 5
        else d.test = none ∧ Posts s.core d code 31 lit) ∧
      ∀ b, b < 16 → s.core.muted = false →
        if s.core.testFires t b = true ∧ s.core.pulseNear b = false then
          (d.bar b).active = true ∧ (d.bar b).lastEdge = some s.core.now
        else d.bar b = s.core.bar b) ∧
    (t.stop = false → t.mode = 2 → t.lines = 0 → Runs (.testTick gates) s fun d => d.test = none ∧
      Posts s.core d 0x0209 31 t.lit ∧ d.bars = s.core.bars)

/-- The trim banks, and the lines of the fire test. -/
def Obligations.TrimsAndTests : Prop := Claims.TrimBankLoaded ∧ Claims.TestLines

/-! ### Nibs, coxes and the umpire -/

/-- A fault of a hot spare, or a missed heartbeat of one, isolates it: OPEN, out of the spares, with the decision recorded and
counted and 0x0D01 (R205, R476). -/
def Sys2Proof.Claims.SpareIsolated : Prop :=
  ∀ (n : Fin 18) (mech : BitVec 8) (s : State) (i : Instr), s.core.nibState n = 0 →
    i = .nibFault n mech ∨ (i = .nibHeartbeatMiss false n ∧ mech = 3) →
    Runs i s fun d => d.nibState n = 3 ∧ d.f (F.NIBN_STAT_SLICE n) = 31 ∧ bit (d.f F.UMP_ISOL_NIB_NIB) n = true ∧
      d.n R.UMP_DECISION = mech.toNat + n * 65536 ∧ d.r R.UMP_DECISION_CNT = s.core.r R.UMP_DECISION_CNT + 1 ∧
      Posts s.core d 0x0D01 31 (mech.toNat * 65536 + n) ∧ (∀ m, m < 18 → m ≠ n.val → d.nibState m = s.core.nibState m) ∧
      d.web = s.core.web ∧ d.job = s.core.job ∧ d.heads = s.core.heads ∧ d.bars = s.core.bars ∧ d.st = s.core.st

/-- A spare that has passed its start steps takes the slice with 0x0409 and 0x0D02 (R480); what follows where other slices wait for
the end of the starts is R206's and R207's. -/
def Sys2Proof.Claims.SpareTakesSlice : Prop :=
  ∀ (n : Fin 18) (sl lost : Nat) (s : State), s.core.ump.starting.find? (fun x => x.1 = n.val) = some (n.val, sl, lost) → sl < 32 →
    Runs (.spareStartDone n true) s fun d =>
      Posts s.core d 0x0409 n (sl * 256 + n) ∧ Posts s.core d 0x0D02 31 (n * 256 + sl) ∧
      (s.core.ump.lost = [] → d.nibState n = 2 ∧ d.f (F.NIBN_STAT_SLICE n) = sl ∧
        (∀ m, m < 18 → m ≠ n.val → d.nibState m = s.core.nibState m) ∧ d.web = s.core.web ∧ d.job = s.core.job ∧
        d.heads = s.core.heads ∧ d.bars = s.core.bars)

/-- A nib is isolated and a spare takes its slice. -/
def Obligations.SparesUsed : Prop := Claims.SpareIsolated ∧ Claims.SpareTakesSlice

/-- An ink-line whose inputs read well is complete in the line store when its nib finishes it; words that fail their read-back
leave it incomplete, each counted in LS_UE_CNT with 0x0407 (R187, R198, R199). A nib that works at an audit takes a step of it: two
signatures that agree are counted (R477). -/
def Obligations.InkLineStored : Prop :=
  ∀ (n : Fin 18) (ls : LsErr) (sig : AuditSig) (s : State), s.core.nibState n = 2 →
    (∀ (t part k l : Nat) (p : Part), (s.core.nib n).aud = none → (s.core.nib n).cur = some (t, part, k) →
      s.core.lineDue t k = some l → (s.core.parts t).find? (fun q => q.id = part) = some p →
      ((s.core.fillCov (s.core.inkCtx k l) p.c0 p.c1).computeInk (s.core.inkCtx k l) p.c0 p.c1).isSome = true →
      ((∀ g more, ls ≠ .readBack g more) → Runs (.inkLineComplete n ls sig) s fun d => d.isDone t part k = true ∧
        (∀ w, ls = .corrected w → d.r R.LS_CE_CNT = s.core.r R.LS_CE_CNT + w) ∧
        d.web = s.core.web ∧ d.job = s.core.job ∧ d.heads = s.core.heads ∧ d.bars = s.core.bars ∧ d.st = s.core.st) ∧
      (∀ g more, ls = .readBack g more → Runs (.inkLineComplete n ls sig) s fun d => d.isDone t part k = s.core.isDone t part k ∧
        d.r R.LS_UE_CNT = s.core.r R.LS_UE_CNT + 1 + BitVec.ofNat 32 more.length ∧
        (∀ x ∈ g :: more, Posts s.core d 0x0407 31 (t % 24 * 65536 + x)) ∧
        d.web = s.core.web ∧ d.job = s.core.job ∧ d.st = s.core.st)) ∧
    (∀ (t : Nat) (a : Audit), (s.core.nib n).aud = some t →
      s.core.ump.audits.find? (fun a => a.worker == n.val && a.stroke == t) = some a → a.left ≤ 1 → a.majority = false → a.nib < 18 →
      Runs (.inkLineComplete n ls .agree) s fun d => d.n (R.UMP_AUDIT_LAST a.nib) = t % 2 ^ 32 ∧
        d.r R.UMP_AUDIT_CNT = s.core.r R.UMP_AUDIT_CNT + 1 ∧ d.web = s.core.web ∧ d.job = s.core.job ∧ d.st = s.core.st)

/-- A fault of the active cox with a ready standby moves the token: the epoch advances, the other cox is active, and 0x0A02 and
0x0D06 follow (R364, R483); without one the device enters SAFE (R488). -/
def Sys2Proof.Claims.CoxSwitchOver : Prop :=
  ∀ (mech : BitVec 8) (u : Fin 18) (s : State) (i : Instr),
    i = .lockstepMismatch mech ∨ (i = .nibHeartbeatMiss true u ∧ mech = 3 ∧ u.val = s.core.activeCox) → s.core.st ≠ stBoot →
    (s.core.fb F.UMP_STAT_STBY_READY = true → s.core.fb F.COX_EPOCH_SWITCHING = false →
      Runs i s fun d =>
        let ep := (s.core.f F.COX_EPOCH_EPOCH + 1) % 256
        d.f F.COX_EPOCH_EPOCH = ep ∧ d.activeCox = 1 - s.core.activeCox ∧ d.fb F.COX_EPOCH_SWITCHING = true ∧
        d.fb F.UMP_STAT_STBY_READY = false ∧
        d.ump = { s.core.ump with drain := some mech.toNat, planned := false, fwTodo := d.ump.fwTodo, fwHand := d.ump.fwHand } ∧
        d.f F.UMP_FW_STAT_STATE ≠ 1 ∧
        Posts s.core d 0x0A02 31 ((1 - s.core.activeCox) * 256 + ep) ∧ Posts s.core d 0x0D06 31 mech.toNat ∧
        d.web = s.core.web ∧ d.job = s.core.job ∧ d.pipe = s.core.pipe ∧ d.bars = s.core.bars ∧ d.heads = s.core.heads ∧
        d.st = s.core.st) ∧
    (s.core.fb F.UMP_STAT_STBY_READY = false → Runs i s fun d => d.st = stSafe ∧
      bit (d.f F.UMP_ISOL_COX_COX) s.core.activeCox = true)

/-- The switch-over goes on: the old cox's switch opens when its writes have drained, the new one runs and posts the replies that
no queue got, the packet of a command begun and not effected is the next of its queue again, and a checkpoint ends the journal but
for what is open (R366, R482-R484); rows that come at an interval change nothing before it (log entry 2). -/
def Sys2Proof.Claims.CoxReturns : Prop :=
  ∀ s : State,
    (∀ mech, s.core.ump.drain = some mech → Runs .coxDrained s fun d =>
      d.ump = { s.core.ump with drain := none } ∧ bit (d.f F.UMP_ISOL_COX_COX) (1 - s.core.activeCox) = true ∧
      d.r R.UMP_DECISION_CNT = s.core.r R.UMP_DECISION_CNT + 1 ∧
      Posts s.core d 0x0D01 31 (mech * 65536 + 256 + (1 - s.core.activeCox)) ∧
      Core.Only [R.UMP_ISOL_COX, R.UMP_DECISION_CNT] { s.core with ump := d.ump } d) ∧
    (s.core.fb F.COX_EPOCH_SWITCHING = true → s.core.ump.drain = none → s.core.ump.planned = false → Runs .coxResume s fun d =>
      d.fb F.COX_EPOCH_SWITCHING = false ∧ (∀ j ∈ d.hi.journal, j.posted = true) ∧ d.ump.ckptAt = s.core.now ∧
      d.hi.journal.map JEntry.reply = (s.core.hi.journal.filter fun j => j.effected).map JEntry.reply ∧
      (∀ j, (s.core.hi.journal.filter fun j => !j.effected) = [j] → j.sq < 8 → d.hi.waiting = none ∧
        d.f (F.SQ_HEAD_HEAD j.sq) = (s.core.f (F.SQ_HEAD_HEAD j.sq) + s.core.sqSize j.sq - 1) % s.core.sqSize j.sq ∧
        (d.sq j.sq).oldLeft = (s.core.sq j.sq).oldLeft + 1) ∧
      d.web = s.core.web ∧ d.job = s.core.job ∧ d.st = s.core.st) ∧
    (s.core.now < s.core.ump.ckptAt + msec → Runs .ckptWrite s fun d => d = s.core) ∧
    (s.core.ump.nibImage = true → s.core.st ≠ stBoot → s.core.fb F.COX_EPOCH_SWITCHING = false →
      s.core.ump.ckptAt + msec ≤ s.core.now → Runs .ckptWrite s fun d =>
      d = { s.core with ump := { s.core.ump with ckptAt := s.core.now }, hi := { s.core.hi with
        journal := s.core.hi.journal.filter fun j => !j.effected || !j.posted } }) ∧
    (∀ a, s.core.asyncOf 0xA1 = some a → s.core.fb F.UMP_STAT_STBY_READY = true → s.core.fb F.COX_EPOCH_SWITCHING = false →
      s.core.hi.waiting = none → Runs .plannedSwitchover s fun d =>
        d.f F.COX_EPOCH_EPOCH = (s.core.f F.COX_EPOCH_EPOCH + 1) % 256 ∧ d.activeCox = 1 - s.core.activeCox ∧
        d.fb F.COX_EPOCH_SWITCHING = true ∧ d.fb F.UMP_STAT_STBY_READY = true ∧ d.ump.planned = true ∧
        Posts s.core d 0x0D06 31 (256 + 12) ∧ d.job = s.core.job ∧ d.web = s.core.web ∧ d.st = s.core.st)

/-- The coxes: switch-over, and return. -/
def Obligations.CoxesSwitched : Prop := Claims.CoxSwitchOver ∧ Claims.CoxReturns

/-- The levels of the outputs in SAFE (R86, R98, R486, R488, R563). -/
def Sys2Proof.Claims.OutputsSafe (t : State) : Prop :=
  t.level .faultN = some .low ∧ (∀ i, i < 2 → t.level (.health i) = some .low) ∧
    t.level .slowReq = some (.of (t.core.fb F.FIRE_CTRL_SLOW_POL)) ∧
    (∀ m, m < 16 → t.level (.pco m) = some (.of (t.core.fb (F.CMP_CFG_POL m)))) ∧
    ∀ b p, b < 16 → t.level (.fire b p) = some (.of (t.core.firePol b == p))

/-- The umpire's own checks (R476, R482): the standby's test is reported, and one that fails isolates it; the first lane that
disagrees is masked and a second one, or an oscillator off by more than 2 %, ends in SAFE, at whose entry FIRE, PCO and SLOW_REQ
are
driven inactive, FAULT_N and HEALTH low (R488, R563); rows that come at an interval change nothing before it (log entry 2). -/
def Sys2Proof.Claims.UmpireChecks : Prop :=
  ∀ s : State,
    (∀ ok, s.core.now < s.core.ticks.stby + s.core.f F.UMP_CFG_STBY_TEST * 60 * sec → Runs (.stbyTest ok) s fun d => d = s.core) ∧
    (s.core.f F.UMP_CFG_STBY_TEST ≠ 0 → s.core.fb F.UMP_STAT_STBY_READY = true → s.core.fb F.COX_EPOCH_SWITCHING = false →
      s.core.ticks.stby + s.core.f F.UMP_CFG_STBY_TEST * 60 * sec ≤ s.core.now →
      (Runs (.stbyTest true) s fun d => Posts s.core d 0x0D0E 31 0 ∧
        Core.Quiet { s.core with ticks := { s.core.ticks with stby := s.core.now } } d) ∧
      (Runs (.stbyTest false) s fun d => d.ticks.stby = s.core.now ∧ Posts s.core d 0x0D0E 31 1 ∧ d.fb F.UMP_STAT_STBY_READY = false ∧
        bit (d.f F.UMP_ISOL_COX_COX) (1 - s.core.activeCox) = true ∧
        Posts s.core d 0x0D01 31 (11 * 65536 + 256 + (1 - s.core.activeCox)) ∧ d.job = s.core.job ∧ d.web = s.core.web ∧
        d.st = s.core.st)) ∧
    (∀ lane : Fin 3, (s.core.ump.tmr = none → Runs (.umpireTmr lane) s fun d =>
        d.ump = { s.core.ump with tmr := some lane.val } ∧ d.fb F.UMP_STAT_TMR_MASKED = true ∧
        Posts s.core d 0x0D0A 31 lane ∧ Core.Only [R.UMP_STAT] { s.core with ump := d.ump } d) ∧
      (∀ m, s.core.ump.tmr = some m → m ≠ lane.val → s.core.st ≠ stBoot → Runs (.umpireTmr lane) s fun d => d.st = stSafe)) ∧
    (∀ dev : BitVec 16, s.core.now < s.core.ticks.osc → Runs (.umpireOsc dev) s fun d => d = s.core) ∧
    (∀ dev : BitVec 16, 20 < dev.toNat → s.core.fb F.UMP_STAT_OSC_FAULT = false → s.core.st ≠ stBoot →
      s.core.ticks.osc ≤ s.core.now → Runs (.umpireOsc dev) s fun d => d.st = stSafe ∧ d.fb F.UMP_STAT_OSC_FAULT = true ∧ d.ump.faultN = true ∧
        Posts s.core d 0x0D0B 31 dev.toNat ∧
        (s.core.st ≠ stSafe → s.core.pwr.held = 0 → Claims.OutputsSafe { s with core := d }))

/-- Returns and updates: a returning nib or cox that passes closes its switch and one that fails stays isolated (R489), the staged image is recorded (R384), one
that cannot be read ends in MEMORY with 0x0911 (R324), and a step of the update gives the spare the next
nib's slice, while a job prints at a stroke event (R491). -/
def Sys2Proof.Claims.UnitsReturn : Prop :=
  ∀ s : State,
    (∀ n : Fin 18, s.core.ump.returning.contains (0, n.val) = true →
      (s.core.nibState n = 1 → Runs (.switchBackEnd false n true) s fun d => bit (d.f F.UMP_ISOL_NIB_NIB) n = false ∧ d.nibState n = 0 ∧
        d.f (F.NIBN_STAT_SLICE n) = 31 ∧ Posts s.core d 0x0D07 31 0 ∧ d.web = s.core.web ∧ d.job = s.core.job) ∧
      (Runs (.switchBackEnd false n false) s fun d => Posts s.core d 0x0D07 31 0x40 ∧ d.nibState n = 3 ∧
        bit (d.f F.UMP_ISOL_NIB_NIB) n = bit (s.core.f F.UMP_ISOL_NIB_NIB) n)) ∧
    (∀ n : Fin 2, s.core.ump.returning.contains (1, n.val) = true → s.core.ump.nibImage = true →
      Runs (.switchBackEnd true (n.castLE (by decide)) true) s fun d => bit (d.f F.UMP_ISOL_COX_COX) n = false ∧
        d.fb F.UMP_STAT_STBY_READY = true ∧ Posts s.core d 0x0D0E 31 0 ∧ Posts s.core d 0x0D07 31 256) ∧
    (∀ (a : Async), s.core.asyncOf 0x04 = some a → s.core.mayReach a.a a.b = false → ∀ sig hw : Bool,
      Runs (.fwStageDone sig hw) s fun d => d.ump.fw = s.core.ump.fw ∧ Posts s.core d 0x0911 31 (s.core.overAt a.a a.b / 256) ∧
        Posts s.core d 0x0A10 4 (a.seq * 65536 + a.sq % 8 * 8192 + 0x40)) ∧
    (∀ (a : Async) (h : List Byte), s.core.asyncOf 0x04 = some a → s.core.mayReach a.a a.b = true → s.core.rd a.a a.b = some h →
      (s.core.imagePasses h true = true → 0 < a.c → a.c ≤ 2 → a.b ≤ 2 ^ 24 → s.core.bootTab.2.seq + 1 < 2 ^ 32 →
        Runs (.fwStageDone true true) s fun d => d.flash (a.c - 1) = { ver := le h 4 4, len := a.b, state := 1 } ∧
          d.flashImage (a.c - 1) = h ∧ d.flash (2 - a.c) = s.core.flash (2 - a.c) ∧ d.hi.async = s.core.hi.async.erase a ∧
          Posts s.core d 0x0A10 4 (a.seq * 65536 + a.sq % 8 * 8192)) ∧
      (s.core.imagePasses h true = true → a.c = 0 → Runs (.fwStageDone true true) s fun d => d.ump.fw.staged = some (le h 4 4, le h 8 4) ∧
        d.ump.fw.image = h ∧ d.hi.async = s.core.hi.async.erase a ∧ Posts s.core d 0x0A10 4 (a.seq * 65536 + a.sq % 8 * 8192)) ∧
      (∀ sig : Bool, s.core.imagePasses h sig = false → Runs (.fwStageDone sig true) s fun d => d.ump.fw = s.core.ump.fw ∧
        Posts s.core d 0x0A10 4 (a.seq * 65536 + a.sq % 8 * 8192 + 0x50))) ∧
    (∀ n rest m, s.core.f F.UMP_FW_STAT_STATE = 1 → s.core.ump.fwTodo = n :: rest → n < 18 →
      (List.range 18).find? (fun m => s.core.nibState m = 0) = some m → n ≠ m → s.core.ump.fwHand = none →
      (s.core.printing = true → Runs .fwNibStep s fun d => d = { s.core with ump := { s.core.ump with fwHand := some (n, m) } }) ∧
      (s.core.printing = false → s.core.places n = 0 → Runs .fwNibStep s fun d =>
        d.nibState m = 2 ∧ d.f (F.NIBN_STAT_SLICE m) = s.core.f (F.NIBN_STAT_SLICE n) ∧ d.nibState n = 0 ∧
        d.ump.fwTodo = rest ∧ d.ump.fwHand = none ∧ Posts s.core d 0x0D0D 31 n ∧ d.job = s.core.job ∧ d.web = s.core.web))

/-- The umpire: its checks, and the return of units. -/
def Obligations.UmpireWorks : Prop := Claims.UmpireChecks ∧ Claims.UnitsReturn

/-! ### Proof engines and cameras -/

/-- A frame of the proof feed (R210, R214, R215, R217): one that the device may not use, that its engine has no time for, whose lines the
ring does not give, or whose correlation peaks too low, is only counted; a used one gives its number and registration. -/
def Sys2Proof.Claims.ProofFrames : Prop :=
  ∀ (x : ProofFrame) (s : State) (f : CamFrame) (rest : List CamFrame), (s.core.cam x.cam).feed = f :: rest →
    s.core.fb F.PF_CFG_EN = true → s.core.fb (F.PF_CAM_CFG_EN x.cam) = true →
    let c := s.core
    let usable := c.replay = false ∧ c.st = stPrinting ∧ f.flags % 16 = 0 ∧ f.state % 4 = 0
    let fits := ((c.engLoad (c.f (F.PF_CAM_CFG_ENGINE x.cam))).map (·.2)).sum + f.width * f.height ≤ 400000000
    let read := x.ringErr = false ∧ c.inRing x.cam f = true ∧ c.ringFail x.cam f = none
    let o := c.corrPeak x.cam f none
    let locks := 256 * (c.f (F.PF_CAM_CFG_MINCORR x.cam) : Int) ≤ (c.corrAt x.cam f none o).value
    let counted (d : Core) (off : Nat) : Prop := d.r off = c.r off + 1 ∧
      Core.Only [off] { c with cams := d.cams, pf := { c.pf with load := d.pf.load } } d
    Runs (.proofFrame x) s fun d =>
      (d.cam x.cam).feed = rest ∧ d.web = c.web ∧ d.job = c.job ∧ d.st = c.st ∧
      (¬ usable → counted d R.PF_SKIPFR_CNT ∧ d.pf = c.pf) ∧
      (usable → ¬ fits → counted d R.PF_BUSY_CNT ∧ d.pf = c.pf) ∧
      (usable → fits → ¬ read → d.r R.PF_LATE_CNT = c.r R.PF_LATE_CNT + 1 ∧ d.r (R.PF_CAM_FRAMES x.cam) = c.r (R.PF_CAM_FRAMES x.cam)) ∧
      (usable → fits → read → ¬ locks → counted d R.PF_NOLOCK_CNT) ∧
      (usable → fits → read → locks →
        d.n (R.PF_CAM_LASTFN x.cam) = f.fn % 2 ^ 32 ∧ d.r (R.PF_CAM_FRAMES x.cam) = c.r (R.PF_CAM_FRAMES x.cam) + 1 ∧
        d.f (F.PF_CAM_REG_DY x.cam) = wrap 16 (o.1 * 64) ∧ d.f (F.PF_CAM_REG_DX x.cam) = wrap 16 (o.2 * 64) ∧
        d.r R.PF_SKIPFR_CNT = c.r R.PF_SKIPFR_CNT)

/-- At the end of a segment's dwell, once the camera's window that held it no longer contains the whole of it, its records are
cleared (R222); heads and coverage bins go stale at PF_STALE_LEN metres (R233, R234). -/
def Sys2Proof.Claims.DwellAndStale : Prop :=
  ∀ s : State,
    (∀ (n : Fin 4) (j : Fin 2048), s.core.replay = false → s.core.fb F.PF_CFG_EN = true → s.core.fb (F.PF_CAM_CFG_EN n) = true →
      s.core.fb (F.PF_CAM_CFG_TYPE n) = true → s.core.dwells n j = true → s.core.inWindow n j = false →
      Runs (.dwellEnd n j) s fun d => d.dwells n j = false ∧ d.web = s.core.web ∧ d.job = s.core.job ∧
        ∀ k i, k ∈ s.core.newest.inks → s.core.f (F.PF_INK_MODE k) = 2 → i < 64 →
          Tab.get (fun _ => none) d.pf.nth (64 * (4096 * k + j) + i) = none ∧
          Tab.get (fun _ => none) d.pf.nth (64 * (4096 * k + 2048 + j) + i) = none) ∧
    (∀ (n : Fin 4) (j : Fin 2048), s.core.dwells n j = false ∨ s.core.inWindow n j = true →
      Runs (.dwellEnd n j) s fun d => d = s.core) ∧
    (∀ h : Fin 1024, bit (s.core.n (R.PF_STALE (h / 32))) (h % 32) = false →
      s.core.f F.PF_STALE_LEN_LEN ≤ s.core.ageM (Tab.get (fun _ => 0) s.core.pf.ages h) →
      Runs (.headStale h) s fun d => bit (d.n (R.PF_STALE (h / 32))) (h % 32) = true ∧
        Posts s.core d 0x0504 h (s.core.ageM (Tab.get (fun _ => 0) s.core.pf.ages h)) ∧
        Core.Only [R.PF_STALE (h / 32)] s.core d) ∧
    (∀ (seg : Fin 32768) (b : Fin 4), Tab.get (fun _ => false) s.core.pf.binStale (seg * 4 + b) = false →
      s.core.f F.PF_STALE_LEN_LEN ≤ s.core.ageM (Tab.get (fun _ => 0) s.core.pf.binAges (seg * 4 + b)) →
      Runs (.binStale seg b) s fun d => Tab.get (fun _ => false) d.pf.binStale (seg * 4 + b) = true ∧
        ((∀ e ∈ s.core.pf.binStale, e.1 / 16384 = seg / 4096 → e.1 % 4 = b → e.2 = false) →
          Posts s.core d 0x050C (seg / 4096) (2 ^ 31 + b)) ∧
        Core.Only [R.PF_INK_BSTALE (seg / 4096)] { s.core with pf := d.pf } d)

/-- The measurement frames of the loops and their waits. -/
def Obligations.ProofWorks : Prop := Claims.ProofFrames ∧ Claims.DwellAndStale

/-- Outside one camera port, the web, the job and the heads are as they were. -/
def Sys2Proof.Claims.OtherPorts (p : Nat) (c d : Core) : Prop :=
  d.web = c.web ∧ d.job = c.job ∧ d.heads = c.heads ∧ d.bars = c.bars ∧ d.encs = c.encs ∧ d.pf = c.pf ∧
    ∀ m, m ≠ p → d.cam m = c.cam m

/-- A frame start opens a frame (R243): free-running it takes the next FN; triggered, that of the oldest trigger in its window,
and without one no frame opens and the case is counted. -/
def Sys2Proof.Claims.FrameStarts : Prop :=
  ∀ (p : Fin 4) (s : State), s.core.camLive p = true → (s.core.cam p).opened = none →
    let u := s.core.cam p
    let open? := u.trigs.find? fun t => s.core.now ≤ t.taken + s.core.f (F.CAM_TRIG_WIN_WIN p) * usec
    Runs (.csiFrameStart p) s fun d => OtherPorts p s.core d ∧
      (s.core.fb (F.CAM_CFG_TRIGGERED p) = false → d.fb (F.CAM_STATUS_FRAME_OPEN p) = true ∧
        d.n (R.CAM_FN p) = u.fn % 2 ^ 32 ∧ (d.cam p).fn = (u.fn + 1) % 2 ^ 32 ∧
        ∃ f, (d.cam p).opened = some f ∧ f.fn = u.fn ∧ f.lines = [] ∧ f.noFs = false) ∧
      (∀ t, s.core.fb (F.CAM_CFG_TRIGGERED p) = true → open? = some t → d.fb (F.CAM_STATUS_FRAME_OPEN p) = true ∧
        (d.cam p).fn = u.fn ∧ (d.cam p).trigs = u.trigs.erase t ∧
        ∃ f, (d.cam p).opened = some f ∧ f.fn = t.fn ∧ f.trig = t.t32 ∧ f.lines = []) ∧
      (s.core.fb (F.CAM_CFG_TRIGGERED p) = true → open? = none → (d.cam p).opened = none ∧ (d.cam p).fn = u.fn ∧
        d.r (R.CAM_UNPAIRED_CNT p) = s.core.r (R.CAM_UNPAIRED_CNT p) + 1)

/-- A line of the port's type is padded or cut to the width and appended to the open frame (R244); other packets are discarded
and counted (R240, R241). With no frame open a line opens one flagged NO_FS where the port runs free (R243). -/
def Sys2Proof.Claims.FrameLines : Prop :=
  ∀ (p : Fin 4) (s : State), s.core.camLive p = true →
    (∀ (vc : Fin 4) (dt : BitVec 6) (px : List (BitVec 14)) (f : CamFrame), (s.core.cam p).opened = some f →
      vc.val = s.core.f (F.CAM_CFG_VC p) → dt.toNat = 0x2B + s.core.f (F.CAM_CFG_DT p) → dt.toNat ≠ 0x2E → f.lines.length < f.height →
      Runs (.csiLongPacket p vc dt px true) s fun d => OtherPorts p s.core d ∧
        ∃ f', (d.cam p).opened = some f' ∧ f'.rx = f.rx + 1 ∧ f'.fn = f.fn ∧
          f'.lines = f.lines ++ [(px.map (·.toNat)).take f.width ++
            List.replicate (f.width - px.length) (s.core.f (F.CAM_PAD_PAD p))] ∧
          f'.short = f.short + b2n (px.length < f.width) ∧ f'.long = f.long + b2n (f.width < px.length)) ∧
    (∀ (vc : Fin 4) (dt : BitVec 6) (px : List (BitVec 14)) (ok : Bool), (s.core.cam p).opened = none →
      vc.val = s.core.f (F.CAM_CFG_VC p) → dt.toNat = 0x2B + s.core.f (F.CAM_CFG_DT p) → dt.toNat ≠ 0x2E →
      Runs (.csiLongPacket p vc dt px ok) s fun d => OtherPorts p s.core d ∧
        d.r (R.CAM_CRC_CNT p) = s.core.r (R.CAM_CRC_CNT p) + (if ok then 0 else 1) ∧
        (if s.core.fb (F.CAM_CFG_TRIGGERED p) then (d.cam p).opened = none
          else ∃ f', (d.cam p).opened = some f' ∧ f'.noFs = true ∧ f'.fn = (s.core.cam p).fn ∧ f'.rx = 1 ∧ f'.crcErr = !ok)) ∧
    (∀ (vc : Fin 4) (dt : BitVec 6) (px : List (BitVec 14)) (ok : Bool),
      vc.val ≠ s.core.f (F.CAM_CFG_VC p) ∨ dt.toNat ≠ 0x2B + s.core.f (F.CAM_CFG_DT p) ∨ dt.toNat = 0x2E →
      Runs (.csiLongPacket p vc dt px ok) s fun d => d.r (R.CAM_DISCARD_CNT p) = s.core.r (R.CAM_DISCARD_CNT p) + 1 ∧
        (d.cam p).opened = (s.core.cam p).opened ∧ Core.Only [R.CAM_DISCARD_CNT p] { s.core with cams := d.cams } d) ∧
    (Runs (.csiPacketDiscard p false) s fun d => d.r (R.CAM_DISCARD_CNT p) = s.core.r (R.CAM_DISCARD_CNT p) + 1 ∧
        Core.Only [R.CAM_DISCARD_CNT p] { s.core with cams := d.cams } d) ∧
    (Runs (.csiPacketDiscard p true) s fun d => d.r (R.CAM_ECC_CNT p) = s.core.r (R.CAM_ECC_CNT p) + 1 ∧
        Core.Only [R.CAM_ECC_CNT p] { s.core with cams := d.cams } d)

/-- A frame closes at its frame end, or with NO_FE and 0x0607 at the time-out; a short one is padded to HEIGHT, counted and
reported (R245); it goes to the proof feed unless a test runs (R259). A generated frame passes through as a received one, flagged TEST (R263). -/
def Sys2Proof.Claims.FrameCloses : Prop :=
  ∀ (p : Fin 4) (s : State),
    (∀ f, (s.core.cam p).opened = some f → f.lines.length ≤ f.height →
      let closes (i : Instr) (noFe : Bool) : Prop := Runs i s fun d => OtherPorts p s.core d ∧ (d.cam p).opened = none ∧
        d.fb (F.CAM_STATUS_FRAME_OPEN p) = false ∧
        (∃ f', (d.cam p).closed = (s.core.cam p).closed ++ [f'] ∧ f'.fn = f.fn ∧ f'.noFe = noFe ∧ f'.lines.length = f.height ∧
          f'.lines.take f.lines.length = f.lines ∧
          (d.cam p).feed = (s.core.cam p).feed ++ (if f.test ∨ s.core.f (F.CAM_CFG_TEST p) ≠ 0 then [] else [f'])) ∧
        (f.rx - f.cut < f.height → Posts s.core d 0x0601 p f.fn ∧
          d.r (R.CAM_SHORT_CNT p) = s.core.r (R.CAM_SHORT_CNT p) + 1)
      (s.core.camLive p = true → closes (.csiFrameEnd p) false) ∧
      (f.start + s.core.f (F.CAM_FRAME_TO_TO p) * usec ≤ s.core.now → closes (.camFrameTimeout p) true ∧
        Runs (.camFrameTimeout p) s fun d => Posts s.core d 0x0607 p f.fn)) ∧
    ((s.core.cam p).opened = none → s.core.fb (F.CAM_CFG_EN p) = true → s.core.f (F.CAM_CFG_TEST p) ≠ 0 →
      s.core.fb (F.CAM_CFG_TRIGGERED p) = false →
      (s.core.cam p).testAt + s.core.f (F.CAM_TEST_PERIOD_PERIOD p) * usec ≤ s.core.now →
      Runs (.camTestFrame p) s fun d => OtherPorts p s.core d ∧ (d.cam p).opened = none ∧
        (d.cam p).testAt = s.core.now ∧ (d.cam p).fn = ((s.core.cam p).fn + 1) % 2 ^ 32 ∧ (d.cam p).feed = (s.core.cam p).feed ∧
        ∃ f', (d.cam p).closed = (s.core.cam p).closed ++ [f'] ∧ f'.fn = (s.core.cam p).fn ∧ f'.test = true)

/-- A camera frame: start, lines and end. -/
def Obligations.CameraFrames : Prop := Claims.FrameStarts ∧ Claims.FrameLines ∧ Claims.FrameCloses

/-- What follows frames and triggers: an unpaired trigger spends its FN and is counted (R243); a record that does not fit its
ring is dropped and counted, another moves STAT_WR (R261); a completed select is scheduled, a failed write abandons it
(R248, R250). -/
def Obligations.CameraAfterwork : Prop :=
  ∀ (p : Fin 4) (s : State),
    let u := s.core.cam p
    (∀ t rest, u.trigs = t :: rest → t.taken + s.core.f (F.CAM_TRIG_WIN_WIN p) * usec < s.core.now →
      Runs (.camUnpaired p) s fun d => d.r (R.CAM_UNPAIRED_CNT p) = s.core.r (R.CAM_UNPAIRED_CNT p) + 1 ∧
        d.cam p = { u with trigs := rest } ∧ OtherPorts p s.core d ∧
        Core.Only [R.CAM_UNPAIRED_CNT p] { s.core with cams := d.cams } d) ∧
    (∀ f rest, u.closed = f :: rest →
      let size := 64 + (s.core.statBody p f.pipe).length
      let ring := s.core.n (R.CAM_STAT_SIZE p)
      let wr := s.core.n (R.CAM_STAT_WR p)
      let free := if ring = 0 then 0 else (s.core.n (R.CAM_STAT_RD p) + ring - wr - 1) % ring
      Runs (.camStatRecord p) s fun d => d.cam p = { u with closed := rest } ∧ OtherPorts p s.core d ∧
        d.n (R.CAM_STAT_RECSZ p) = size % 2 ^ 32 ∧
        (if size ≤ free then d.n (R.CAM_STAT_WR p) = (wr + size) % ring ∧
            d.r (R.CAM_STAT_DROP_CNT p) = s.core.r (R.CAM_STAT_DROP_CNT p)
          else d.n (R.CAM_STAT_WR p) = wr ∧ d.r (R.CAM_STAT_DROP_CNT p) = s.core.r (R.CAM_STAT_DROP_CNT p) + 1)) ∧
    (∀ j rest, u.selects = j :: rest → Runs (.expWritesDone p) s fun d =>
      d.cam p = { u with selects := rest, sched := u.sched ++ [(j, max 1 (s.core.f (F.CAM_SENSOR_K p)))] } ∧
      d.fb (F.CAM_STATUS_EXP_PENDING p) = true ∧ d.out = (s.core.cciWrites p (u.set j).writes).out ∧ OtherPorts p s.core d) ∧
    (∀ j rest (k : Fin 14) w, u.selects = j :: rest → (u.set j).writes[k.val]? = some w →
      Runs (.cciWriteFail p k) s fun d => (d.cam p).selects = rest ∧ Posts s.core d 0x0605 p w.1 ∧
        (d.cam p).failIn = u.failIn ++ [max 1 (s.core.f (F.CAM_SENSOR_K p))] ∧
        d.out = (s.core.cciWrites p ((u.set j).writes.take k)).out ∧ OtherPorts p s.core d)

/-! ### Heads -/

/-- A conversion of a sensor input (R299, R302): out of range it flags the input open or short with 0x080B; in range it gives
the input's value, and that of the head it serves; the derates then due are formed (R303). Where the formula has no value the
value is free (log entry 60); rows that come at an interval change nothing before it (log entry 2). -/
def Sys2Proof.Claims.TemperatureConverted : Prop :=
  ∀ (n : Fin 16) (x : TsSample) (s : State), s.core.fb (F.TS_CFG_EN n) = true →
    let at_ := Tab.get (fun _ => 0) s.core.ticks.inputs n
    let timed (d : Core) : Core := { s.core with ticks := d.ticks }
    at_ ≤ s.core.now →
    (s.core.tsResult n x = .high → RunsDerated (.tsConversion n x) s fun d => d.fb (F.TS_STAT_OPEN n) = true ∧
      d.fb (F.TS_STAT_SHORT n) = false ∧ Posts s.core d 0x080B (1024 + n) 0 ∧ Core.Only [R.TS_STAT n] (timed d) d ∧
      Tab.get (fun _ => 0) d.ticks.inputs n = nextDue at_ (10 * msec) s.core.now) ∧
    (s.core.tsResult n x = .low → RunsDerated (.tsConversion n x) s fun d => d.fb (F.TS_STAT_OPEN n) = false ∧
      d.fb (F.TS_STAT_SHORT n) = true ∧ Posts s.core d 0x080B (1024 + n) 1 ∧ Core.Only [R.TS_STAT n] (timed d) d) ∧
    (∀ r, s.core.tsResult n x = .temp r → RunsDerated (.tsConversion n x) s fun d => ∃ t : Int,
      (∀ v, r = some v → t = max (-32768) (min 32767 v)) ∧ (d.tsIn n).own = t ∧ (d.tsIn n).validAt = some s.core.now ∧
      d.f (F.TS_STAT_TEMP n) = wrap 16 t ∧ d.fb (F.TS_STAT_OPEN n) = false ∧ d.fb (F.TS_STAT_SHORT n) = false ∧
      d.web = s.core.web ∧ d.job = s.core.job ∧
      (s.core.fb (F.TS_CFG_HEAD_EN n) = false → d.heads = s.core.heads) ∧
      (s.core.fb (F.TS_CFG_HEAD_EN n) = true → s.core.tsOf (s.core.f (F.TS_CFG_HEAD n)) = some n.val →
        s.core.fb (F.TS_STAT_SUSPECT n) = false → (d.head (s.core.f (F.TS_CFG_HEAD n))).own = t ∧
          d.fb (F.HH_THETA_STALE (s.core.f (F.TS_CFG_HEAD n))) = false))

/-- Stale and suspect values (R300, R301): a board source silent beyond QL_TEMP_TO is stale with 0x070E; a value off its median
for 2 s becomes SUSPECT, one within it for 10 s no longer is, each with 0x0803. -/
def Sys2Proof.Claims.StaleAndSuspect : Prop :=
  ∀ s : State,
    (∀ (h : Fin 1024) (t : Nat), s.core.tsOf h = none → (s.core.head h).delivered = some t →
      t + s.core.f F.QL_TEMP_TO_TO * usec ≤ s.core.now → s.core.fb (F.HH_THETA_STALE h) = false →
      RunsDerated (.tempStale h) s fun d => d.fb (F.HH_THETA_STALE h) = true ∧ (d.head h).own = (s.core.head h).own ∧
        Posts s.core d 0x070E h ((s.core.now - t) / usec) ∧ d.web = s.core.web ∧ d.job = s.core.job) ∧
    (∀ (h : Fin 1040), h.val < 1024 →
      let u := (s.core.nbrCheck h).head h
      let m := wrap 16 ((s.core.headMedian h).getD 0)
      (∀ t, u.devFrom = some t → t + 2 * sec ≤ s.core.now →
        s.core.fb (F.HH_THETA_SUSPECT h) = false → RunsDerated (.tempSuspect h) s fun d => d.fb (F.HH_THETA_SUSPECT h) = true ∧
          Posts s.core d 0x0803 h (2 ^ 31 + m) ∧ d.web = s.core.web ∧ d.job = s.core.job) ∧
      (∀ t, u.okFrom = some t → t + 10 * sec ≤ s.core.now →
        s.core.fb (F.HH_THETA_SUSPECT h) = true → RunsDerated (.tempSuspectClear h) s fun d => d.fb (F.HH_THETA_SUSPECT h) = false ∧
          Posts s.core d 0x0803 h m ∧ d.web = s.core.web ∧ d.job = s.core.job)) ∧
    (∀ (n : Fin 16),
      let u := (s.core.tsCheck n).tsIn n
      let m := wrap 16 ((s.core.tsMedian n).getD 0)
      (∀ t, u.devFrom = some t → t + 2 * sec ≤ s.core.now →
        s.core.fb (F.TS_STAT_SUSPECT n) = false → RunsDerated (.tempSuspect ⟨1024 + n, by omega⟩) s fun d =>
          d.fb (F.TS_STAT_SUSPECT n) = true ∧ Posts s.core d 0x0803 (1024 + n) (2 ^ 31 + m)) ∧
      (∀ t, u.okFrom = some t → t + 10 * sec ≤ s.core.now →
        s.core.fb (F.TS_STAT_SUSPECT n) = true → RunsDerated (.tempSuspectClear ⟨1024 + n, by omega⟩) s fun d =>
          d.fb (F.TS_STAT_SUSPECT n) = false ∧ Posts s.core d 0x0803 (1024 + n) m))

/-- Temperatures of heads. -/
def Obligations.Temperatures : Prop := Claims.TemperatureConverted ∧ Claims.StaleAndSuspect

/-- Blanks (R300, R304, R305): a head at its LIMIT, or one whose value was held for 1 s while PRINTING, is blanked with 0x0802;
with AUTO_CLR 1 s below the limit readies the clearing for the next stroke event; 1 s below WARN clears WARM with 0x0801 (R303,
R318); rows that come at an interval change nothing before it (log entry 2). -/
def Sys2Proof.Claims.HeadsBlanked : Prop :=
  ∀ s : State,
    (s.core.now < s.core.ticks.limit → Runs .headLimitTick s fun d => d = s.core) ∧
    (s.core.ticks.limit ≤ s.core.now → Runs .headLimitTick s fun d => d.ticks.limit = s.core.now + msec ∧ d.web = s.core.web ∧ d.job = s.core.job ∧
      ∀ h b, h ∈ s.core.newest.heads → s.core.newest.headBar h = some b →
        (s.core.fs (F.HH_BAR_TEMP_LIMIT b) ≤ s.core.theta h → (d.head h).blankTemp = true) ∧
        (s.core.theta h < s.core.fs (F.HH_BAR_TEMP_LIMIT b) → (d.head h).blankTemp = (s.core.head h).blankTemp)) ∧
    (∀ (h : Fin 1024) (t : Nat), s.core.st = stPrinting → (s.core.head h).heldFrom = some t → t + sec ≤ s.core.now →
      (s.core.head h).blankTemp = false → Runs (.staleHeadBlank h) s fun d => (d.head h).blankTemp = true ∧
        d.fb (F.HH_THETA_BLANKED h) = true ∧
        ((s.core.head h).span = none → Posts s.core d 0x0802 (h + 0x8000) 0xFFFFFFFF) ∧ d.web = s.core.web ∧
        d.job = s.core.job ∧ ∀ j, j ≠ h.val → d.head j = s.core.head j) ∧
    (∀ (h : Fin 1024) (b t : Nat), s.core.newest.headBar h = some b → s.core.fb (F.HH_BAR_CFG_AUTO_CLR b) = true →
      (s.core.head h).blankTemp = true → (s.core.head h).lowFrom = some t → t + sec ≤ s.core.now →
      Runs (.headBlankClear h) s fun d => d = s.core.setHead h { s.core.head h with clearing := true }) ∧
    (∀ (h : Fin 1024) (t : Nat), s.core.fb (F.HH_THETA_WARM h) = true → (s.core.head h).coolFrom = some t → t + sec ≤ s.core.now →
      RunsDerated (.headWarmClear h) s fun d => d.fb (F.HH_THETA_WARM h) = false ∧ (d.head h).coolFrom = none ∧
        (d.head h).wantDerate = (s.core.head h).wantDerate ++ [false] ∧ Posts s.core d 0x0801 h (wrap 16 (s.core.theta h)) ∧
        Core.Only [R.HH_THETA h, R.HH_STAT] { s.core with heads := d.heads } d ∧ ∀ j, j ≠ h.val → d.head j = s.core.head j)

/-- The timed work of heads: outside a job an ink with moved heads gets one new version at their temperatures, in one an update
that
has waited more than 1 s is reported once (R178); the usage
records due are written over a lane, or 0x0809 reports that none can carry them (R316); rows that come at an interval change
nothing before it (log entry 2). -/
def Sys2Proof.Claims.HeadsTimed : Prop :=
  ∀ s : State,
    (s.core.job.tof = false → s.core.now < s.core.ticks.temp → Runs .tempCheckTick s fun d => d = s.core) ∧
    (s.core.job.tof = false → s.core.ticks.temp ≤ s.core.now → Runs .tempCheckTick s fun d =>
      d.ticks.temp = nextDue s.core.ticks.temp msec s.core.now ∧ d.web = s.core.web ∧ d.job = s.core.job ∧
      ∀ k, k < 8 → s.core.movedHeads k ≠ [] → ∃ v, (d.ink k).vers = [v] ∧ v.le = 0 ∧
        ∀ h ∈ s.core.movedHeads k, Tab.get (fun _ => 0) v.theta h = s.core.theta h) ∧
    (s.core.job.tof = true → Runs .tempCheckTick s fun d => d.web = s.core.web ∧ d.job = s.core.job ∧
      ∀ k w, k < 8 → (s.core.ink k).waitFrom = some w → w + sec < s.core.now → (s.core.ink k).waitPosted = false →
        Posts s.core d 0x0444 k (s.core.movedHeads k).length ∧ d.ink k = { s.core.ink k with waitPosted := true }) ∧
    (Runs .recWriteTimer s fun d => d.web = s.core.web ∧ d.job = s.core.job ∧
      ∀ h ∈ s.core.newest.heads, s.core.f F.HH_REC_PERIOD_S ≠ 0 → (s.core.head h).fired = true →
        (s.core.head h).recAt + s.core.f F.HH_REC_PERIOD_S * sec ≤ s.core.now → (s.core.head h).valid = true →
        (s.core.head h).writing = none →
        ((s.core.headLane h).isSome = true → (d.head h).writing.isSome = true ∧ (d.head h).fired = false ∧
          (d.head h).recAt = s.core.now) ∧
        (s.core.headLane h = none → Posts s.core d 0x0809 h ((s.core.head h).seq + 1) ∧
          d.head h = { s.core.head h with fired := true, recAt := s.core.now }))

/-- Heads blanked, and the timers of heads. -/
def Obligations.HeadsKept : Prop := Claims.HeadsBlanked ∧ Claims.HeadsTimed

/-! ### Lanes -/

/-- Outside the lanes, the links and what hangs on them, the web and the job are as they were. -/
def Sys2Proof.Claims.OtherLanes (n : Nat) (c d : Core) : Prop :=
  d.web = c.web ∧ d.job = c.job ∧ d.cams = c.cams ∧ d.encs = c.encs ∧ ∀ m, m < 64 → m ≠ n →
    d.f (F.QLN_STATE_STATE m) = c.f (F.QLN_STATE_STATE m)

/-- A codeword at the device's receiver (R271): it locks at the third good marker in a row, counts corrected and uncorrectable
codewords, and loses lock at the fourth uncorrectable codeword or the third missing marker in a row; out of lock for 1 ms an ACTIVE lane
falls to DETECT with cause 2 (R292). A head board's receiver follows the same rules, and every fourth
codeword there puts one out upstream (R268, R269; log entry 59). -/
def Obligations.UpstreamReceiver : Prop :=
  ∀ (n : Fin 64) (msg check : List (BitVec 10)) (s : State),
    let u := s.core.lane n
    let w := rsSymbols 514 msg ++ rsSymbols 14 check
    let o := u.rx.decode n true w
    let rx := u.rx.step o
    (o.cw ≠ .uncorrectable ∨
        (u.uncAt.filter fun t => decide (s.core.now < t + sec)).length < s.core.f F.QL_FEC_LIMIT_LIMIT →
      Runs (.qlCodeword n false msg check) s fun d => d.fb (F.QLN_STATE_UP_LOCK n) = rx.lock ∧ (d.lane n).rx = rx ∧
        d.r (R.QLN_FEC_CORR n) = s.core.r (R.QLN_FEC_CORR n) + (if o.cw = .corrected then 1 else 0) ∧
        d.r (R.QLN_FEC_UNCORR n) = s.core.r (R.QLN_FEC_UNCORR n) + (if o.cw = .uncorrectable then 1 else 0) ∧
        Core.Only [R.QLN_STATE n, R.QLN_FEC_CORR n, R.QLN_FEC_UNCORR n, R.QLN_PRBS_ERR n]
          { s.core with lanes := d.lanes, out := d.out, freeCtr := d.freeCtr } d) ∧
    (u.rx.lock = false → 2 ≤ u.rx.amRun → o.am = some true → rx.lock = true) ∧
    (u.rx.lock = true → o.cw ≠ .uncorrectable → o.am = some true → rx.lock = true) ∧
    (u.rx.lock = true → (o.cw = .uncorrectable ∧ 3 ≤ u.rx.badRun) ∨ (o.am = some false ∧ 2 ≤ u.rx.missRun) → rx.lock = false) ∧
    (∀ t, u.lockLost = some t → t + msec ≤ s.core.now → s.core.laneActive n = true → Runs (.qlUplockLoss n) s fun d =>
      d.f (F.QLN_STATE_STATE n) = 1 ∧ d.f (F.QLN_STATE_ATTEMPT n) = 1 ∧ Posts s.core d 0x0701 n 2 ∧ OtherLanes n s.core d) ∧
    Does (.qlCodeword n true msg check) s fun t =>
      let r := s.boardRx n
      let o := r.decode n false w
      t = { s with boards := t.boards } ∧
        t.boardRx n = { r.step o with turned := if (r.step o).lock = r.lock then r.turned else s.core.now } ∧
        (t.board n).uncS = (s.board n).uncS + (if o.cw = .uncorrectable then 1 else 0) ∧
        ((s.boardTx n).since < 3 → (s.board n).loop ≠ 3 → t.boards.out = s.boards.out) ∧
        (3 ≤ (s.boardTx n).since → ∃ sym l, t.boards.out = { port := n, kind := 0x600, fields := sym } :: l ∧ sym.length = 528)

/-- A lane's attempt (R289, R290): HELLO takes DETECT to TRAIN, DONE takes TRAIN to LOCK, 1 ms without an uncorrectable codeword
takes LOCK to ACTIVE with 0x0702; FAIL ends in FAILED, a third failed attempt in DOWN, which tries again each second. -/
def Sys2Proof.Claims.LaneTraining : Prop :=
  ∀ (n : Fin 64) (s : State),
    let st := s.core.f (F.QLN_STATE_STATE n)
    (∀ arg : BitVec 48, st = 1 → bit arg.toNat 41 = true → Runs (.qlHelloRx n arg) s fun d =>
      d.f (F.QLN_STATE_STATE n) = 2 ∧ d.fb (F.QLN_STATE_BOARD_LOCK n) = true ∧ OtherLanes n s.core d) ∧
    (∀ arg : BitVec 48, st = 2 → bit arg.toNat 35 = false → bit arg.toNat 36 = true → Runs (.qlTapReqRx n arg) s fun d =>
      d.f (F.QLN_STATE_STATE n) = 3 ∧ d.f (F.QLN_STATE_FOM n) = bits arg.toNat 40 8 ∧ OtherLanes n s.core d) ∧
    (∀ arg : BitVec 48, st = 2 → bit arg.toNat 35 = true → Runs (.qlTapReqRx n arg) s fun d =>
      d.f (F.QLN_STATE_STATE n) = 6 ∧ Posts s.core d 0x0703 n (s.core.f (F.QLN_STATE_ATTEMPT n) * 16 + 4) ∧ OtherLanes n s.core d) ∧
    (1 ≤ st → st ≤ 3 → (s.core.lane n).since + 20 * msec ≤ s.core.now → Runs (.qlStepTimeout n) s fun d =>
      d.f (F.QLN_STATE_STATE n) = (if (s.core.lane n).fails < 2 then 1 else 5) ∧
      Posts s.core d 0x0703 n (s.core.f (F.QLN_STATE_ATTEMPT n) * 16 + st) ∧ OtherLanes n s.core d) ∧
    (st = 3 → max (s.core.lane n).since ((s.core.lane n).uncAt.headD 0) + msec ≤ s.core.now → Runs (.qlLockTimer n) s fun d =>
      d.f (F.QLN_STATE_STATE n) = 4 ∧ (d.lane n).fails = 0 ∧ (∃ fom, Posts s.core d 0x0702 n fom) ∧ OtherLanes n s.core d) ∧
    (st = 5 → (s.core.lane n).since + sec ≤ s.core.now → Runs (.qlDownRetry n) s fun d =>
      d.f (F.QLN_STATE_STATE n) = 1 ∧ d.f (F.QLN_STATE_ATTEMPT n) = 1 ∧ OtherLanes n s.core d)

/-- A lane's registers (R268, R271, R289, R290, R292, R296): EN starts it, at the RATE then in force, or returns it to electrical
idle, where its upstream receiver keeps its lock; a lane in TEST stays there; RETRAIN starts it anew from ACTIVE or FAILED, and a test
of a lane that carries no line puts it into TEST, with a LOOP message that awaits its ACK where the board loops (R278, R295). -/
def Sys2Proof.Claims.LaneControls : Prop :=
  ∀ (n : Fin 64) (s : State),
    (∀ v : Word, Answers s.core (R.QLN_CFG n) → s.core.f (F.QLN_STATE_STATE n) ≠ 7 →
      (s.core.fb (F.QLN_CFG_EN n) = false → bit v.toNat 0 = true → Runs (.qlCfgWrite n v) s fun d =>
        d.f (F.QLN_STATE_STATE n) = 1 ∧ d.fb (F.QLN_CFG_EN n) = true ∧ (d.lane n).rate = d.f (F.QLN_CFG_RATE n) ∧
        OtherLanes n s.core d) ∧
      (s.core.fb (F.QLN_CFG_EN n) = true → bit v.toNat 0 = false → Runs (.qlCfgWrite n v) s fun d =>
        d.f (F.QLN_STATE_STATE n) = 0 ∧ d.fb (F.QLN_CFG_EN n) = false ∧
        d.fb (F.QLN_STATE_UP_LOCK n) = s.core.fb (F.QLN_STATE_UP_LOCK n) ∧ OtherLanes n s.core d)) ∧
    (∀ v : Word, Answers s.core (R.QLN_CFG n) → s.core.f (F.QLN_STATE_STATE n) = 7 → Runs (.qlCfgWrite n v) s fun d =>
      d.f (F.QLN_STATE_STATE n) = 7 ∧ d.n (R.QLN_CFG n) = v.toNat % 512 ∧
      Core.Only [R.QLN_CFG n] (s.core.resvNote (R.QLN_CFG n) v) d) ∧
    (Answers s.core (R.QLN_CTRL n) →
      (s.core.laneActive n = true → Runs (.qlRetrain n) s fun d => d.f (F.QLN_STATE_STATE n) = 1 ∧
        Posts s.core d 0x0701 n 4 ∧ OtherLanes n s.core d) ∧
      (s.core.f (F.QLN_STATE_STATE n) = 6 → Runs (.qlRetrain n) s fun d => d.f (F.QLN_STATE_STATE n) = 1 ∧
        d.f (F.QLN_STATE_ATTEMPT n) = 1 ∧ OtherLanes n s.core d)) ∧
    (∀ v : Word, Answers s.core (R.QLN_TEST n) → s.core.laneIdle n = true → s.core.f (F.QLN_STATE_STATE n) ≠ 7 →
      bit v.toNat 2 = true → Runs (.qlTestWrite n v) s fun d => d.f (F.QLN_STATE_STATE n) = 7 ∧
        d.fb (F.QLN_TEST_GEN n) = true ∧ OtherLanes n s.core d ∧
        (let k := bits v.toNat 4 3
         k = 3 ∨ k = 4 → s.core.f (F.QLN_TEST_LOOP n) ≠ k →
          (d.lane n).mgmt.getLast? = some { op := 5, arg := k * 2 ^ 45 })) ∧
    (∀ arg : BitVec 48, s.core.f (F.QLN_TEST_LOOP n) = 4 → s.core.fb (F.QLN_TEST_CHK n) = true → bit arg.toNat 41 = false →
      Runs (.qlFrameCheckRx n arg) s fun d => d.r (R.QLN_PRBS_ERR n) = s.core.r (R.QLN_PRBS_ERR n) + 1 ∧
        Core.Only [R.QLN_PRBS_ERR n] { s.core with lanes := d.lanes, out := d.out } d)

/-- Lanes trained and controlled. -/
def Obligations.LanesRun : Prop := Claims.LaneTraining ∧ Claims.LaneControls

/-- Management messages (R278): an ACK takes its message off the lane; that of a REC_WRITE makes the record the last verified one
(R316), or gives it up with 0x0809; that of a SELECT posts 0x0705 (R294); one that answers nothing changes nothing. A gap on a lane that
is ACTIVE or in TEST sends each message again, and the ninth time gives it up with 0x0710. -/
def Sys2Proof.Claims.ManagementMessages : Prop :=
  ∀ (n : Fin 64) (s : State),
    let u := s.core.lane n
    (∀ arg : BitVec 48,
      let op := bits arg.toNat 40 8
      let result := bits arg.toNat 32 8
      (u.mgmt.find? (fun m => m.op = op) = none → Runs (.qlAckRx n arg) s fun d => d = s.core) ∧
      ∀ m, u.mgmt.find? (fun m => m.op = op) = some m →
        let h := m.arg / 2 ^ 38
        let seq := ((s.core.head h).seq + 1) % 2 ^ 32
        let at_ := s.core.n64 R.HH_REC_BASE_LO + 64 * h
        (op ≠ 4 → op ≠ 6 → Runs (.qlAckRx n arg) s fun d =>
          d = s.core.setLane n { u with mgmt := u.mgmt.erase m, ready := if m.setup then s.core.now else u.ready }) ∧
        (op = 4 → Runs (.qlAckRx n arg) s fun d => (d.lane n).mgmt = u.mgmt.erase m ∧ d.web = s.core.web ∧ d.job = s.core.job ∧
          d.heads = s.core.heads ∧ (result = 0 → Posts s.core d 0x0705 (m.arg / 2 ^ 42) (m.arg / 2 ^ 42))) ∧
        (op = 6 → result ≠ 0 → Runs (.qlAckRx n arg) s fun d => (d.lane n).mgmt = u.mgmt.erase m ∧
          d.head h = { s.core.head h with writing := none, fired := true } ∧ Posts s.core d 0x0809 h seq) ∧
        (∀ bytes, op = 6 → result = 0 → (s.core.head h).writing = some bytes → Runs (.qlAckRx n arg) s fun d =>
          d.head h = { s.core.head h with writing := none, seq := seq } ∧
          (at_ + bytes.length ≤ s.core.dramTop → d.regs = s.core.regs ∧
            Tab.getList (fun _ => (0 : Byte)) d.mem.dram at_ bytes.length = bytes) ∧
          (bytes ≠ [] → s.core.dramTop < at_ + bytes.length → Posts s.core d 0x0911 31 (max at_ s.core.dramTop / 256)) ∧
          (d.lane n).mgmt = u.mgmt.erase m)) ∧
    (s.core.f (F.QLN_STATE_STATE n) = 4 ∨ s.core.f (F.QLN_STATE_STATE n) = 7 → Runs (.mgmtResend n) s fun d =>
      let again := (u.mgmt.filter fun m => decide (m.tries < 8)).map (fun m => { m with tries := m.tries + 1 })
      (d.lane n).mgmt = again ∧ (∀ m ∈ u.mgmt, 8 ≤ m.tries → Posts s.core d 0x0710 n m.op) ∧
      ((∀ m ∈ u.mgmt, m.tries < 8) → s.core.muted = false → d.out = (again.map fun m => ⟨n, m.op, s.core.mgmtFields m⟩).reverse ++ s.core.out) ∧
      d.web = s.core.web ∧ d.job = s.core.job)

/-- What the boards report of their links and lines: the locks, and MODE with 0x0704 at a change to MIRROR (R293); a lost primary input
takes an ACTIVE lane to DETECT with cause 1 (R292); the line fired with its fallbacks and losses (R280). -/
def Sys2Proof.Claims.LinksReported : Prop :=
  ∀ (n : Fin 64) (s : State),
    (∀ arg : BitVec 48,
      let g := bits arg.toNat 42 6
      let mode := bits arg.toNat 40 2
      let lock := bit arg.toNat 39
      bit arg.toNat 38 = true → bits arg.toNat 30 8 = 0 →
      (lock = true → Runs (.qlLinkRx n arg) s fun d => d.fb (F.QLN_STATE_BOARD_LOCK g) = true ∧
        d.pairBit R.QL_MIRRONLY_LO g = decide (mode = 1) ∧ (d.group g).mode = mode ∧
        (mode = 1 → s.core.pairBit R.QL_MIRRONLY_LO g = false → Posts s.core d 0x0704 g g) ∧
        d.web = s.core.web ∧ d.job = s.core.job) ∧
      (lock = false → s.core.laneActive g = true → Runs (.qlLinkRx n arg) s fun d => d.fb (F.QLN_STATE_BOARD_LOCK g) = false ∧
        d.f (F.QLN_STATE_STATE g) = 1 ∧ Posts s.core d 0x0701 g 1 ∧ d.web = s.core.web ∧ d.job = s.core.job)) ∧
    (∀ f : BitVec 56, let g := bits f.toNat 50 6
      s.core.f (F.QLN_STATE_STATE n) ≠ 0 → s.core.replay = false → Runs (.qlStatusRx n f) s fun d =>
        d.r (R.QLN_FALLBACK g) = s.core.r (R.QLN_FALLBACK g) + BitVec.ofNat 32 (bits f.toNat 27 7) ∧
        d.r (R.QLN_LOST g) = s.core.r (R.QLN_LOST g) + BitVec.ofNat 32 (bits f.toNat 20 7) ∧
        d.f (F.QLN_LAST_TAG_TAG g) = bits f.toNat 34 16 ∧ d.f (F.QLN_STATE_FOM g) = bits f.toNat 12 8 ∧
        d.web = s.core.web ∧ d.job = s.core.job)

/-- What the boards report of their heads: the temperatures of those that no sensor input serves (R281, R299), and usage records, taken
when their tag verifies, adopted where they are new and ADOPT_EN allows, else refused with 0x0808 (R315); a record whose CRC fails, or
on a lane that is not ACTIVE, is none (log entry 42). -/
def Sys2Proof.Claims.HeadsReported : Prop :=
  ∀ (n : Fin 64) (f : BitVec 56) (s : State),
    let h := bits f.toNat 46 10
    (let h2 := bits f.toNat 20 10
     let both := bit f.toNat 3
     RunsDerated (.qlTempRx n f) s fun d => d.web = s.core.web ∧ d.job = s.core.job ∧
      (∀ j v, (j = h ∧ v = bits f.toNat 30 16 ∧ (both = false ∨ h ≠ h2)) ∨ (both = true ∧ j = h2 ∧ v = bits f.toNat 4 16) →
        s.core.tsOf j = none →
        (d.head j).own = sext 16 v ∧ (d.head j).delivered = some s.core.now ∧ d.fb (F.HH_THETA_STALE j) = false) ∧
      ∀ j, s.core.tsOf j ≠ none ∨ (j ≠ h ∧ (both = false ∨ j ≠ h2)) → (d.head j).own = (s.core.head j).own) ∧
    ∀ (data : List Byte) (crc : Word),
      let l := slice data 0 64
      let whole := crc32c (leBytes 8 (0xF5 * 2 ^ 56 + f.toNat) ++ l) = crc
      let verified := bit f.toNat 45 = true ∧ slice l 56 8 = s.core.recTag l
      let new := bit f.toNat 45 = true ∧ bit (le l 11 1) 0 = true ∧ slice l 56 8 = List.replicate 8 0 ∧
        slice l 16 16 = List.replicate 16 0 ∧ s.core.fb F.HH_CFG_ADOPT_EN = true
      let known := (s.core.head h).valid = true ∧ (s.core.head h).uid = le l 0 8
      let taken (d : Core) : Prop := (d.head h).valid = true ∧
        (known → (d.head h).seq = max (s.core.head h).seq (le l 12 4) ∧ (d.head h).drops = (s.core.head h).drops) ∧
        (¬ known → (d.head h).seq = le l 12 4 ∧ (d.head h).drops = le l 16 8) ∧ d.fb (F.HH_THETA_REC_VALID h) = true ∧ d.fb (F.HH_THETA_REC_AUTH_FAIL h) = false
      (s.core.laneActive n = false ∨ ¬ whole → Runs (.qlRecordRx n f data crc) s fun d => d = s.core) ∧
      (s.core.laneActive n = true → whole → Runs (.qlRecordRx n f data crc) s fun d => d.web = s.core.web ∧ d.job = s.core.job ∧
        (verified → taken d) ∧
        (¬ verified → new → taken d ∧ Posts s.core d 0x0807 h (le l 0 4)) ∧
        (¬ verified → ¬ new → (d.head h).valid = false ∧ d.fb (F.HH_THETA_REC_AUTH_FAIL h) = true ∧
          d.fb (F.HH_THETA_REC_VALID h) = false ∧ Posts s.core d 0x0808 h (le l 0 4)))

/-- Messages between the device and its head boards. -/
def Obligations.BoardsSaid : Prop := Claims.ManagementMessages ∧ Claims.LinksReported ∧ Claims.HeadsReported

/-! ### Head boards -/

/-- `exec` answers a next state that differs in the head boards alone, and among them in the board of a group alone. -/
def Sys2Proof.Claims.OnBoard (g : Nat) (i : Instr) (s : State) (P : Board → List Msg → Prop) : Prop :=
  Does i s fun t => t = { s with boards := t.boards } ∧ (∀ h, h ≠ g → t.board h = s.board h) ∧ P (t.board g) t.boards.out

/-- One message more has gone upstream on lane `g`: a block of a TYPE with its fields. -/
def Sys2Proof.Claims.Sent (g kind fields : Nat) (before after : List Msg) : Prop :=
  after = { port := g, kind := kind, fields := [(fields : Int)] } :: before

/-- A board's lines (R283, R284): a line start opens a receiving line with its tag; a good primary frame of the only receiving
line is taken from the primary copy; a FIRE edge fires the awaiting line with the codes and delays of R285, and EMPTY says in
STATUS that none waited. -/
def Obligations.BoardLines : Prop :=
  ∀ (g : Fin 64) (s : State),
    let b := s.board g
    (∀ (mirror : Bool) (f : BitVec 56), (if mirror then bit f.toNat 6 else bit f.toNat 7) = true →
      OnBoard g (.boardLineStart g mirror f) s fun b' out => out = s.boards.out ∧
        ∃ l ∈ b'.recv, l.s16 = bits f.toNat 40 16 ∧ (if mirror then l.m else l.p) = true) ∧
    (∀ (fh : BitVec 64) (crc : Word) (words : List (BitVec 64)) (l : BoardLine),
      let k := bits fh.toNat 43 6
      b.loop ≠ 4 → b.mode ≠ 1 → b.recv = [l] → l.p = true → l.held = [] → Tab.get (fun _ => 0) l.frames k = 0 →
      words.length = 32 → crc.toNat = (crc32c (leBytes 8 fh.toNat ++ words.flatMap fun w => leBytes 8 w.toNat)).toNat →
      bits fh.toNat 25 16 = l.s16 → bits fh.toNat 50 6 = g.val → bit fh.toNat 49 = false →
      OnBoard g (.boardFrame g false fh words crc 0 false) s fun b' out => out = s.boards.out ∧
        ∃ l', (b'.recv = [l'] ∨ b'.await = some l') ∧ l'.s16 = l.s16 ∧
          Tab.get (fun _ => 0) l'.frames k = 1 ∧
          l'.codes = (l.take k 1 (bits fh.toNat 41 1) (frameCodes (bit fh.toNat 42) k words)).codes) ∧
    (∀ l, b.await = some l → b.badLoad = [] → OnBoard g (.boardFire g) s fun b' out => b'.await = none ∧
        b'.fired.map (fun x => (x.1, x.2.1)) = l.codes.map (fun e => (e.1, e.2.toNat)) ∧
        (∀ x ∈ b'.fired, x.2.2.1 =
          min (2 ^ 20 - 1) ((Tab.get (fun _ => 0) b.banks (l.bank * 512 + x.1 / 64) * l.recip + 2 ^ 23) / 2 ^ 24) + 128) ∧
        ∃ v, Sent g 0xF2 v s.boards.out out ∧ bit v 8 = false) ∧
    (b.await = none → OnBoard g (.boardFire g) s fun b' out => b'.await = none ∧ b'.fired = [] ∧
        ∃ v, Sent g 0xF2 v s.boards.out out ∧ bit v 8 = true)

/-- A board's settings (R277-R279, R286, R287, R291, R295): each message takes effect on the board of its group and is
acknowledged where R278 says so. -/
def Sys2Proof.Claims.BoardSettings : Prop :=
  ∀ (g : Fin 64) (arg : BitVec 48) (s : State),
    let b := s.board g
    let a := arg.toNat
    let acked (op result : Nat) (out : List Msg) : Prop :=
      Sent g 0xF4 (3 * 2 ^ 48 + op * 2 ^ 40 + result * 2 ^ 32) s.boards.out out
    (OnBoard g (.boardTapAck g arg) s fun b' out => out = s.boards.out ∧
      b' = { b with taps := (bits a 44 4, bits a 39 5, bits a 33 6), atLimit := decide (bits a 31 2 = 1) }) ∧
    (OnBoard g (.boardHeadId g arg) s fun b' out => acked 2 0 out ∧
      b' = { b with slots := b'.slots } ∧
      Tab.get (fun _ => none) b'.slots (bits a 37 5) = (if bit a 26 then some (bits a 27 10) else none)) ∧
    (OnBoard g (.boardWaveSel g arg) s fun b' out => acked 3 0 out ∧
      b' = { b with waveNext := b.waveNext ++ [(bits a 38 10, bits a 18 16, bits a 34 4)] }) ∧
    (OnBoard g (.boardLoop g arg) s fun b' out => acked 5 0 out ∧ b' = { b with loop := bits a 45 3 }) ∧
    (∀ (data : List Byte) (crc : Word),
      let good := crc32c (leBytes 8 (0xF4 * 2 ^ 56 + 6 * 2 ^ 48 + a) ++ slice data 0 64) = crc
      OnBoard g (.boardRecWrite g arg data crc) s fun b' out => b' = { b with records := b'.records } ∧
        (good → acked 6 0 out ∧ Tab.get (fun _ => []) b'.records (bits a 38 10) = slice data 0 64) ∧
        (¬ good → acked 6 1 out ∧ b' = b)) ∧
    (∀ (f : BitVec 56) (words : List (BitVec 64)) (crc : Word),
      let bank := bits f.toNat 48 1
      let good := words.length = 128 ∧ crc32c (leBytes 8 (0xF3 * 2 ^ 56 + f.toNat) ++ words.flatMap fun w => leBytes 8 w.toNat) = crc
      OnBoard g (.boardBankLoad g f words crc) s fun b' out => out = s.boards.out ∧
        b' = { b with banks := b'.banks, badLoad := b'.badLoad } ∧
        (Tab.get (fun _ => false) b'.badLoad (2 * bank + bits f.toNat 49 1) = true ↔ ¬ good) ∧
        (good → ∀ j, j < 512 →
          Tab.get (fun _ => 0) b'.banks (bank * 512 + j) = bits (words.getD (j / 4) 0).toNat (16 * (j % 4)) 16) ∧
        (¬ good → b'.banks = b.banks))

/-- A board's modes (R288): MIRROR when a primary input that has delivered is lost, PRIMARY_ONLY when the mirror is lost in AUTO,
AUTO again when it relocks or at SELECT AUTO; an input is lost after 1 µs out of lock, and relocks after 1 ms in it; a SELECT of
a MODE that R278 does not list changes nothing (log entry 59); a reset leaves the stored records alone, and its receivers out of
lock (R287). -/
def Sys2Proof.Claims.BoardModes : Prop :=
  ∀ (g : Fin 64) (s : State),
    let b := s.board g
    let other := Nat.xor g 32
    (s.inputHeld g false usec = true → b.delivered = true → OnBoard g (.boardInputLoss g false) s fun b' _ => b'.mode = 1) ∧
    (s.inputHeld g false usec = false ∨ b.delivered = false → OnBoard g (.boardInputLoss g false) s fun b' out =>
      b' = b ∧ out = s.boards.out) ∧
    (s.inputHeld other false usec = true → b.mode = 0 → OnBoard g (.boardInputLoss g true) s fun b' _ => b'.mode = 2) ∧
    (s.inputHeld other false usec = false ∨ b.mode ≠ 0 → OnBoard g (.boardInputLoss g true) s fun b' out =>
      b' = b ∧ out = s.boards.out) ∧
    (s.inputHeld other true msec = true → b.mode = 2 → OnBoard g (.boardMirrorRelock g) s fun b' _ => b'.mode = 0) ∧
    (s.inputHeld other true msec = false ∨ b.mode ≠ 2 → OnBoard g (.boardMirrorRelock g) s fun b' out =>
      b' = b ∧ out = s.boards.out) ∧
    (∀ arg : BitVec 48,
      (bits arg.toNat 40 2 ≤ 1 → OnBoard g (.boardSelect g arg) s fun b' _ => b'.mode = bits arg.toNat 40 2 ∧
        b'.delivered = false) ∧
      (1 < bits arg.toNat 40 2 → OnBoard g (.boardSelect g arg) s fun b' out => b' = b ∧
        Sent g 0xF4 (3 * 2 ^ 48 + 4 * 2 ^ 40 + 2 * 2 ^ 32) s.boards.out out)) ∧
    (Does (.boardReset g) s fun t => t = { s with boards := t.boards } ∧ t.boards.out = s.boards.out ∧
      (∀ h, (t.board h).records = (s.board h).records) ∧ ∀ h ∈ s.upstreams g,
        t.board h = { records := (s.board h).records } ∧ t.boardRx h = { turned := s.core.now } ∧ t.boardTx h = freshTx h)

/-- What a head board is told, and its modes. -/
def Obligations.BoardsSet : Prop := Claims.BoardSettings ∧ Claims.BoardModes

/-- What a board sends of itself: its temperatures on every upstream (R281), a stored record (R282, R287), and tap requests, in
ACTIVE at most one a millisecond (R291). -/
def Obligations.BoardSends : Prop :=
  ∀ (g : Fin 64) (s : State),
    let b := s.board g
    (∀ temps : List (BitVec 16), OnBoard g (.boardTempReport g temps) s fun b' out => b' = b ∧
      ∃ l, out = l ++ s.boards.out ∧ (∀ m ∈ l, m.kind = 0xF3 ∧ m.port ∈ s.upstreams g) ∧
        l.length = (s.upstreams g).length * ((min b.heads.length temps.length + 1) / 2)) ∧
    (∀ arg : BitVec 48, OnBoard g (.boardRecRead g arg) s fun b' out => b' = b ∧
      ∃ l, out = l ++ { port := g, kind := 0xF4, fields := [((3 * 2 ^ 48 + 7 * 2 ^ 40 : Nat) : Int)] } :: s.boards.out ∧
        ∃ m ∈ l, m.kind = 0xF5 ∧ m.port = g.val) ∧
    (∀ arg : BitVec 48, (s.core.laneActive g = false ∨ b.tapAt = none) → OnBoard g (.boardTapRequest g arg) s fun b' out =>
      b'.fom = bits arg.toNat 40 8 ∧ Sent g 0xF4 (2 ^ 48 + arg.toNat) s.boards.out out) ∧
    (∀ (arg : BitVec 48) (t : Nat), s.core.laneActive g = true → b.tapAt = some t → s.core.now < t + msec →
      OnBoard g (.boardTapRequest g arg) s fun b' out => b' = b ∧ out = s.boards.out)

/-! ### Memory -/

/-- The registers that the refresh management of accesses may change (R328, R329, R342, R343). -/
def Sys2Proof.Claims.rfmRegs (ranks : List Nat) : List Nat :=
  [R.MEM_RFM_CNT, R.MEM_THROTTLE_CNT, R.MEM_STAT] ++ ranks.flatMap fun i => [R.MEMR_DRIFT i, R.MEMR_STAT i]

/-- Accesses of the memory (R324, R329, R330, R344): those that wait are offered first; one that must wait is kept; else a read below
C - M that meets no poison returns the bytes, a write changes the bytes it stores to and no others (while the logbook writes none); at
or above C - M it changes nothing, with MEM_DECODE_ERR_CNT and 0x0911 for each burst. -/
def Sys2Proof.Claims.MemoryAccessed : Prop :=
  ∀ (req : Fin 64) (pa : BitVec 39) (s : State),
    let a := pa.toNat
    let c := s.core.releaseHeld
    let only (d : Core) : Prop :=
      Core.Only (Claims.rfmRegs ((List.range 16) ++ c.mem.migs.map (·.spare))) { c with mem := d.mem, lastRead := d.lastRead } d ∧
      d.mem.held = c.mem.held ∧ d.mem.migs = c.mem.migs ∧ d.mem.last = some (req.val, c.memClass req)
    (s.core.mem.held = [] → s.core.mem.todo = [] → c = { s.core with mem := { s.core.mem with
      dirty := s.core.mem.dirty.filter fun x => s.core.inSlice x.1 } }) ∧
    (∀ n err (data : List Byte) crc, c.reqCut req = true →
      Runs (.dramRead req pa n err) s (fun d => d = c) ∧ Runs (.dramWrite req pa data crc) s (fun d => d = c)) ∧
    (∀ n err, let w : MemAccess := { req := req, pa := a, n := n, err := err }
      c.reqCut req = false → bursts a n ≠ [] → c.accessGoes w c.mem.held = 0 → Runs (.dramRead req pa n err) s fun d =>
        d = { c with mem := { c.mem with held := c.mem.held ++ [w] } }) ∧
    (∀ n l, c.reqCut req = false → c.rd a n = some l → c.accessWaits { req := req, pa := a, n := n } = false →
      Runs (.dramRead req pa n .clean) s fun d => only d ∧
      (c.logging = false → d.lastRead = ofLe l ∧ d.mem.dram = c.mem.dram ∧ d.mem.poison = c.mem.poison)) ∧
    (∀ data : List Byte, c.reqCut req = false →
      let w (crc : CrcFails) : MemAccess := { req := req, pa := a, n := data.length, data := some data, crc := crc }
      (∀ crc, bursts a data.length ≠ [] → c.accessGoes (w crc) c.mem.held = 0 → Runs (.dramWrite req pa data crc) s fun d =>
        d = { c with mem := { c.mem with held := c.mem.held ++ [w crc] } }) ∧
      (a + data.length ≤ c.dramTop → c.accessWaits (w {}) = false → Runs (.dramWrite req pa data {}) s fun d => only d ∧
        Tab.getList (fun _ => (0 : Byte)) d.mem.dram a data.length = data ∧
        (c.logging = false → ∀ x, x < a ∨ a + data.length ≤ x →
          Tab.get (fun _ => (0 : Byte)) d.mem.dram x = Tab.get (fun _ => 0) c.mem.dram x)) ∧
      (∀ crc, data ≠ [] → c.dramTop ≤ a → c.accessWaits (w crc) = false → Runs (.dramWrite req pa data crc) s fun d =>
        d.r R.MEM_DECODE_ERR_CNT = c.r R.MEM_DECODE_ERR_CNT + BitVec.ofNat 32 (bursts a data.length).length ∧
        Posts c d 0x0911 31 (a / 256) ∧ Core.Only [R.MEM_DECODE_ERR_CNT] { c with mem := d.mem } d ∧
        (c.logging = false → d.mem = { c.mem with last := some (req.val, c.memClass req) })) ∧
      (a < c.dramTop → c.dramTop < a + data.length → c.accessWaits (w {}) = false → c.logging = false →
        Runs (.dramWrite req pa data {}) s fun d => Posts c d 0x0911 31 (c.dramTop / 256) ∧
          (∀ x, x < a ∨ c.dramTop ≤ x → Tab.get (fun _ => (0 : Byte)) d.mem.dram x = Tab.get (fun _ => 0) c.mem.dram x) ∧
          Tab.getList (fun _ => (0 : Byte)) d.mem.dram a (c.dramTop - a) = data.take (c.dramTop - a)))

/-- Refresh, the rate codes and the patrol (R326, R327, R331, R334): a REFsb that is due issues with those postponed, waits behind
a real-time burst up to three times and is forced the fourth; a code beyond the 2x rate is reported; the patrol goes on to the next
burst and counts what it corrects. None of them comes before its time, or while the DRAM refreshes itself (R319; log entry 62). -/
def Sys2Proof.Claims.MemoryRefreshed : Prop :=
  ∀ (c r : Fin 4) (s : State),
    let k := s.core
    let i := 4 * c.val + r.val
    let nat (t : Tab Nat) : Nat := Tab.get (fun _ => 0) t i
    let p := nat k.mem.postponed
    let regs := [R.MEMR_DRIFT i, R.MEMR_STAT i, R.MEM_STAT, R.MEM_FORCED_REF_CNT]
    (k.rankState i ≠ 0 → k.selfRefresh = false → nat k.mem.refAt ≤ k.now → k.mem.todo = [] →
      (Runs (.refreshDue c r false) s fun d => nat d.mem.postponed = 0 ∧
        nat d.mem.refBank = (nat k.mem.refBank + p + 1) % 4 ∧ d.r R.MEM_FORCED_REF_CNT = k.r R.MEM_FORCED_REF_CNT ∧
        nat d.mem.refAt = nextDue (nat k.mem.refAt) (k.tRefi i / 4) k.now ∧ Core.Only regs { k with mem := d.mem } d) ∧
      (p < 3 → Runs (.refreshDue c r true) s fun d => nat d.mem.postponed = p + 1 ∧
        d = { k with mem := { k.mem with postponed := d.mem.postponed, refAt := d.mem.refAt } }) ∧
      (3 ≤ p → Runs (.refreshDue c r true) s fun d => nat d.mem.postponed = 3 ∧
        nat d.mem.refBank = (nat k.mem.refBank + 1) % 4 ∧
        d.r R.MEM_FORCED_REF_CNT = k.r R.MEM_FORCED_REF_CNT + 1 ∧ Core.Only regs { k with mem := d.mem } d)) ∧
    (∀ blocked, k.rankState i = 0 ∨ k.selfRefresh = true ∨ k.now < nat k.mem.refAt →
      Runs (.refreshDue c r blocked) s fun d => d = k) ∧
    (∀ codes : List (BitVec 3),
      (k.selfRefresh = true ∨ k.now < k.mem.mr4At → Runs (.mr4Poll codes) s fun d => d = k) ∧
      (k.selfRefresh = false → k.mem.mr4At ≤ k.now → Runs (.mr4Poll codes) s fun d =>
        d.mem.mr4At = nextDue k.mem.mr4At msec k.now ∧
        Core.Only ((List.range 16).map R.MEMR_STAT) { k with mem := { k.mem with mr4At := d.mem.mr4At } } d ∧
        ∀ j, j < 16 → d.rankState j = k.rankState j ∧ (k.rankState j ≠ 0 →
          d.f (F.MEMR_STAT_MR4_RATE j) = (codes.getD j 0).toNat ∧
          (4 < (codes.getD j 0).toNat → Posts k d 0x090F j (codes.getD j 0).toNat)))) ∧
    let at_ := memBurstD k.mem.cfg c.val (k.f (F.MEMR_STAT_SERVES i)) (nat k.mem.scrub)
    let on := nat k.mem.scrub + 1 < memRankBytes k.mem.cfg / 64
    let next := if on then nat k.mem.scrub + 1 else 0
    let rests := k.selfRefresh || !k.scrubDue i || k.inSlice i || !k.bgMay c || k.bgHeld i at_
    (∀ err, rests = true → Runs (.patrolScrub c r err) s fun d => d = k) ∧
    (rests = false →
      (k.rankState i = 1 ∨ k.rankState i = 2 → Runs (.patrolScrub c r .clean) s fun d => nat d.mem.scrub = next ∧
        (on → d.mem.scrubAt = k.mem.scrubAt) ∧ d.mem.last = some (53, k.memClass 53) ∧
        Core.Only (Claims.rfmRegs [i]) { k with mem := d.mem } d) ∧
      (k.rankState i = 1 → k.isPoison (k.memPa at_ / 64) = false → Runs (.patrolScrub c r .corrected) s fun d =>
        nat d.mem.scrub = next ∧ d.r (R.MEMR_CE_CNT i) = k.r (R.MEMR_CE_CNT i) + 1 ∧
        d.r R.MEM_CE_CNT = k.r R.MEM_CE_CNT + 1 ∧ d.n (R.MEMR_LAST_ERR_LO i) = at_ % 2 ^ 32 ∧
        d.web = k.web ∧ d.job = k.job))

/-- Memory accessed, refreshed and patrolled. -/
def Obligations.MemoryUsed : Prop := Claims.MemoryAccessed ∧ Claims.MemoryRefreshed

/-- A migration copies block after block, none before the time that its share of the channel gives it, and with the last one the
spare serves in the rank's place with 0x0906 (R325, R336-R338); a returned rank is a spare again, or stays out, with its training
counted (R340). -/
def Sys2Proof.Claims.RanksMoved : Prop :=
  ∀ s : State,
    (∀ (c : Fin 4) (m : Mig), s.core.mem.migs.find? (fun m => m.rank / 4 = c.val) = some m →
      let d0 := memBurstD s.core.mem.cfg c.val (s.core.f (F.MEMR_STAT_SERVES m.rank)) (64 * m.ptr)
      let may := s.core.bgMay c = true ∧ (s.core.memPa d0 < s.core.mirTop → s.core.bgMay (s.core.partnerRank m.rank / 4) = true)
      (∀ errs, ¬ may → Runs (.migrationBlock c errs) s fun d => d = s.core) ∧
      (may → (m.ptr + 1) * 4096 < memRankBytes s.core.mem.cfg → m.rank < 16 → m.spare < 16 → Runs (.migrationBlock c []) s fun d =>
        d.mem.migs = s.core.mem.migs.replace m { m with ptr := m.ptr + 1 } ∧ d.mem.dram = s.core.mem.dram ∧
        d.mem.last = some (53, s.core.memClass 53) ∧ d.f (F.MEMR_MIG_PTR_MIB m.rank) = (m.ptr + 1) / 256 % 2 ^ 16 ∧
        Core.Only (R.MEMR_MIG_PTR m.rank :: Claims.rfmRegs (List.range 16)) { s.core with mem := d.mem } d) ∧
      (may → memRankBytes s.core.mem.cfg ≤ (m.ptr + 1) * 4096 → m.spare < 16 → m.spare ≠ m.rank →
        Runs (.migrationBlock c []) s fun d =>
        d.rankState m.spare = 1 ∧ d.f (F.MEMR_STAT_SERVES m.spare) = s.core.f (F.MEMR_STAT_SERVES m.rank) ∧
        d.rankState m.rank = 4 ∧ bit (d.f F.UMP_ISOL_RANK_RANK) m.rank = true ∧ Posts s.core d 0x0906 m.rank m.spare ∧
        (∀ j, j < 16 → j ≠ m.rank → j ≠ m.spare → d.rankState j = s.core.rankState j) ∧
        d.web = s.core.web ∧ d.job = s.core.job)) ∧
    (∀ (c r : Fin 4) (res : Fin 3), let i := 4 * c.val + r.val
      s.core.mem.testing.contains i = true → s.core.rankState i = 6 → Runs (.rankReturnDone c r res) s fun d =>
        d.rankState i = (if res.val = 0 then 2 else 4) ∧ Posts s.core d 0x0907 i res ∧
        (if res.val = 1 then d.mem.trained = s.core.mem.trained ∧ d.mem.driftPend = s.core.mem.driftPend ∧
            d.r (R.MEMR_TRAIN_CNT i) = s.core.r (R.MEMR_TRAIN_CNT i)
          else Tab.get (fun _ => 0) d.mem.trained i = s.core.now ∧ d.f (F.MEMR_DRIFT_DRIFT i) = 0 ∧
            d.r (R.MEMR_TRAIN_CNT i) = s.core.r (R.MEMR_TRAIN_CNT i) + 1) ∧
        Core.Only [R.MEMR_STAT i, R.UMP_ISOL_RANK, R.MEM_STAT, R.UMP_STAT, R.MEMR_DRIFT i, R.MEMR_TRAIN_CNT i]
          { s.core with mem := { s.core.mem with testing := s.core.mem.testing.erase i, trained := d.mem.trained
                                                 driftPend := d.mem.driftPend } } d)

/-- Drift and training (R341-R345): a change that reaches STEP waits for the next REFsb; retraining runs in slices at least 100 µs
apart, none while it may not run, and reports its end; a write of MEM_LOOP that switches the loopback off takes effect, with the errors
counted until then; and what a training under way ends in. -/
def Sys2Proof.Claims.MemoryTrained : Prop :=
  ∀ (c r : Fin 4) (s : State),
    let k := s.core
    let i := 4 * c.val + r.val
    let v := k.retrainOf i
    let at_ := Tab.get (fun _ => 0) k.mem.driftAt i
    let stat (d : Core) : Prop := Core.Only [R.MEMR_STAT i, R.MEM_STAT]
      { k with mem := { k.mem with retrain := d.mem.retrain, dirty := d.mem.dirty } } d
    (∀ delay : BitVec 16, let p := delay.toInt - k.fs (F.MEMR_DRIFT_DRIFT i)
      (k.rankState i ≠ 1 ∨ k.selfRefresh = true ∨ k.now < at_ → Runs (.driftCheck c r delay) s fun d => d = k) ∧
      (k.rankState i = 1 → k.selfRefresh = false → at_ ≤ k.now → Runs (.driftCheck c r delay) s fun d =>
        Tab.get (fun _ => (0 : Int)) d.mem.driftPend i =
          (if k.f F.MEM_DRIFT_STEP ≤ p.natAbs then p else Tab.get (fun _ => (0 : Int)) k.mem.driftPend i) ∧
        Tab.get (fun _ => 0) d.mem.driftAt i = nextDue at_ (100 * msec) k.now ∧
        d = { k with mem := { k.mem with driftPend := d.mem.driftPend, driftAt := d.mem.driftAt } })) ∧
    (∀ last step, k.rankState i ≠ 1 → v.running = true ∨ v.waiting = true → Runs (.retrainSlice c r last step) s fun d =>
      d.retrainOf i = { v with running := false, waiting := false } ∧ Posts k d 0x090E i 0 ∧ stat d) ∧
    (∀ last step, k.rankState i = 1 → k.mayRetrain i = false → Runs (.retrainSlice c r last step) s fun d => d = k) ∧
    (∀ last step, k.rankState i = 1 → v.waiting = true → k.mayRetrain i = true → Runs (.retrainSlice c r last step) s fun d =>
      d.retrainOf i = { v with running := true, waiting := false } ∧ d.fb (F.MEMR_STAT_RETRAINING i) = true ∧ stat d) ∧
    (k.rankState i = 1 → k.mayRetrain i = true → v.waiting = false → v.running = true → k.mem.todo = [] →
      (∀ t, v.lastSlice = some t → t + 100 * usec ≤ k.now) →
      let slice : Retrain := { lastSlice := some k.now, sliceTo := k.now + 10 * usec }
      (v.slices + 1 < 3000 → Runs (.retrainSlice c r false 0) s fun d =>
        d.retrainOf i = { slice with slices := v.slices + 1, running := true } ∧ d.inSlice i = true ∧
        (∀ x ∈ d.mem.dirty, x.1 ≠ i) ∧ stat d) ∧
      (Runs (.retrainSlice c r true 0) s fun d => d.retrainOf i = slice ∧ d.fb (F.MEMR_STAT_RETRAINING i) = false ∧
        d.f (F.MEMR_DRIFT_DRIFT i) = 0 ∧ d.r (R.MEMR_TRAIN_CNT i) = k.r (R.MEMR_TRAIN_CNT i) + 1 ∧
        Posts k d 0x090D i (v.slices + 1) ∧ d.web = k.web ∧ d.job = k.job) ∧
      (∀ (last : Bool) (step : Fin 8), step ≠ 0 → Runs (.retrainSlice c r last step) s fun d => d.retrainOf i = slice ∧
        Posts k d 0x090E i step ∧ d.r (R.MEMR_TRAIN_CNT i) = k.r (R.MEMR_TRAIN_CNT i) ∧ stat d)) ∧
    (v.running = false → v.waiting = false → k.rankState i = 1 → k.f F.MEM_DRIFT_INT ≠ 0 →
      Tab.get (fun _ => 0) k.mem.trained i + k.f F.MEM_DRIFT_INT * 3600 * sec ≤ k.now → Runs (.retrainInterval c r) s fun d =>
        d.retrainOf i = { v with slices := 0, running := k.mayRetrain i, waiting := !k.mayRetrain i } ∧ stat d) ∧
    (∀ w : LoopWrite, Answers k R.MEM_LOOP → w.v &&& 3 = 0 → Runs (.memLoopWrite w) s fun d =>
      let counted := if k.f F.MEM_LOOP_DEPTH = 0 then k else k.addN R.MEM_LOOP_ERR w.errs
      Core.Quiet ((counted.resvNote R.MEM_LOOP w.v).setN R.MEM_LOOP (w.v.toNat % 128)) d) ∧
    (∀ a, k.asyncOf 0x70 = some a →
      let ended (d : Core) (status : Nat) : Prop := d.hi.async = k.hi.async.erase a ∧
        Posts k d 0x0A10 0x70 (a.seq * 65536 + a.sq % 8 * 8192 + status) ∧ d.web = k.web ∧ d.job = k.job
      let wrong (d : Core) : Prop := d.f F.MEM_STAT_INIT = 3 ∧ d.f F.MEM_STAT_ERR = 2 ∧ ended d rBadParam
      Runs (.memInitDone .geometry) s wrong ∧
      (Runs (.memInitDone .failed) s fun d => d.f F.MEM_STAT_INIT = 3 ∧ d.f F.MEM_STAT_ERR = 3 ∧ ended d rHwFault) ∧
      (∀ failed raaimt raammt, memReserved k.mem.cfg = true → Runs (.memInitDone (.trained failed raaimt raammt)) s wrong) ∧
      (∀ raaimt raammt, memReserved k.mem.cfg = false → regsF k.mem.cfg F.MEM_CFG_SPARE = 0 →
        Runs (.memInitDone (.trained [] raaimt raammt)) s fun d => d.f F.MEM_STAT_INIT = 2 ∧ d.mem.raammt = raammt ∧
        d.f F.MEM_SIZE_GIB = (memCap k.mem.cfg / 2 ^ 30 - regsF k.mem.cfg F.MEM_MIR_SIZE_GIB) % 1024 ∧ ended d rDone ∧
        ∀ ch rk, ch < 4 → rk < 2 ^ memLogA k.mem.cfg → d.rankState (4 * ch + rk) = 1 ∧
          d.f (F.MEMR_STAT_SERVES (4 * ch + rk)) = rk))

/-- Ranks moved, trained and returned. -/
def Obligations.RanksServed : Prop := Claims.RanksMoved ∧ Claims.MemoryTrained

/-! ### The host interface -/

/-- The doorbells (R358, R359, R361, R373): a tail below the size makes packets visible; a head within the span frees slots, and a reply
that waited goes out, which ends the wait for one of a command with BARRIER; one out of range is counted with 0x0A03 and ignored. -/
def Sys2Proof.Claims.DoorbellsRung : Prop :=
  ∀ (n : Fin 8) (v : Word) (s : State),
    let c := s.core
    let b (off : Nat) : Core := c.resvNote off v
    let counted (i : Instr) (off src : Nat) : Prop := Runs i s fun d =>
      d.r R.HI_DB_ERR_CNT = c.r R.HI_DB_ERR_CNT + 1 ∧ Posts c d 0x0A03 src v.toNat ∧ Core.Only [R.HI_DB_ERR_CNT] (b off) d
    (Answers c (R.SQ_TAIL n) →
      (v.toNat % 4096 < c.sqSize n → Runs (.sqDoorbell n v) s fun d =>
        d.sq n = { c.sq n with tail := v.toNat % 4096 } ∧ (∀ m, m ≠ n.val → d.sq m = c.sq m) ∧
        Core.Quiet { b (R.SQ_TAIL n) with hi := { c.hi with sqs := d.hi.sqs } } d) ∧
      (c.sqSize n ≤ v.toNat % 4096 → counted (.sqDoorbell n v) (R.SQ_TAIL n) n)) ∧
    (Answers c (R.CQ_HEAD n) →
      let u := c.cq n
      let h := v.toNat % 4096
      let size := c.cqSize n
      let adv := (h + size - u.head % size) % size
      let past := if c.hi.barrier = some n.val then none else c.hi.barrier
      (h < size → adv ≤ u.used → u.held = [] → Runs (.cqDoorbell n v) s fun d =>
        d.cq n = { u with head := h, used := u.used - adv, fullPosted := false } ∧ (∀ m, m ≠ n.val → d.cq m = c.cq m) ∧
        Core.Quiet { b (R.CQ_HEAD n) with hi := { c.hi with cqs := d.hi.cqs, barrier := past } } d) ∧
      (∀ e q, h < size → adv ≤ u.used → u.used - adv < size → u.held = [(e, q)] → e.length = 16 →
        Runs (.cqDoorbell n v) s fun d => (d.cq n).held = [] ∧ (d.cq n).head = h ∧ (d.cq n).used = u.used - adv + 1 ∧
          d.f (F.CQ_TAIL_TAIL n) = (c.f (F.CQ_TAIL_TAIL n) + 1) % size ∧
          d.rdHost (c.n64 (R.CQ_BASE_LO n) + 16 * c.f (F.CQ_TAIL_TAIL n)) 15 = e.take 15 ∧ d.hi.barrier = past ∧ d.web = c.web ∧ d.job = c.job) ∧
      (size ≤ h ∨ u.used < adv → counted (.cqDoorbell n v) (R.CQ_HEAD n) (8 + n))) ∧
    (Answers c R.EV_HEAD →
      let h := v.toNat % 65536
      let used := if h = c.hi.evHead then c.hi.evUsed else (c.f F.EV_TAIL_TAIL + c.evSize - h) % c.evSize
      (h < c.evSize → c.hi.evDropped = 0 → Runs (.evHeadWrite v) s fun d =>
        d.hi.evHead = h ∧ d.hi.evUsed = used ∧ Core.Quiet { b R.EV_HEAD with hi := { c.hi with evHead := h } } d) ∧
      (h < c.evSize → c.hi.evDropped ≠ 0 → used < c.evSize → c.fb F.EV_CFG_EN = true → Runs (.evHeadWrite v) s fun d =>
        d.hi.evHead = h ∧ d.hi.evUsed = used + 1 ∧ d.hi.evDropped = 0 ∧ Posts c d 0x0A05 31 c.hi.evDropped ∧
        Core.Quiet { b R.EV_HEAD with hi := { c.hi with evHead := h } } d) ∧
      (c.evSize ≤ h → counted (.evHeadWrite v) R.EV_HEAD 16))

/-- Enabling and disabling queues (R354): an enabled queue starts empty, its SIZE_M1 and CQ stay while it is enabled, an SQ does not
start on a disabled CQ, and a CQ with enabled SQs stays enabled; a reply that a disabled CQ held is waited for no more (R361). -/
def Sys2Proof.Claims.QueuesEnabled : Prop :=
  ∀ (n : Fin 8) (v : Word) (s : State),
    let c := s.core
    let size := bits v.toNat 1 12
    let cq := bits v.toNat 13 3
    let b := c.resvNote (R.SQ_CFG n) v
    let b' := c.resvNote (R.CQ_CFG n) v
    (Answers c (R.SQ_CFG n) →
      (c.fb (F.SQ_CFG_EN n) = false → bit v.toNat 0 = true → c.fb (F.CQ_CFG_EN cq) = true → Runs (.sqCfgWrite n v) s fun d =>
        d.fb (F.SQ_CFG_EN n) = true ∧ d.f (F.SQ_CFG_SIZE_M1 n) = size ∧ d.f (F.SQ_CFG_CQ n) = cq ∧
        d.f (F.SQ_HEAD_HEAD n) = 0 ∧ d.sq n = {} ∧
        Core.Only [R.SQ_CFG n, R.SQ_HEAD n] { b with hi := { c.hi with sqs := d.hi.sqs } } d) ∧
      (c.fb (F.SQ_CFG_EN n) = false → bit v.toNat 0 = true → c.fb (F.CQ_CFG_EN cq) = false → Runs (.sqCfgWrite n v) s fun d =>
        d.fb (F.SQ_CFG_EN n) = false ∧ d.r R.HI_DB_ERR_CNT = c.r R.HI_DB_ERR_CNT + 1 ∧ Posts c d 0x0A03 n v.toNat ∧
        Core.Only [R.SQ_CFG n, R.HI_DB_ERR_CNT] b d) ∧
      (c.fb (F.SQ_CFG_EN n) = true → Runs (.sqCfgWrite n v) s fun d =>
        d.fb (F.SQ_CFG_EN n) = bit v.toNat 0 ∧ d.f (F.SQ_CFG_SIZE_M1 n) = c.f (F.SQ_CFG_SIZE_M1 n) ∧
        d.f (F.SQ_CFG_CQ n) = c.f (F.SQ_CFG_CQ n) ∧ Core.Only [R.SQ_CFG n] b d)) ∧
    (Answers c (R.CQ_CFG n) →
      let set (d : Core) : Prop := d.f (F.CQ_CFG_VEC n) = bits v.toNat 13 6 ∧ d.fb (F.CQ_CFG_IRQ_EN n) = bit v.toNat 19 ∧
        d.f (F.CQ_CFG_COUNT n) = bits v.toNat 20 8
      (c.fb (F.CQ_CFG_EN n) = false → bit v.toNat 0 = true → Runs (.cqCfgWrite n v) s fun d =>
        d.fb (F.CQ_CFG_EN n) = true ∧ d.f (F.CQ_CFG_SIZE_M1 n) = size ∧ set d ∧ d.f (F.CQ_TAIL_TAIL n) = 0 ∧
        d.f (F.CQ_TAIL_PHASE n) = 1 ∧ d.cq n = {} ∧
        Core.Only [R.CQ_CFG n, R.CQ_TAIL n] { b' with hi := { c.hi with cqs := d.hi.cqs } } d) ∧
      (c.fb (F.CQ_CFG_EN n) = true → Runs (.cqCfgWrite n v) s fun d =>
        d.fb (F.CQ_CFG_EN n) = (bit v.toNat 0 ||
          (List.range 8).any fun m => c.fb (F.SQ_CFG_EN m) && c.f (F.SQ_CFG_CQ m) == n.val) ∧
        d.f (F.CQ_CFG_SIZE_M1 n) = c.f (F.CQ_CFG_SIZE_M1 n) ∧ set d ∧
        d.hi.barrier = (if d.fb (F.CQ_CFG_EN n) = false ∧ c.hi.barrier = some n.val then none else c.hi.barrier) ∧
        Core.Only [R.CQ_CFG n] { b' with hi := { c.hi with barrier := d.hi.barrier } } d))

/-- Queues enabled, and their doorbells. -/
def Obligations.QueuesServed : Prop := Claims.DoorbellsRung ∧ Claims.QueuesEnabled

/-- A fetch takes the packet at the head of the queue whose turn it is: a NOP is answered with its parameter bytes (R355-R357,
R360), an error that the link corrected is counted (R352), and a packet that BARRIER holds back keeps its turn (R361); one that
fails stops the queue (R352). The time of a source that counts fires its vector (R374); a poisoned write is
counted and discarded (R352); a host reset leaves no queue enabled and no channel running (R353, R435). -/
def Obligations.HostServed : Prop :=
  ∀ s : State,
    let c := s.core
    (∀ n, s.reqs = [] → c.pwr.held = 0 → c.coxRuns = true → c.nextSq = some n →
      (∀ aer : BitVec 8, Runs (.commandFetch (.failed aer)) s fun d => d.fb (F.SQ_CFG_EN n) = false ∧
        d.r R.HI_PCIE_UE_CNT = c.r R.HI_PCIE_UE_CNT + 1 ∧ Posts c d 0x0A07 n (aer.toNat + 256) ∧ d.hi.rr = (n + 1) % 8 ∧
        Core.Only [R.SQ_CFG n, R.HI_PCIE_UE_CNT] { c with hi := { c.hi with rr := d.hi.rr } } d) ∧
      (let l := c.rdHost (c.n64 (R.SQ_BASE_LO n) + 64 * c.f (F.SQ_HEAD_HEAD n)) 64
       let p := packetOf (Fin.ofNat 8 n) l
       (∀ e : FetchErr, (∀ aer, e ≠ .failed aer) → le l 0 1 = 0 → c.mayStart (le l 1 1) = true → c.header 0 p = none →
        Runs (.commandFetch e) s fun d => Replied c d 0 p rDone (slice l 8 8) ∧
          d.f (F.SQ_HEAD_HEAD n) = (c.f (F.SQ_HEAD_HEAD n) + 1) % c.sqSize n ∧ d.hi.rr = (n + 1) % 8 ∧
          d.r R.HI_PCIE_CE_CNT = c.r R.HI_PCIE_CE_CNT + (if e = .corrected then 1 else 0) ∧ Core.Calm c d) ∧
       (c.mayStart (le l 1 1) = false → Runs (.commandFetch .ok) s fun d => d = { c with hi := { c.hi with rr := n } }))) ∧
    (∀ m : Fin 8, let u := c.cq m
      let vec := c.f (F.CQ_CFG_VEC m)
      c.fb (F.CQ_CFG_IRQ_EN m) = true → u.unsig ≠ 0 → u.firstUnsig + c.f (F.CQ_IRQ_TIME_US m) * usec ≤ c.now →
      Runs (.irqTimer (m.castLE (by decide))) s fun d => d.cq m = { u with unsig := 0 } ∧
        (if c.vecMasked vec then bit (d.n (R.MSIX_PBA (vec / 32))) (vec % 32) = true ∧ d.hi.sent = c.hi.sent
          else d.hi.sent = vec :: c.hi.sent) ∧ Core.Quiet { c with hi := { c.hi with cqs := d.hi.cqs } } d) ∧
    (c.fb F.EV_CFG_IRQ_EN = true → c.hi.evUnsig ≠ 0 → c.hi.evFirst + c.f F.EV_IRQ_TIME_US * usec ≤ c.now →
      c.vecMasked (c.f F.EV_CFG_VEC) = false → Runs (.irqTimer 8) s fun d =>
        d.hi = { c.hi with evUnsig := 0, sent := c.f F.EV_CFG_VEC :: c.hi.sent } ∧ Core.Quiet c d) ∧
    (Runs .pciePoisonedWrite s fun d => d = c.inc R.HI_PCIE_UE_CNT) ∧
    (∀ cause : Fin 4, Runs (.hostReset cause) s fun d => d.hi.resetCause = some (min 3 (cause.val + 1)) ∧
      d.fb F.CLK_STAT_PCIE_REFCLK_OK = decide (cause.val ≠ 3) ∧
      Tab.get (fun _ => (0, 0)) d.hi.rdLatch 2 = Tab.get (fun _ => (0, 0)) c.hi.rdLatch 2 ∧
      Tab.get (fun _ => (0, 0)) d.hi.wrStage 2 = Tab.get (fun _ => (0, 0)) c.hi.wrStage 2 ∧ d.hi.waiting = none ∧
      d.hi.barrier = none ∧
      (∀ n, n < 8 → d.fb (F.SQ_CFG_EN n) = false ∧ d.fb (F.CQ_CFG_EN n) = false ∧ d.sq n = {} ∧ d.cq n = {}) ∧
      (∀ n, n < 16 → d.dmaSt n ≠ dRunning ∧ d.dmaSt n ≠ dPaused) ∧ d.n R.COX_EPOCH = c.n R.COX_EPOCH ∧
      d.web = c.web ∧ d.job = c.job ∧ d.heads = c.heads)

/-! ### Commands -/

/-- The command of a packet completes: it is answered with a status and a RESULT, and the core has the property. -/
def Sys2Proof.Claims.Called (i : Instr) (op : Nat) (p : Packet) (s : State) (st : Nat) (res : List Byte)
    (P : Core → Prop) : Prop := Runs i s fun d => Replied s.core d op p st res ∧ P d

/-- Device commands (R383, R384, R369, R484, R491): NOP and IDENTIFY answer and do nothing else, RESET with its key begins the
100 µs, FW_STAGE and FW_ACTIVATE begin their work, COX_SWITCH its switch-over, and SAFE_LEAVE returns to IDLE once the cause has
cleared. -/
def Obligations.DeviceCommands : Prop :=
  ∀ (p : Packet) (s : State),
    let c := s.core
    let q := packetInput p
    (Accepts c 0x00 p → Called (.nop p) 0x00 p s rDone (slice (padTo 8 p.par) 0 8) (Core.Calm c)) ∧
    (Accepts c 0x01 p → Called (.identify p) 0x01 p s rDone (leBytes 4 (c.n R.DEV_COX_VER) ++ leBytes 4 (c.n R.DEV_NIB_VER))
      (Core.Calm c)) ∧
    (Accepts c 0x02 p →
      (q.u32 0 = 0xA55A → Called (.reset p) 0x02 p s rDone [] (Core.Calm (c.start 0x02 q c.now))) ∧
      (q.u32 0 ≠ 0xA55A → Called (.reset p) 0x02 p s rBadParam [] (Core.Calm c))) ∧
    (Accepts c 0x03 p →
      (c.safeCleared = true → Called (.safeLeave p) 0x03 p s rDone [] fun d => d.st = stIdle ∧ d.ump.faultN = false ∧
        d.f F.UMP_STAT_SAFE_CAUSE = 0 ∧ d.fb F.WEB_SRC_LOST = false ∧ Posts c d 0x0A01 31 0x801 ∧ d.job.isOpen = false ∧
        d.job.tof = false ∧ d.web = c.web) ∧
      (c.safeCleared = false → Called (.safeLeave p) 0x03 p s rHwFault [] (Core.Calm c))) ∧
    (Accepts c 0x04 p → c.asyncOf 0x04 = none → c.asyncOf 0x05 = none → le p.par 13 3 = 0 → q.u8 12 ≤ 2 → q.u32 8 ≤ 2 ^ 24 →
      q.u64 0 % 64 = 0 → q.u32 8 % 64 = 0 →
      Called (.fwStage p) 0x04 p s rAccepted [] (Core.Calm (c.start 0x04 q (q.u64 0) (q.u32 8) (q.u8 12)))) ∧
    (∀ v out, Accepts c 0x05 p → c.f F.NIB_STAT_SPARES ≠ 0 → c.fb F.UMP_STAT_STBY_READY = true → c.asyncOf 0x05 = none →
      c.asyncOf 0x04 = none → c.fb F.COX_EPOCH_SWITCHING = false →
      c.selfTesting 1 (1 - c.activeCox) 0 = false → (∃ n, n < 18 ∧ c.nibState n = 0 ∧ c.selfTesting 0 n 0 = false) →
      c.ump.fw.staged = some (v, out) → (c.st = stArmed ∨ c.running = true → out = c.n R.DEV_NIB_OUT) →
      Called (.fwActivate p) 0x05 p s rAccepted [] fun d => d.f F.UMP_FW_STAT_STATE = 1 ∧ d.f F.UMP_FW_STAT_STEP = 0 ∧
        d.ump = { c.ump with fwTodo := c.activeNibs, fwDone := [] } ∧
        d.hi.async = c.hi.async ++ [{ op := 0x05, sq := p.sq.val, seq := p.seq.toNat }] ∧ d.job = c.job ∧ d.web = c.web) ∧
    (Accepts c 0xA1 p → c.fb F.UMP_STAT_STBY_READY = true → c.asyncOf 0xA1 = none → c.f F.UMP_FW_STAT_STATE ≠ 2 →
      c.selfTesting 1 (1 - c.activeCox) 0 = false →
      Called (.coxSwitch p) 0xA1 p s rAccepted [] (Core.Calm (c.start 0xA1 q)))

/-- The shadow's tables (R157, R164, R181, R385, R386): a load takes the bytes read from DRAM into the shadow alone, or replies MEMORY
where they decode to nothing (R324), and a revert,
once done, sets the shadow as the configuration in force. -/
def Sys2Proof.Claims.TableCommands : Prop :=
  ∀ (p : Packet) (s : State),
    let c := s.core
    let q := packetInput p
    let t := c.job.shadow
    let into (u : Tables) (d : Core) : Prop := Core.Calm (c.setShadow u) d
    (∀ l, Accepts c 0x10 p → c.mayReach (q.u64 0) 82720 = true → q.u64 0 % 64 = 0 →
      (c.taken 0x10 p).rd (q.u64 0) 82720 = some l → Called (.colourLoad p) 0x10 p s rDone [] fun d =>
        into { t with lattice := d.job.shadow.lattice, curves := d.job.shadow.curves } d ∧
        (∀ j, j < 39304 → Tab.get (fun _ => 0) d.job.shadow.lattice j = le l (2 * j) 2) ∧
        (∀ j, j < 2056 → Tab.get curveReset d.job.shadow.curves j = le l (2 * (39304 + j)) 2)) ∧
    (Accepts c 0x10 p → c.mayReach (q.u64 0) 82720 = false → q.u64 0 % 64 = 0 → Called (.colourLoad p) 0x10 p s rMemory [] fun d =>
      d.job = c.job ∧ d.web = c.web ∧ Posts c d 0x0911 31 (c.overAt (q.u64 0) 82720 / 256)) ∧
    (∀ l, let w := q.u16 2
      let h := q.u16 4
      Accepts c 0x11 p → q.u8 1 = 0 → q.u16 6 = 0 → q.u8 0 < 8 → 8 ≤ w → w ≤ 256 → 8 ≤ h → h ≤ 256 → q.u64 8 % 64 = 0 →
      c.mayReach (q.u64 8) (w * h * 2) = true → (c.taken 0x11 p).rd (q.u64 8) (w * h * 2) = some l →
      Called (.screenLoad p) 0x11 p s rDone [] fun d => into { t with screens := d.job.shadow.screens } d ∧
        ∀ k, Tab.get (fun _ => ({} : Screen)) d.job.shadow.screens k =
          if k = q.u8 0 then { w := w, h := h, thr := pairs16 l } else Tab.get (fun _ => {}) t.screens k) ∧
    (∀ l, let n := q.u16 8
      Accepts c 0x40 p → q.u16 10 = 0 → 1 ≤ n → n ≤ 4096 → c.mayReach (q.u64 0) (16 * n) = true →
      (c.taken 0x40 p).rd (q.u64 0) (16 * n) = some l →
      Called (.nozzleMapLoad p) 0x40 p s rDone (leBytes 2 n) fun d => into { t with map := d.job.shadow.map } d ∧
        d.job.shadow.map = (List.range n).map fun j => runOf (slice l (16 * j) 16)) ∧
    (Accepts c 0x12 p → c.asyncOf 0x12 = none → Called (.shadowRevert p) 0x12 p s rAccepted [] (Core.Calm (c.start 0x12 q))) ∧
    (∀ a, c.asyncOf 0x12 = some a →
      let g : Gen := if c.job.isOpen && !c.job.committed then {} else c.newest
      Runs .shadowRevertDone s fun d => d.job = { c.job with shadow := g.tabs } ∧ d.hi.async = c.hi.async.erase a ∧
        Posts c d 0x0A10 0x12 (a.seq * 65536 + a.sq % 8 * 8192) ∧ d.web = c.web ∧ d.heads = c.heads)

/-- Surfaces and panels (R109, R111, R121, R389): a descriptor that passes its checks registers the surface, making it resident begins
its digest, its end makes it resident, a release frees it, and a panel takes the next repeat of its layer. -/
def Sys2Proof.Claims.SurfaceCommands : Prop :=
  ∀ (p : Packet) (s : State),
    let c := s.core
    let q := packetInput p
    let id := q.u16 0
    (Accepts c 0x22 p → checks (c.surfChecks q) = none → Called (.surfRegister p) 0x22 p s rDone []
      (Core.Calm (c.setSurf id (surfOf q)))) ∧
    (Accepts c 0x23 p → id < 1024 → (c.surf id).digesting = false → (c.surf id).state = 1 → (c.surf id).tiled = false →
      Called (.surfResident p) 0x23 p s rAccepted []
        (Core.Calm ((c.setSurf id { c.surf id with digesting := true }).start 0x23 q id))) ∧
    (∀ (n : Fin 1024) (a : Async) (l : List Byte), c.hi.async.find? (fun a => a.op = 0x23 ∧ a.a = n.val) = some a →
      (c.surfBytes (c.surf n)).2 = some l → Runs (.surfResidentDone n) s fun d =>
        d.surf n = { c.surf n with digesting := false, state := 2 } ∧ (∀ m, m ≠ n.val → d.surf m = c.surf m) ∧
        d.hi.async = c.hi.async.erase a ∧ Posts c d 0x0309 31 n ∧ d.web = c.web ∧ d.heads = c.heads) ∧
    (Accepts c 0x24 p → id < 1024 → (c.surf id).state ≠ 0 → (c.surf id).digesting = false → c.surfNamed id = false →
      Called (.surfRelease p) 0x24 p s rDone [] (Core.Calm (c.setSurf id {}))) ∧
    (Accepts c 0x25 p → checks (c.panelChecks q) = none →
      let n := q.u8 0
      let k := c.advanceK c.newest (c.decidedRepeats c.newest) (c.n (R.LAY_QNEXT n))
      Called (.panelQueue p) 0x25 p s rDone (leBytes 6 (c.newest.lk k) ++ leBytes 2 k) fun d =>
        (d.layer n).panels = (c.layer n).panels ++
          [{ k := k, surf := q.u16 2, exps := [q.u32 4, q.u32 8, q.u32 12, q.u32 16], valid := q.u8 1 }] ∧
        d.r (R.LAY_QNEXT n) = BitVec.ofNat 32 (k + 1) ∧ (∀ m, m ≠ n → d.layer m = c.layer m) ∧ d.web = c.web ∧
        d.heads = c.heads)

/-- Commands of tables and surfaces. -/
def Obligations.ContentCommands : Prop := Claims.TableCommands ∧ Claims.SurfaceCommands

/-- Job commands outside a crew (R369-R371, R379, R388, R390, R391): the state each leaves, BUSY for a second ABORT, and what a COMMIT that is accepted or refused
answers (R125, R126). -/
def Obligations.JobCommands : Prop :=
  ∀ (p : Packet) (s : State),
    let c := s.core
    let q := packetInput p
    let went (d : Core) (old new : Nat) : Prop := d.st = new ∧ Posts c d 0x0A01 31 (old * 256 + new) ∧ d.web = c.web
    c.formed = false →
    (Accepts c 0x20 p → Called (.jobOpen p) 0x20 p s rDone [] fun d => went d stIdle stReady ∧ d.job.isOpen = true ∧
      d.job.id = q.u32 0 ∧ d.job.committed = false ∧ d.job.gens = [] ∧ d.newest = c.newest) ∧
    (Accepts c 0x21 p → Called (.jobClose p) 0x21 p s rDone [] fun d => went d stReady stIdle ∧ d.job.isOpen = false ∧
      d.job.gens = [] ∧ d.newest = c.newest ∧ ∀ n, n < 8 → (d.layer n).panels = []) ∧
    (Accepts c 0x31 p → c.job.committed = true → q.u8 0 ≤ 1 → le p.par 1 7 = 0 → c.newest.n64 R.WEB_PITCH_LO ≠ 0 →
      Called (.arm p) 0x31 p s rDone [] fun d => went d stReady stArmed ∧
        d.job = { c.job with byPos := decide (q.u8 0 = 1), pos := sext 64 (q.u64 8), trig := false }) ∧
    (Accepts c 0x32 p → Called (.tof p) 0x32 p s rDone [] (Core.Calm { c with job := { c.job with trig := true } })) ∧
    (Accepts c 0x33 p → Called (.disarm p) 0x33 p s rDone [] fun d => went d stArmed stReady ∧
      d.job = { c.job with trig := false }) ∧
    (Accepts c 0x34 p → c.job.aborting = true → Called (.abort p) 0x34 p s rBusy [] (Core.Calm c)) ∧
    (Accepts c 0x34 p → c.job.aborting = false →
      (c.st = stArmed → Called (.abort p) 0x34 p s rDone [] fun d => went d stArmed stReady ∧
        d.job = { c.job with trig := false }) ∧
      (c.st = stPrinting → Called (.abort p) 0x34 p s rAccepted []
        (Core.Calm { c with job := { c.job with aborting := true, abortLast := c.web.s + 1 } })) ∧
      (c.st = stHold → Called (.abort p) 0x34 p s rAccepted [] fun d => went d stHold stReady ∧ d.job.tof = false ∧
        d.job.aborting = false)) ∧
    (∀ st le', Accepts c 0x30 p → q.u8 7 = 0 → c.commitJudge c.shadowGen (q.u8 6) (le p.par 0 6) (q.u32 8) q.strict = (st, le') →
      (st = rDone ∨ st = rDeferred → Called (.commit p) 0x30 p s st (commitResult le' ((c.job.genNum + 1) % 256)) fun d =>
        d.newest.le = le' ∧ d.newest.num = (c.job.genNum + 1) % 256 ∧ d.newest.tabs = c.job.shadow ∧ d.job.committed = true ∧
        d.st = c.st) ∧
      (st ≠ rDone → st ≠ rDeferred → Called (.commit p) 0x30 p s st [] fun d => d.job = c.job ∧ d.web = c.web ∧ d.st = c.st))

/-- Commands of the tests and heads (R102, R104, R105, R305, R309, R312, R315, R392, R393): SERVICE is entered and left, a test begins
and is asked to stop, verdicts go into the shadow, and blanks, latches and records are cleared or read anew. -/
def Obligations.ServiceCommands : Prop :=
  ∀ (p : Packet) (s : State),
    let c := s.core
    let q := packetInput p
    let begun (d : Core) (mode bars period lines surf code : Nat) : Prop := (∃ t, d.test = some t ∧ t.mode = mode ∧
      t.bars = bars ∧ t.period = period ∧ t.lines = lines ∧ t.surf = surf ∧ t.code = code ∧ t.fired = 0 ∧ t.stop = false ∧
      t.start = c.now) ∧ d.fb F.FIRE_TEST_STAT_RUNNING = true ∧ d.web = c.web ∧ d.job = c.job ∧ d.st = c.st
    (Accepts c 0x41 p → Called (.serviceEnter p) 0x41 p s rDone [] fun d => d.st = stService ∧
      Posts c d 0x0A01 31 (256 + 6) ∧ d.job = c.job ∧ d.web = c.web) ∧
    (Accepts c 0x42 p → Called (.serviceLeave p) 0x42 p s rDone [] fun d => d.st = stIdle ∧ d.test = none ∧
      Posts c d 0x0A01 31 (6 * 256 + 1) ∧ d.job = c.job ∧ d.web = c.web) ∧
    (Accepts c 0x43 p → q.u8 2 = 0 → checks (c.patternChecks q) = none → Called (.testFire p) 0x43 p s rAccepted [] fun d =>
      begun d 0 (q.u16 0) (q.u32 4) (q.u32 8) (q.u16 12) 0) ∧
    (Accepts c 0x43 p → q.u8 2 = 1 → checks (c.gateTestChecks q) = none → Called (.testFire p) 0x43 p s rAccepted [] fun d =>
      begun d 1 c.gateBars (c.f F.GT_PERIOD_NS) 0 0 (c.f F.GT_CFG_CODE) ∧ d.f F.GT_STAT_GATES = c.gates.length ∧
      d.fb F.GT_STAT_RUNNING = true) ∧
    (Accepts c 0x44 p → checks (c.spitChecks q) = none → Called (.spit p) 0x44 p s rAccepted [] fun d =>
      begun d 2 (q.u16 0) (q.u32 4) (q.u32 8) 0 (q.u8 2)) ∧
    (Accepts c 0x45 p → Called (.testStop p) 0x45 p s rDone []
      (Core.Calm { c with test := c.test.map fun t => { t with stop := true } })) ∧
    (Accepts c 0x46 p → (∀ t, c.test = some t → t.mode ≠ 1) → q.u8 2 ≤ 1 → q.u8 3 = 0 →
      let nz := ((List.range 16).filter (bit (q.u16 0))).flatMap c.newest.barNozzles
      let at_ (n : Nat) : Nat := c.n64 R.GT_RES_BASE_LO + 8 * n
      (∀ n ∈ nz, c.mayReach (at_ n) 8 = true ∧ ((c.taken 0x46 p).rd (at_ n) 8).isSome = true) →
      ∃ k, Called (.gateApply p) 0x46 p s rDone (leBytes 4 k) fun d =>
        Core.Calm (c.setShadow { c.job.shadow with nz := d.job.shadow.nz }) d ∧
        (∀ n, n ∉ nz → Tab.get nzReset d.job.shadow.nz n = Tab.get nzReset c.job.shadow.nz n) ∧
        ∀ n ∈ nz, ∀ l, (c.taken 0x46 p).rd (at_ n) 1 = some l →
          (Tab.get nzReset d.job.shadow.nz n).toNat / 2 ^ 30 =
            gateState (le l 0 1 % 4) ((Tab.get nzReset c.job.shadow.nz n).toNat / 2 ^ 30) (bit (q.u8 2) 0)) ∧
    (Accepts c 0x47 p → q.u16 0 < 1024 →
      ((c.head (q.u16 0)).blankTemp = false → Called (.headUnblank p) 0x47 p s rDone [] (Core.Calm c)) ∧
      (∀ b, (c.head (q.u16 0)).blankTemp = true → c.newest.headBar (q.u16 0) = some b →
        c.theta (q.u16 0) ≤ c.fs (F.HH_BAR_TEMP_LIMIT b) - c.f (F.HH_BAR_CFG_HYST b) →
        Called (.headUnblank p) 0x47 p s rDone []
          (Core.Calm (c.setHead (q.u16 0) { c.head (q.u16 0) with clearing := true })))) ∧
    (Accepts c 0x48 p → (∀ b, b < 16 → bit (q.u16 0) b = true → (c.bar b).genStuck = false) →
      Called (.wdClear p) 0x48 p s rDone [] fun d => d.web = c.web ∧ d.job = c.job ∧ d.st = c.st ∧
        ∀ b, b < 16 → d.latched b = (c.latched b && !bit (q.u16 0) b)) ∧
    (∀ n, Accepts c 0x49 p → c.asyncOf 0x49 = none → q.u16 0 < 1024 → c.headLane (q.u16 0) = some n →
      Called (.recRefresh p) 0x49 p s rAccepted [] fun d => (d.lane n).mgmt = (c.lane n).mgmt ++ [{ op := 7, arg := q.u16 0 * 2 ^ 38 }] ∧
        Core.Calm { c.start 0x49 q (q.u16 0) with lanes := d.lanes, out := d.out } d)

/-- Loops and cameras (R247, R248, R251, R255, R394): PF_CLEAR begins, and at its end its records are cleared; LOOP_SUSPEND holds the
loops; exposure sets, defect maps and shading grids are taken as read; a select waits for its frame; a sensor register is written or
read. -/
def Obligations.CameraCommands : Prop :=
  ∀ (p : Packet) (s : State),
    let c := s.core
    let q := packetInput p
    let n := q.u8 0
    let u := c.cam n
    (Accepts c 0x50 p → c.asyncOf 0x50 = none → q.u8 1 ≤ 7 → q.u16 2 = 0 →
      Called (.pfClear p) 0x50 p s rAccepted [] (Core.Calm (c.start 0x50 q (q.u8 0) (q.u8 1)))) ∧
    (∀ a, c.asyncOf 0x50 = some a → Runs .pfClearDone s fun d => d.hi.async = c.hi.async.erase a ∧
      Posts c d 0x0A10 0x50 (a.seq * 65536 + a.sq % 8 * 8192) ∧ d.web = c.web ∧ d.job = c.job ∧
      (a.b = 1 → (∀ m v, (m, v) ∈ d.pf.nth → bit a.a (m / 262144) = false) ∧ d.pf.targets = c.pf.targets)) ∧
    (Accepts c 0x51 p → q.u8 0 ≤ 1 → q.u8 1 = 0 → q.u16 2 = 0 → Called (.loopSuspend p) 0x51 p s rDone []
      (Core.Calm { c with pf := { c.pf with suspended := bit (q.u8 0) 0 } })) ∧
    (∀ l, let j := q.u8 1
      Accepts c 0x60 p → n < 4 → j < 8 → le p.par 2 6 = 0 → c.f (F.CAM_STATUS_EXPSET n) ≠ j → j ∉ u.selects →
      (∀ x ∈ u.sched, x.1 ≠ j) → c.mayReach (q.u64 8) 64 = true → (c.taken 0x60 p).rd (q.u64 8) 64 = some l →
      le l 6 1 ≤ 14 → le l 7 1 = 0 → (∀ i, i < 14 → le l (11 + 4 * i) 1 = 0) →
      let e : ExpSet := ⟨le l 0 4, le l 4 2, (List.range (le l 6 1)).map fun i => (le l (8 + 4 * i) 2, le l (10 + 4 * i) 1)⟩
      Called (.expLoad p) 0x60 p s rDone [] (Core.Calm (c.setCam n { u with sets := Tab.set (fun _ => {}) u.sets j e }))) ∧
    (Accepts c 0x61 p → n < 4 → q.u8 1 < 8 → Called (.expSelect p) 0x61 p s rAccepted [] fun d =>
      (d.cam n) = { u with selects := u.selects ++ [q.u8 1] } ∧ d.fb (F.CAM_STATUS_EXP_PENDING n) = true ∧
      (∀ m, m ≠ n → d.cam m = c.cam m) ∧ d.web = c.web ∧ d.job = c.job) ∧
    (∀ rd, Accepts c 0x62 p → n < 4 → u.selects = [] → q.u8 1 ≤ 1 → q.u8 5 = 0 →
      Called (.sensorAccess p rd true) 0x62 p s rHwFault [] (Core.Calm c) ∧
      let wide := c.fb (F.CAM_SENSOR_ADDR16 n)
      let put (d : Core) (read : Nat) (data : List Nat) : Prop := Core.Calm { c with out := d.out } d ∧
        d.out = { port := n, kind := 0x300, fields := ([c.f (F.CAM_SENSOR_I2C_ADDR n), read, if wide then 2 else 1,
          if wide then q.u16 2 else q.u16 2 % 256] ++ data).map Int.ofNat } :: c.out
      (q.u8 1 = 0 → Called (.sensorAccess p rd false) 0x62 p s rDone [rd] fun d => put d 1 []) ∧
      (q.u8 1 = 1 → Called (.sensorAccess p rd false) 0x62 p s rDone (leBytes 1 (q.u8 4)) fun d => put d 0 [q.u8 4])) ∧
    (∀ l, Accepts c 0x63 p → q.u8 1 = 0 → q.u32 4 = 0 → n < 4 → q.u16 2 ≤ 8192 → c.mayReach (q.u64 8) (4 * q.u16 2) = true →
      (c.taken 0x63 p).rd (q.u64 8) (4 * q.u16 2) = some l → Called (.dpcLoad p) 0x63 p s rDone []
        (Core.Calm (c.setCam n { u with mapNext := some ((List.range (q.u16 2)).map fun i =>
          (le l (4 * i) 2, le l (4 * i + 2) 2)) }))) ∧
    (∀ l, Accepts c 0x64 p → le p.par 1 7 = 0 → n < 4 → c.mayReach (q.u64 8) 6600 = true →
      (c.taken 0x64 p).rd (q.u64 8) 6600 = some l → Called (.shadingLoad p) 0x64 p s rDone []
        (Core.Calm (c.setCam n { u with gridNext := some (pairs16 l) })))

/-- Commands of the memory, the clock, the logbook and the units (R341, R343, R379, R396, R397, R399, R454, R503, R504,
R517): each accepted or done with its effect, BUSY where a unit is under test or returns, and what an export and a self test end in. -/
def Obligations.SystemCommands : Prop :=
  ∀ (p : Packet) (s : State),
    let c := s.core
    let q := packetInput p
    let cls := q.u8 0
    let idx := q.u8 1
    let sub := q.u8 2
    let t := memCfgRegs.foldl (fun t o => Tab.set regReset t o (c.r o)) []
    (Accepts c 0x70 p → (∀ e ∈ c.job.surfs, e.2.state = 0) → c.asyncOf 0x70 = none → (∀ i, i < 16 → c.rankTaken i = false) →
      (memRefused t = false → Called (.memInit p) 0x70 p s rAccepted [] fun d => d.f F.MEM_STAT_INIT = 1 ∧
        d.f F.MEM_STAT_ERR = 0 ∧ d.mem = { cfg := t } ∧ (∀ j, j < 16 → d.rankState j = 0) ∧
        d.hi.async = (c.start 0x70 q).hi.async ∧ d.job = c.job ∧ d.web = c.web) ∧
      (memRefused t = true → Called (.memInit p) 0x70 p s rBadParam [] fun d => d.f F.MEM_STAT_INIT = 3 ∧
        d.f F.MEM_STAT_ERR = 1 ∧ d.job = c.job ∧ d.web = c.web)) ∧
    (Accepts c 0x71 p → cls ≤ 3 → idx ≤ 3 → c.rankState (4 * cls + idx) = 1 → (c.retrainOf (4 * cls + idx)).running = false →
      (c.retrainOf (4 * cls + idx)).waiting = false → c.rankTaken (4 * cls + idx) = false → c.asyncOf 0x70 = none →
      Called (.memRetrain p) 0x71 p s rAccepted [] fun d =>
        d.retrainOf (4 * cls + idx) = { c.retrainOf (4 * cls + idx) with
          slices := 0, running := c.mayRetrain (4 * cls + idx), waiting := !c.mayRetrain (4 * cls + idx), asked := true } ∧
        d.web = c.web ∧ d.job = c.job) ∧
    (Accepts c 0x80 p → (c.formed = true → c.isLead = true) → Called (.timeStep p) 0x80 p s rDone [] fun d =>
      (d.clk.time : Int) = ((c.clk.time : Int) + sext 64 (q.u64 0) * 2 ^ 32) % 2 ^ 96 ∧ d.timeState = tAcquiring ∧
      d.r R.TIME_STEP_CNT = c.r R.TIME_STEP_CNT + 1 ∧
      Posts c d 0x0C05 31 (wrap 32 (max (-(2 ^ 31)) (min (2 ^ 31 - 1) (sext 64 (q.u64 0))))) ∧ d.web = c.web ∧ d.job = c.job) ∧
    (Accepts c 0x81 p → (c.formed = true → c.isLead = true ∨ idx = 0) → q.u16 2 = 0 → idx ≤ 2 → (idx ≠ 2 → cls ≤ 1) →
      Called (.ptpMode p) 0x81 p s rDone [] fun d => d.f F.PTP_CFG_MODE = idx ∧ d.clk.ptpPort = cls ∧
        (∀ k, k < 2 → d.ptp k = { heard := c.now }) ∧ (∀ k id, c.parent = some (k, id) → Posts c d 0x0C02 k 0) ∧
        d.f F.TIME_CFG_SRC = (if c.f F.TIME_CFG_SRC = 2 then 2 else if idx = 0 then 0 else 1) ∧ d.clk.time = c.clk.time ∧
        d.web = c.web ∧ d.job = c.job) ∧
    (Accepts c 0x90 p → q.u16 2 = 0 →
      (cls = 0 → idx = 0 → Called (.logCtrl p) 0x90 p s rDone [] fun d => d.fb F.LOG_CFG_RUN = false ∧ Core.Calm c d ∧
        (c.fb F.LOG_CFG_RUN = true → ∃ n, Posts c d 0x0A21 31 n)) ∧
      (cls = 1 → idx ≤ 1 → 16 ≤ c.f F.LOG_SIZE_MIB → c.f F.LOG_SIZE_MIB ≤ 4096 → c.n64 R.LOG_BASE_LO % 2 ^ 20 = 0 →
        c.mayReach (c.n64 R.LOG_BASE_LO) (c.f F.LOG_SIZE_MIB * 2 ^ 20) = true →
        Called (.logCtrl p) 0x90 p s rDone [] fun d => d.fb F.LOG_CFG_RUN = true ∧ d.fb F.LOG_CFG_DATA_EN = bit idx 0 ∧
          Core.Calm c d ∧ ∃ n, Posts c d 0x0A20 31 n) ∧
      (cls = 2 → idx = 0 → c.fb F.LOG_CFG_RUN = true → Called (.logCtrl p) 0x90 p s rDone [] fun d => Core.Calm c d ∧
        d.fb F.LOG_CFG_RUN = true)) ∧
    (let size := c.f F.LOG_SIZE_MIB * 2 ^ 20
     Accepts c 0x91 p → c.asyncOf 0x91 = none → q.u32 20 = 0 → q.u64 0 % 2 ^ 20 = 0 → q.u64 0 ≤ size → q.u32 16 ≤ size →
      q.u64 8 % 64 = 0 → q.u32 16 % 64 = 0 → Called (.logExport p) 0x91 p s rAccepted []
        (Core.Calm (c.start 0x91 q (q.u64 0) (q.u64 8) (q.u32 16)))) ∧
    (∀ a, c.asyncOf 0x91 = some a →
      let at_ (k : Nat) : Nat := c.n64 R.LOG_BASE_LO + (a.a + 64 * k) % max 64 (c.f F.LOG_SIZE_MIB * 2 ^ 20)
      (∀ k, k < a.c / 64 → (c.rd (at_ k) 64).isSome = true) → Runs .logExportDone s fun d =>
        d.hi.async = c.hi.async.erase a ∧ Posts c d 0x0A10 0x91 (a.seq * 65536 + a.sq % 8 * 8192) ∧ d.web = c.web ∧
        d.job = c.job ∧ (c.fb F.EV_CFG_EN = false → ∀ k l, k < a.c / 64 → c.rd (at_ k) 64 = some l →
          d.rdHost (a.b + 64 * k) 64 = l)) ∧
    (Accepts c 0x94 p → q.u8 3 = 0 → unitRange cls idx sub = false → c.selfTesting cls idx sub = false →
      (cls = 0 → c.nibState idx ≠ 1 ∧ c.nibState idx ≠ 2) → (cls = 1 → idx ≠ c.activeCox) →
      (cls < 2 → c.ump.returning.contains (cls, idx) = false ∧ c.asyncOf 0x05 = none) → (cls = 1 → c.asyncOf 0xA1 = none) →
      (cls = 2 → c.rankTaken (4 * idx + sub) = false ∧ c.asyncOf 0x70 = none ∧ c.rankState (4 * idx + sub) ≠ 0 ∧ c.rankState (4 * idx + sub) ≠ 6) → (cls = 3 → c.laneActive idx = true) →
      Called (.selfTest p) 0x94 p s rAccepted [] (Core.Calm (c.start 0x94 q cls idx (if cls = 3 then 1 else sub)))) ∧
    (∀ a ok, c.asyncOf 0x94 = some a → a.a < 3 →
      (ok = true ∨ a.a = 2 ∨ (a.a = 0 ∧ c.nibState a.b ≠ 0) ∨ (a.a = 1 ∧ bit (c.f F.UMP_ISOL_COX_COX) a.b = true) →
        Runs (.selfTestDone ok) s fun d =>
        Posts c d 0x0A10 0x94 (a.seq * 65536 + a.sq % 8 * 8192 + (if ok then rDone else rHwFault)) ∧
        Core.Quiet { c with hi := { c.hi with async := c.hi.async.erase a } } d) ∧
      (a.a = 0 → a.b < 18 → c.nibState a.b = 0 → Runs (.selfTestDone false) s fun d => d.nibState a.b = 3 ∧
        bit (d.f F.UMP_ISOL_NIB_NIB) a.b = true ∧ Posts c d 0x0D01 31 (11 * 65536 + a.b) ∧
        Posts c d 0x0A10 0x94 (a.seq * 65536 + a.sq % 8 * 8192 + rHwFault)) ∧
      (a.a = 1 → a.b = 1 - c.activeCox → bit (c.f F.UMP_ISOL_COX_COX) a.b = false → Runs (.selfTestDone false) s fun d =>
        bit (d.f F.UMP_ISOL_COX_COX) a.b = true ∧ d.fb F.UMP_STAT_STBY_READY = false ∧
        Posts c d 0x0A10 0x94 (a.seq * 65536 + a.sq % 8 * 8192 + rHwFault))) ∧
    (Accepts c 0xA0 p → q.u8 3 = 0 → unitRange cls idx sub = false →
      (cls < 2 → c.ump.returning.contains (cls, idx) = true ∨ c.selfTesting cls idx sub = true →
        Called (.switchBack p) 0xA0 p s rBusy [] (Core.Calm c)) ∧
      (cls = 2 → c.rankState (4 * idx + sub) = 6 ∨ c.selfTesting cls idx sub = true → Called (.switchBack p) 0xA0 p s rBusy [] (Core.Calm c)) ∧
      (cls < 2 → c.ump.returning.contains (cls, idx) = false → c.selfTesting cls idx sub = false → c.isOpenUnit cls idx = true →
        Called (.switchBack p) 0xA0 p s rAccepted []
          (Core.Calm { (if cls = 0 then c.setF (F.NIBN_STAT_STATE idx) 1 else c) with
            ump := { c.ump with returning := c.ump.returning ++ [(cls, idx)] } })) ∧
      (cls = 2 → c.rankState (4 * idx + sub) = 4 → c.selfTesting cls idx sub = false → c.asyncOf 0x70 = none → Called (.switchBack p) 0xA0 p s rAccepted [] fun d =>
        d.rankState (4 * idx + sub) = 6 ∧ d.mem.testing = c.mem.testing ++ [4 * idx + sub] ∧ d.web = c.web ∧ d.job = c.job) ∧
      (cls = 3 → c.f (F.QLN_STATE_MODE idx) = 1 → c.laneActive idx = true → c.laneClean idx = true →
        Runs (.switchBack p) s fun d => d.hi.waiting = some (0xA0, p.sq.val, p.seq.toNat, p.flags.toNat) ∧
          (d.lane idx).mgmt = (c.lane idx).mgmt ++ [{ op := 4, arg := idx * 2 ^ 42 }] ∧ d.job = c.job ∧ d.web = c.web) ∧
      (cls = 4 → c.fb F.WEB_SRC_FAILED_OVER = true →
        (c.encClean = true → Called (.switchBack p) 0xA0 p s rDone []
          (Core.Calm { c with web := { c.web with switchBack := true } })) ∧
        (c.encClean = false → Called (.switchBack p) 0xA0 p s rHwFault [] (Core.Calm c)))) ∧
    (Accepts c 0xA2 p → Called (.laneRetrain p) 0xA2 p s rDone [] fun d => d.web = c.web ∧ d.job = c.job ∧
      ∀ n, n < 64 → bit (q.u64 0) n = true → c.f (F.QLN_STATE_STATE n) = 4 ∨ c.f (F.QLN_STATE_STATE n) = 6 →
        d.f (F.QLN_STATE_STATE n) = 1 ∧ d.f (F.QLN_STATE_ATTEMPT n) = 1 ∧ d.r (R.QLN_TRAIN_CNT n) = c.r (R.QLN_TRAIN_CNT n) + 1)

/-! ### DMA and EVZ -/

/-- The commands of the DMA and EVZ engines (R395, R429, R434, R443), here with no request waiting: a chain whose first descriptor
passes its checks starts, one whose descriptor cannot be read is a bus error, stopped channels go on from the first byte not landed,
with the bytes moved again of the requests that a paced one has spent, running ones stop with 0x0B04, and EVZ_RUN binds
and starts its two channels. -/
def Obligations.DmaCommands : Prop :=
  ∀ (p : Packet) (s : State),
    let c := s.core
    let q := packetInput p
    let n := q.u8 0
    let a := q.u64 8
    let kept (d : Core) : Prop := d.web = c.web ∧ d.job = c.job ∧ d.bars = c.bars
    s.reqs = [] →
    (∀ l, Accepts c 0x72 p → n < 16 → c.dmaSt n ≠ dRunning → c.dmaSt n ≠ dPaused → c.dmaBound n = false → le p.par 1 7 = 0 →
      ((c.taken 0x72 p).descRead n a p.hostFail).2 = some l → checks (c.descChecks a l) = none →
      Called (.dmaStart p) 0x72 p s rAccepted [] fun d => d.dmaSt n = dRunning ∧ (d.dch n).desc = some (parseDesc l) ∧
        (d.dch n).acked = 0 ∧ (d.dch n).remain = (parseDesc l).total ∧ d.fb (F.DMAN_STATE_ERR n) = false ∧
        (∀ m, m ≠ n → d.dch m = c.dch m) ∧ kept d) ∧
    (Accepts c 0x72 p → n < 16 → c.dmaSt n ≠ dRunning → c.dmaSt n ≠ dPaused → c.dmaBound n = false → le p.par 1 7 = 0 →
      ((c.taken 0x72 p).descRead n a p.hostFail).2 = none →
      Called (.dmaStart p) 0x72 p s (if bit a 0 then rHwFault else rMemory) [] fun d => d.dmaSt n = c.dmaSt n ∧
        d.fb (F.DMAN_STATE_ERR n) = true ∧ Posts c d 0x0B03 n (a / 64 * 64) ∧ kept d) ∧
    (∀ x l, let u := c.dch n
      Accepts c 0x73 p → n < 16 → q.u16 0 = 2 ^ n → c.dmaSt n = dStopped → u.paused = false → u.desc = some x → x.srcSpace = 0 →
      x.dstSpace = 0 → x.srcLines = 1 → x.dstLines = 1 → x.srcLen = x.dstLen → x.overlaps = false → 64 ≤ x.burst →
      u.owed = x.burst → u.acked + x.burst < x.total → c.mayReach x.src x.total = true → c.mayReach x.dst x.total = true →
      (c.taken 0x73 p).rd (x.src + u.acked) x.burst = some l → c.dma.job = none → (∀ m, m < 16 → m ≠ n → (c.dch m).owed = 0) → Called (.dmaResume p) 0x73 p s rDone [] fun d =>
        (d.dch n).acked = u.acked + x.burst ∧ (d.dch n).owed = 0 ∧ d.dmaSt n = dRunning ∧ kept d) ∧
    (Accepts c 0x73 p → (∀ m, m < 16 → (c.dch m).owed = 0) → Called (.dmaResume p) 0x73 p s rDone [] fun d => kept d ∧ ∀ m, m < 16 →
      (bit (q.u16 0) m = true ∧ c.dmaSt m = dStopped →
        d.dmaSt m = (if (c.dch m).paused then dPaused else dRunning) ∧ d.fb (F.DMAN_STATE_ERR m) = false ∧
        (d.dch m).acked = (c.dch m).acked ∧ ∀ x, (c.dch m).desc = some x → (d.dch m).remain = x.total - (c.dch m).acked) ∧
      (¬ (bit (q.u16 0) m = true ∧ c.dmaSt m = dStopped) → d.dmaSt m = c.dmaSt m ∧ d.dch m = c.dch m)) ∧
    (Accepts c 0x74 p → Called (.dmaStop p) 0x74 p s rDone [] fun d => kept d ∧ ∀ m, m < 16 →
      (bit (q.u16 0) m = true ∧ (c.dmaSt m = dRunning ∨ c.dmaSt m = dPaused) →
        d.dmaSt m = dStopped ∧ d.dch m = { c.dch m with paused := c.dmaSt m == dPaused } ∧
        Posts c d 0x0B04 m (c.n (R.DMAN_REMAIN m))) ∧
      (¬ (bit (q.u16 0) m = true ∧ (c.dmaSt m = dRunning ∨ c.dmaSt m = dPaused)) →
        d.dmaSt m = c.dmaSt m ∧ d.dch m = c.dch m)) ∧
    (∀ l li lo, let i := le l 0 1
      let o := le l 1 1
      let t := c.taken 0x75 p
      let free (m : Nat) : Prop := m < 16 ∧ c.dmaSt m ≠ dRunning ∧ c.dmaSt m ≠ dPaused ∧ c.dmaSt m ≠ dStopped
      Accepts c 0x75 p → c.dma.job = none → n ≤ 1 → le p.par 1 7 = 0 → a % 64 = 0 → c.mayReach a 64 = true →
      t.rd a 64 = some l → i ≠ o → free i → free o → le l 2 6 = 0 → (∀ k, k < 32 → le l (32 + k) 1 = 0) →
      le l 24 8 % 64 = 0 → (t.descRead i (le l 8 8) p.hostFail).2 = some li →
      (t.descRead o (le l 16 8) p.hostFail).2 = some lo →
      boundShape (parseDesc li) false (n = 1) = true → boundShape (parseDesc lo) true (n = 1) = true →
      checks (c.descChecks (le l 8 8) li) = none → checks (c.descChecks (le l 16 8) lo) = none →
      Called (.evzRun p) 0x75 p s rAccepted [] fun d => kept d ∧ d.dmaSt i = dRunning ∧ d.dmaSt o = dRunning ∧
        d.dmaBound i = true ∧ d.dmaBound o = true ∧ (d.dch i).desc = some (parseDesc li) ∧
        (d.dch o).desc = some (parseDesc lo) ∧
        ∃ j, d.dma.job = some j ∧ j.dec = decide (n = 1) ∧ j.inCh = i ∧ j.outCh = o ∧ j.result = le l 24 8 ∧ j.ended = none)

/-- Transfers (R429-R437, R445): here between two areas of DRAM in one line each that do not overlap. A request moves one burst; a
free-running channel reaches half and completes its descriptor; a later descriptor is fetched, or refused with 0x0B02; a bus error
stops every channel; an appended address is held or counted; a job's end unbinds its channels with 0x0B07. -/
def Obligations.DmaTransfers : Prop :=
  ∀ (ch : Fin 16) (s : State),
    let c := s.core
    let u := c.dch ch
    let kept (d : Core) : Prop := d.web = c.web ∧ d.job = c.job ∧ d.bars = c.bars
    let plain (x : DmaDesc) : Prop := x.srcSpace = 0 ∧ x.dstSpace = 0 ∧ x.srcLines = 1 ∧ x.dstLines = 1 ∧ x.srcLen = x.dstLen ∧
      x.overlaps = false ∧ 64 ≤ x.burst ∧ c.mayReach x.src x.total = true ∧ c.mayReach x.dst x.total = true
    let moved (d : Core) (a : Nat) (l : List Byte) : Prop := Tab.getList (fun _ => (0 : Byte)) d.mem.dram a l.length = l ∧
      ∀ y, y < a ∨ a + l.length ≤ y → Tab.get (fun _ => (0 : Byte)) d.mem.dram y = Tab.get (fun _ => 0) c.mem.dram y
    (∀ line : Fin 32, line.val < 16 →
      ((∀ k, k < 32 → c.taker k = none) → Does (.dmaRequest line) s fun t => t = { s with reqs := t.reqs } ∧
        ∀ k, reqCount t.reqs k = if k = line.val then min 16 (reqCount s.reqs k + 1) else reqCount s.reqs k) ∧
      (∀ x l, s.reqs = [] → c.taker line = some ch.val → u.desc = some x → plain x → u.acked + x.burst < x.total →
        c.rd (x.src + u.acked) x.burst = some l → Runs (.dmaRequest line) s fun d => kept d ∧
          (d.dch ch).acked = u.acked + x.burst ∧ d.dmaSt ch = dRunning ∧ moved d (x.dst + u.acked) l ∧
          ∀ m, m ≠ ch.val → d.dch m = c.dch m)) ∧
    (∀ v : Word, Answers c R.DMA_SWREQ → (∀ k, k < 32 → c.taker k = none) → Does (.dmaSwreqWrite v) s fun t =>
      t = { s with core := t.core, reqs := t.reqs } ∧
      Core.Quiet ((c.resvNote R.DMA_SWREQ v).setR R.DMA_SWREQ (c.r R.DMA_SWREQ ||| (v &&& 0xFFFF))) t.core ∧
      ∀ k, reqCount t.reqs k = if k < 16 ∧ bit v.toNat k = true then min 16 (reqCount s.reqs k + 1) else reqCount s.reqs k) ∧
    (∀ x l, u.desc = some x → plain x → x.reqEn = false → c.dmaSt ch = dRunning → u.acked = 0 → 0 < x.total →
      c.rd x.src x.total = some l → c.dma.job = none →
      (u.half = false → Runs (.dmaHalf ch) s fun d => (d.dch ch).half = true ∧ x.total ≤ 2 * (d.dch ch).acked ∧
        (x.halfIrq = true → bit (d.f F.DMA_IRQ_HF_HALF) ch = true) ∧ kept d) ∧
      (x.last = true → u.append = none → Runs (.dmaDescComplete ch) s fun d => d.dmaSt ch = dDone ∧
        d.r (R.DMAN_DONE_CNT ch) = c.r (R.DMAN_DONE_CNT ch) + 1 ∧
        Posts c d 0x0B01 ch (x.tag * 65536 + d.n (R.DMAN_DONE_CNT ch) % 65536) ∧
        (x.fullIrq = true → bit (d.f F.DMA_IRQ_HF_FULL) ch = true) ∧ (c.logging = false → moved d x.dst l) ∧ kept d)) ∧
    (∀ a l, s.reqs = [] → u.fetch = some a → c.dmaSt ch = dRunning → (c.descRead ch a false).2 = some l → c.boundBad ch (parseDesc l) = false →
      (checks (c.descChecks a l) = none → Runs (.dmaDescFetch ch) s fun d => (d.dch ch).desc = some (parseDesc l) ∧
        (d.dch ch).acked = 0 ∧ (d.dch ch).fetch = none ∧ d.dmaSt ch = dRunning ∧ kept d) ∧
      (∀ st, checks (c.descChecks a l) = some st → Runs (.dmaDescFetch ch) s fun d => d.dmaSt ch = dRefused ∧
        d.f (F.DMAN_STATE_CODE ch) = st % 256 ∧ Posts c d 0x0B02 ch st ∧ kept d)) ∧
    (∀ a, s.reqs = [] → u.fetch = some a → c.dmaSt ch = dRunning → (c.descRead ch a false).2 = none → Runs (.dmaDescFetch ch) s fun d =>
      d.dmaSt ch = dStopped ∧ Posts c d 0x0B03 ch (a / 64 * 64) ∧ kept d) ∧
    (∀ (host : Bool) (addr : BitVec 64) (issued : Nat), c.dmaSt ch = dRunning → Runs (.dmaBusError ch host addr issued) s fun d =>
      (∀ m, m < 16 → d.dmaSt m = if c.dmaSt m = dRunning ∨ c.dmaSt m = dPaused then dStopped else c.dmaSt m) ∧
      d.fb (F.DMAN_STATE_ERR ch) = true ∧ d.f (F.DMAN_STATE_ERR_SPACE ch) = b2n host ∧
      d.n64 (R.DMAN_ERR_ADDR_LO ch) = addr.toNat ∧
      d.r R.HI_PCIE_UE_CNT = c.r R.HI_PCIE_UE_CNT + (if host then 1 else 0) ∧ d.r R.DMA_BUS_ERR_CNT = c.r R.DMA_BUS_ERR_CNT + 1 ∧
      bit (d.f F.DMA_IRQ_ERR_ERR) ch = true ∧ Posts c d 0x0B03 ch addr.toNat ∧ kept d) ∧
    (∀ (w : Win) (hi : Word), AnswersBy c w (R.DMAN_APPEND_HI ch) →
      let a := (c.lowOf w (R.DMAN_APPEND_LO ch)).toNat + hi.toNat * 2 ^ 32
      (c.dmaSt ch = dPaused → (∀ m, m < 16 → (c.dch m).owed = 0) → Runs (.dmaAppendWrite ch w hi) s fun d => d.dch ch = { u with fetch := some a } ∧
        d.dmaSt ch = dRunning ∧ kept d) ∧
      (c.dmaSt ch = dRunning → u.append = none → Runs (.dmaAppendWrite ch w hi) s fun d =>
        d.dch ch = { u with append := some a } ∧ d.fb (F.DMAN_STATE_APPEND_PEND ch) = true ∧ d.dmaSt ch = dRunning ∧ kept d) ∧
      (c.dmaSt ch ≠ dPaused → (c.dmaSt ch = dRunning → u.append.isSome = true) → Runs (.dmaAppendWrite ch w hi) s fun d =>
        d.r R.DMA_APPEND_IGN_CNT = c.r R.DMA_APPEND_IGN_CNT + 1 ∧ d.dch ch = u ∧
        Core.Only [R.DMA_APPEND_IGN_CNT] { c with hi := { c.hi with wrStage := d.hi.wrStage } } d)) ∧
    (∀ (fault : Bool) (j : EvzJob) (st kind off : Nat), c.dma.job = some j → j.inCh < 16 → j.outCh < 16 →
      (if fault = true ∧ j.ended = none then (st, kind, off) = (rHwFault, 0, 0) else j.ended = some (st, kind, off)) →
      Runs (.evzJobEnd fault) s fun d => d.dma.job = none ∧ d.dmaBound j.inCh = false ∧ d.dmaBound j.outCh = false ∧
        Posts c d 0x0B07 31 (j.blocks % 2 ^ 24 * 256 + st) ∧ kept d ∧
        (c.logging = false → c.mayReach j.result 64 = true →
          Tab.getList (fun _ => (0 : Byte)) d.mem.dram j.result 64 = j.record st kind off))

/-! ### The legacy bridge -/

/-- A packet, not behind a lost frame, whose personality is enabled, runs and finds its checksum right, outside SAFE (R402, R408). -/
def Sys2Proof.Claims.Heard (p : LspPacket) (s : State) : Prop :=
  s.leg.skip = false ∧ s.core.fb F.LG_STAT_RUNNING = true ∧ s.core.lpOn p.lp = true ∧ pb p.bytes 0 = 0xA5 ∧ pb p.bytes 1 / 16 = p.lp.val ∧
    ((List.range 8).map (pb p.bytes)).sum % 256 = 0 ∧ s.core.st ≠ stSafe

/-- The packet is answered 4 µs later with a status, D0, D1 and their checksum (R403, R408), and the core has the property. -/
def Sys2Proof.Claims.Replies (i : Instr) (s : State) (st d0 d1 : Nat) (P : Core → Prop) : Prop :=
  Does i s fun t => t.leg.reply = some ([st, d0, d1, (256 - (st + d0 + d1) % 256) % 256].map (BitVec.ofNat 8)) ∧
    t.leg.readyAt = s.core.now + 4 * usec ∧ t.leg.shifted = 0 ∧ t.boards = s.boards ∧ t.reqs = s.reqs ∧
    t.pending = s.pending ∧ P t.core

/-- The opcodes that set and read a personality (R405, R408, R410, R419-R421). -/
def Obligations.LegacyRegisters : Prop :=
  ∀ (p : LspPacket) (s : State),
    let c := s.core
    let n := p.lp.val
    let b := pb p.bytes
    let rest (k : Nat) : Prop := ∀ j, k ≤ j → j ≤ 6 → b j = 0
    let op := b 1 % 16
    let same (d : Core) : Prop := d.web = c.web ∧ d.job = c.job ∧ d.heads = c.heads
    let quiet := c.fb F.LG_STAT_OWNER = false
    Heard p s →
    (op = 0 → rest 2 → Replies (.lhStatus p) s lhOk
        (c.lpSt n + c.f (F.LG_LP_STAT_QUEUED n) * 4 + c.f (F.LG_LP_STAT_ATTN n) * 64) (c.f (F.LG_LP_STAT_CAUSE n)) fun d =>
      d.fb (F.LG_LP_STAT_ATTN n) = false ∧ (quiet → same d)) ∧
    (op = 1 → rest 2 → Replies (.lhReset p) s lhOk 0 0 fun d => d.lpSt n = lpIdle ∧ d.n (R.LG_LP_LINES n) = 0 ∧
      d.n (R.LG_LP_BANDS n) = 0 ∧ d.n (R.LG_LP_UNDER n) = 0 ∧ d.n (R.LG_LP_CSUM n) = 0 ∧ d.n (R.LG_LP_BAND n) = 0 ∧
      d.f (F.LG_LP_STAT_CAUSE n) = 0 ∧ d.fb (F.LG_LP_STAT_UNDER_CONT n) = false ∧ d.fb (F.LG_LP_STAT_ATTN_EN n) = true ∧
      (quiet → same d ∧ (d.pers n).bands = (c.pers n).bands.filter (·.bound.isSome))) ∧
    (op = 2 → c.lpSt n ≤ 1 → b 2 ≠ 0 → rest 3 → Replies (.lhSetEncDiv p) s lhOk (b 2) 0 fun d => d.n (R.LG_LP_DIV n) = b 2 ∧
      (quiet → Core.Only [R.LG_LP_DIV n] c d)) ∧
    (op = 3 → c.lpSt n ≤ 1 → 65536 ≤ le p.bytes 2 4 → b 6 = 0 → Replies (.lhSetPitch p) s lhOk 0 0 fun d =>
      d.n (R.LG_LP_PITCH n) = le p.bytes 2 4 ∧ (quiet → Core.Only [R.LG_LP_PITCH n] c d)) ∧
    (op = 7 → c.lpSt n ≤ 1 → b 2 ≤ 3 → b 6 = 0 → (c.lpInk n (b 2)).isSome = true → c.fb F.LG_CFG_APPLY_OFS = false →
      Replies (.lhSetOffset p) s lhOk 0 0 fun d => d.n (R.LG_LP_OFS n (b 2)) = le p.bytes 3 3 ∧
        (quiet → d.lg = { c.lg with ofsSet := ((4 * n + b 2) :: c.lg.ofsSet).eraseDups } ∧
          Core.Only [R.LG_LP_OFS n (b 2)] { c with lg := d.lg } d)) ∧
    (∀ k, op = 7 → c.lpSt n ≤ 1 → b 2 ≤ 3 → b 6 = 0 → c.lpInk n (b 2) = some k → c.fb F.LG_CFG_APPLY_OFS = true →
      c.lpClash n (b 2) (le p.bytes 3 3) = false → Replies (.lhSetOffset p) s lhOk 0 0 fun d =>
        d.n (R.LG_LP_OFS n (b 2)) = le p.bytes 3 3 ∧
        d.n64 (R.FIRE_ALIGN_FWD_LO (c.newest.bar0 k)) = c.lpAlign n (le p.bytes 3 3) % 2 ^ 64 ∧ (quiet → same d)) ∧
    (∀ h, op = 9 → b 2 ≤ 3 → rest 4 → (c.lpInk n (b 2)).bind (fun k => (c.lpHeads n k)[b 3]?) = some h →
      c.fb (F.HH_THETA_STALE h) = false →
      Replies (.lhReadTemp p) s lhOk (wrap 16 (c.theta h / 4) % 256) (wrap 16 (c.theta h / 4) / 256) fun d =>
        quiet → Core.Quiet c d) ∧
    (op = 12 → b 2 ≤ 3 → b 3 ≤ 1 → rest 4 →
      let v := c.n ([R.LG_LP_LINES n, R.LG_LP_BANDS n, R.LG_LP_UNDER n, R.LG_LP_CSUM n].getD (b 2) 0) / 65536 ^ b 3 % 65536
      Replies (.lhReadCount p) s lhOk (v % 256) (v / 256) fun d => quiet → Core.Quiet c d) ∧
    (op = 13 → c.lpSt n ≤ 1 → b 2 ≤ 3 → rest 3 → Replies (.lhSetMode p) s lhOk 0 0 fun d =>
      d.fb (F.LG_LP_STAT_UNDER_CONT n) = bit (b 2) 0 ∧ d.fb (F.LG_LP_STAT_ATTN_EN n) = bit (b 2) 1 ∧ (quiet → same d)) ∧
    (op = 14 → rest 4 → Replies (.lhEcho p) s lhOk (b 2) (b 3) fun d => quiet → Core.Quiet c d) ∧
    (op = 15 → Replies (.lhBadOpcode p) s lhBadOpcode 0 0 fun d => quiet → Core.Quiet c d)

/-- The opcodes that print (R412-R417, R421). -/
def Obligations.LegacyBands : Prop :=
  ∀ (p : LspPacket) (s : State),
    let c := s.core
    let n := p.lp.val
    let b := pb p.bytes
    let u := c.pers n
    let rest (k : Nat) : Prop := ∀ j, k ≤ j → j ≤ 6 → b j = 0
    let op := b 1 % 16
    Heard p s →
    (∀ q, op = 4 → c.lpSt n ≤ 1 → u.bands.length < 8 → u.opened = none → c.lpFree n = some q → c.lg.ending = false →
      c.fb F.LG_STAT_OWNER = true → rest 5 → b 4 ≤ 1 →
      (c.fb (F.LG_LP_BAND_SET n) = true → le p.bytes 2 2 = c.f (F.LG_LP_BAND_NEXT n)) →
      Replies (.lhLoadBand p) s lhOk (u.bands.length + 1) 0 fun d => d.lpSt n = lpLoaded ∧
        (d.pers n).bands = u.bands ++ [{ num := le p.bytes 2 2, last := bit (b 4) 0, q := q }] ∧
        (d.pers n).opened = some { num := le p.bytes 2 2, q := q } ∧ (d.surf (c.lpId n q)).state = 1 ∧
        d.f (F.LG_LP_BAND_NEXT n) = (le p.bytes 2 2 + 1) % 65536 ∧ d.web = c.web ∧ d.st = c.st) ∧
    (op = 5 → c.lpSt n = lpLoaded → rest 2 → c.lg.pitch = (c.f (F.LG_LP_DIV_P n), c.n (R.LG_LP_PITCH n)) →
      (c.running = false → c.st ≠ stArmed → Replies (.lhStart p) s lhOk 0 0 fun d => d.lpSt n = lpRun ∧
        (d.pers n).starting = true ∧ d.lg.window = some (c.lg.window.getD c.now) ∧ d.web = c.web ∧ d.job = c.job) ∧
      (c.running = true ∨ c.st = stArmed → Replies (.lhStart p) s lhOk 0 0 fun d =>
        Posts c d 0x0F06 n (c.advanceK c.newest (c.web.s + 2) (c.n (R.LAY_QNEXT n))))) ∧
    (op = 6 → c.lpSt n = lpLoaded ∨ c.lpSt n = lpRun → rest 2 → c.fb F.LG_STAT_OWNER = false →
      Replies (.lhStop p) s lhOk 0 0 fun d => 
        let bound := u.bands.filter (·.bound.isSome)
        d.lpSt n = lpIdle ∧ (d.pers n).opened = (u.opened.filter fun x => bound.any fun b => b.q == x.q) ∧
        (d.pers n).bands = bound ∧ d.web = c.web ∧ d.job = c.job) ∧
    (∀ k, op = 8 → c.lpSt n ≤ 2 → b 2 ≤ 3 → b 3 ≤ 15 → rest 4 → c.lpInk n (b 2) = some k → (∀ h ∈ c.lpHeads n k, h < 1024) →
      Replies (.lhSetWave p) s lhOk 0 0 fun d =>
        ∀ h ∈ c.lpHeads n k, bits (d.n (R.QL_WAVE (h / 8))) (4 * (h % 8)) 4 = b 3) ∧
    (op = 10 → c.lpSt n = lpIdle → c.st = stIdle → c.lg.spit = none → c.lg.queue = [] → c.fb F.COX_EPOCH_SWITCHING = false →
      rest 5 → 1 ≤ b 2 → b 2 ≤ 3 → le p.bytes 3 2 ≠ 0 → Replies (.lhSpit p) s lhOk 0 0 fun d => d.st = stService ∧ d.web = c.web) ∧
    (∀ k, op = 11 → c.lpSt n ≤ 2 → b 2 ≤ 3 → b 5 ≤ 1 → b 6 = 0 → c.lpInk n (b 2) = some k → le p.bytes 3 2 ≤ 12799 →
      let x := k * 262144 + c.f (F.LG_LP_C0_C0 n) + 2 * le p.bytes 3 2
      Replies (.lhMaskNozzle p) s lhOk 0 0 fun d => ∀ m ∈ [x, x + 1, x + 131072, x + 131073],
        (Tab.get nzReset d.job.shadow.nz m).toNat / 2 ^ 30 =
          if (Tab.get nzReset c.job.shadow.nz m).toNat / 2 ^ 30 = 3 then 3 else if b 5 = 1 then 2 else 0)

/-- The legacy ports and their timers (R402, R403, R406, R416, R421): packets discarded and counted, none taken from a lost frame to
the next idle gap, reply bits, data words, and what
waits. -/
def Obligations.LegacyPorts : Prop :=
  ∀ s : State,
    let c := s.core
    let g := s.leg
    let l := g.fifo g.ldadr
    let opened := (c.pers g.ldadr).opened
    (g.skip = true → Does .lspDiscard s (fun t => t = s) ∧ ∀ p, Does (.lhStatus p) s fun t => t = s) ∧
    (g.skip = false →
      (Does .lspDiscard s fun t => t.core.r R.LG_FRAME_CNT = c.r R.LG_FRAME_CNT + 1 ∧ t.leg.reply = none ∧ t.core.job = c.job) ∧
      ∀ p : LspPacket, c.fb F.LG_STAT_RUNNING = false ∨ c.lpOn p.lp = false ∨ pb p.bytes 0 ≠ 0xA5 → Does (.lhStatus p) s fun t =>
        t.core.r R.LG_FRAME_CNT = c.r R.LG_FRAME_CNT + 1 ∧ t.leg.reply = none ∧ t.core.job = c.job ∧
        t.leg.skip = decide (pb p.bytes 0 ≠ 0xA5)) ∧
    Does .lspFramingReset s (fun t => t = { s with leg := { g with skip := false } }) ∧
    (∀ n r, g.reply = some r →
      (c.now < g.readyAt → Does (.lspReplyClock n) s fun t =>
        t = { s with core := c.inc R.LG_EARLY_CNT, leg := { g with lsdo := List.replicate n true } }) ∧
      (g.readyAt ≤ c.now → Does (.lspReplyClock n) s fun t => t = { s with leg := t.leg } ∧
        t.leg.lsdo = ((replyBits r).drop g.shifted).take n ∧
        t.leg.reply = (if 32 ≤ g.shifted + n then none else some r))) ∧
    (∀ w : BitVec 16,
      (c.lpOn g.ldadr = false ∨ opened = none → Does (.ldpWord w) s fun t =>
        t.core.r R.LG_LDP_DROP_CNT = c.r R.LG_LDP_DROP_CNT + 1 ∧ t.leg = g ∧ t.core.job = c.job) ∧
      (c.lpOn g.ldadr = true → opened.isSome = true → l.length < 512 → Does (.ldpWord w) s fun t =>
        t = { s with leg := t.leg } ∧ t.leg.fifo g.ldadr = l ++ [w] ∧ ∀ n, n ≠ g.ldadr → t.leg.fifo n = g.fifo n) ∧
      (∀ o, c.lpOn g.ldadr = true → opened = some o → 512 ≤ l.length → Does (.ldpWord w) s fun t =>
        t.leg.fifo g.ldadr = [] ∧ Posts c t.core 0x0F03 g.ldadr (o.num * 65536 + 5))) ∧
    (∀ a : Fin 8, Does (.ldadrChange a) s fun t => t = { s with leg := t.leg } ∧ t.leg.ldadr = a.val ∧
      t.leg.ack = (c.lpOn a && (c.pers a).opened.isSome && decide ((g.fifo a).length ≤ 448))) ∧
    (∀ t0, c.lg.window = some t0 → t0 + c.f F.LG_START_WIN_US * usec ≤ c.now → Runs .lgStartWin s fun d =>
      d.lg.window = none ∧ ∀ n, n < 8 → c.lpOn n = true → (d.pers n).starting = false) ∧
    (∀ x rest, c.lg.queue = x :: rest → x.tried + msec ≤ c.now → x.asked = false → x.heard = none →
      c.fb F.COX_EPOCH_SWITCHING = true →
      let from_ := x.busyAt.getD c.now
      (c.now < from_ + sec → Runs .bridgeRetry s fun d =>
        d = c.setLg { c.lg with queue := { x with busyAt := some from_, tried := c.now } :: rest }) ∧
      (from_ + sec ≤ c.now → rest = [] → Runs .bridgeRetry s fun d => d.lg.queue = [] ∧
        d.r R.LG_NATIVE_REFUSE_CNT = c.r R.LG_NATIVE_REFUSE_CNT + 1 ∧ d.job = c.job ∧
        ∀ n ∈ x.owners, n < 8 → d.lpSt n = lpFaulted)) ∧
    (∀ p : Packet, let q := packetInput p
      (Accepts c 0xF0 p → checks (c.lpMapChecks q) = none → Called (.lpMap p) 0xF0 p s rDone [] fun d =>
        d.fb (F.LG_LP_MAP_EN (q.u8 0)) = bit (q.u8 1) 0 ∧ d.f (F.LG_LP_MAP_INK_MAP (q.u8 0)) = q.u16 2 ∧
        d.n (R.LG_LP_C0 (q.u8 0)) = q.u32 4 ∧ d.n (R.LG_LP_CODE (q.u8 0)) = q.u16 8 ∧ d.job = c.job ∧ d.web = c.web) ∧
      (Accepts c 0xF1 p → checks c.legacyChecks = none → Called (.legacyStart p) 0xF1 p s rDone [] fun d =>
        d.fb F.LG_STAT_RUNNING = true ∧ d.web = c.web ∧
        (∀ x ∈ c.lpPool, (d.surf (c.lpId x.1 x.2)).state = if x.2 = c.f F.LG_CFG_POOL then 2 else 1) ∧
        ∀ n ∈ c.lpsOn, d.pers n = {} ∧ d.lpSt n = lpIdle) ∧
      (Accepts c 0xF2 p → c.fb F.LG_STAT_OWNER = false ∨ c.st ≠ stReady → Called (.legacyStop p) 0xF2 p s rDone [] fun d =>
        d.fb F.LG_STAT_RUNNING = false ∧ d.job = c.job ∧ d.web = c.web ∧ d.lg = c.lg))


/-! ### The clock and PTP -/

/-- The clock and its references (R451-R456, R530): a port out of PTP takes no message, another domain's is only counted, each message
does its part towards the offset and the path delay, an Announce and its absence give a port its state (here where the other port
follows no master and has heard none; log entry 65), a master that was followed is lost even where the port's link went down first, and each timer sends; a reference lost gives HOLDOVER. -/
def Obligations.ClockKept : Prop :=
  ∀ (p : Fin 2) (s : State),
    let c := s.core
    let u := c.ptp p
    let kept (d : Core) : Prop := d.web = c.web ∧ d.job = c.job ∧ d.clk.time = c.clk.time
    let peer := c.fb (F.ETH_CFG_DELAY p)
    let slave := c.f (F.ETH_STAT_PORT_STATE p) = psSlave
    let alone := c.heardSet (1 - p.val) = none ∧ c.f (F.ETH_STAT_PORT_STATE (1 - p.val)) ≠ psSlave
    let held (d : Core) : Prop := d.timeState =
      if c.timeState = tAcquiring ∨ c.timeState = tLocked then tHoldover else c.timeState
    (∀ m : PtpMsg,
      let a := m.stamp * 65536
      let rx := c.ptpStamp p true
      let q := m.seq.toNat
      let offset (ms : Int) (d : Core) : Prop := d.r R.TIME_OFFSET = BitVec.ofInt 32 (roundDiv (ms - u.mpd) 65536) ∧
        d.r (R.ETH_RX_PTP_CNT p) = c.r (R.ETH_RX_PTP_CNT p) + 1 ∧ (d.ptp p).ms = some ms ∧ (d.ptp p).sync = none ∧
        d.web = c.web ∧ d.job = c.job ∧ (c.fb F.TIME_CFG_SERVO_EN = false → d.clk.time = c.clk.time ∧ d.timeState = c.timeState)
      let sends (kind : Nat) (l : List Int) (d : Core) : Prop := d.out = ⟨p, 0x500 + kind, l⟩ :: c.out ∧
        d.r (R.ETH_TX_PTP_CNT p) = c.r (R.ETH_TX_PTP_CNT p) + 1 ∧ d.clk = c.clk ∧ kept d
      let delay (x : Int) (d : Core) : Prop := (d.ptp p).mpd = x ∧ d.r (R.ETH_MPD p) = BitVec.ofInt 32 (roundDiv x 65536) ∧
        (d.ptp p).req = none ∧ kept d
      (c.ptpOn p = false → Runs (.ptpMessage p m) s fun d => d = c) ∧
      (c.ptpOn p = true → m.domain.toNat ≠ c.f F.PTP_DS_DOMAIN → Runs (.ptpMessage p m) s fun d =>
        d = (c.inc (R.ETH_RX_PTP_CNT p)).perf 236) ∧
      (c.ptpOn p = true → m.domain.toNat = c.f F.PTP_DS_DOMAIN →
        (∀ r, u.master = some (m.src.toNat, r) →
          (slave → m.kind = 0 → m.twoStep = false → Runs (.ptpMessage p m) s (offset (rx - (a + m.corr)))) ∧
          (slave → m.kind = 0 → m.twoStep = true → Runs (.ptpMessage p m) s fun d => (d.ptp p).sync = some (q, rx, m.corr) ∧ kept d) ∧
          (∀ t2 k, slave → m.kind = 1 → u.sync = some (q, t2, k) → Runs (.ptpMessage p m) s (offset (t2 - (a + m.corr + k)))) ∧
          (∀ t3 ms, slave → m.kind = 3 → peer = false → u.req = some (q, t3) → u.ms = some ms →
            Runs (.ptpMessage p m) s (delay ((ms + (a - m.corr - t3)) / 2))) ∧
          (m.kind = 7 → Runs (.ptpMessage p m) s fun d => d.ptp p = { u with master := some (m.src.toNat, m.rank), heard := c.now } ∧
            kept d)) ∧
        (m.kind = 2 → peer = false → c.f (F.ETH_STAT_PORT_STATE p) = 6 →
          Runs (.ptpMessage p m) s (sends 3 [q, rx, m.corr, m.src.toNat])) ∧
        (m.kind = 4 → peer = true → c.fb (F.ETH_CFG_TWO_STEP p) = false →
          Runs (.ptpMessage p m) s (sends 5 [q, 0, rx, c.ptpStamp p false, m.src.toNat])) ∧
        (m.kind = 4 → peer = true → c.fb (F.ETH_CFG_TWO_STEP p) = true → Runs (.ptpMessage p m) s fun d =>
          d.out = ⟨p, 0x506, [q, c.ptpStamp p false, m.src.toNat]⟩ :: ⟨p, 0x505, [q, 1, rx, m.src.toNat]⟩ :: c.out ∧
          d.r (R.ETH_TX_PTP_CNT p) = c.r (R.ETH_TX_PTP_CNT p) + 2 ∧ d.clk = c.clk ∧ kept d) ∧
        (∀ t1, m.kind = 5 → peer = true → u.req = some (q, t1) →
          (m.twoStep = false → Runs (.ptpMessage p m) s (delay ((rx - t1 - m.corr) / 2))) ∧
          (m.twoStep = true → Runs (.ptpMessage p m) s fun d => (d.ptp p).resp = some (q, a, rx - m.corr) ∧ kept d)) ∧
        (∀ t1 y t2 t4, m.kind = 6 → peer = true → u.req = some (q, t1) → u.resp = some (y, t2, t4) →
          Runs (.ptpMessage p m) s (delay (((t4 - t1) - (a + m.corr - t2)) / 2))) ∧
        (let follows (d : Core) : Prop := (d.ptp p).master = some (m.src.toNat, m.rank) ∧
            d.n64 (R.ETH_MASTER_LO p) = m.src.toNat ∧ d.f (F.ETH_STAT_PORT_STATE p) = psSlave ∧
            (c.n64 (R.ETH_MASTER_LO p) ≠ m.src.toNat → m.src ≠ 0 → Posts c d 0x0C01 p m.src.toNat) ∧ kept d
         m.kind = 7 → alone → (c.mayMaster && better c.ownRank m.rank) = false →
          (u.master = none → Runs (.ptpMessage p m) s follows) ∧
          (∀ old r, u.master = some (old, r) → old ≠ m.src.toNat → better m.rank r = true → Runs (.ptpMessage p m) s fun d =>
            follows d ∧ (c.parent = some (p.val, old) → held d))) ∧
        (m.kind = 7 → alone → c.parent = none → u.master = none → c.mayMaster = true → better c.ownRank m.rank = true → Runs (.ptpMessage p m) s fun d =>
          (d.ptp p).master = some (m.src.toNat, m.rank) ∧ d.f (F.ETH_STAT_PORT_STATE p) = psMaster ∧ d.timeState = c.timeState ∧
          kept d))) ∧
    (∀ k : Fin 3,
      let a := u.sentAt.1
      let b := u.sentAt.2.1
      let e := u.sentAt.2.2
      let x := u.seqs.1
      let y := u.seqs.2.1
      let z := u.seqs.2.2
      let tx := c.ptpStamp p false
      let interval (f : Fld) : Nat := logInterval (sext 8 (c.f f))
      let sent (l : List Msg) (d : Core) : Prop := d.out = l ++ c.out ∧
        d.r (R.ETH_TX_PTP_CNT p) = c.r (R.ETH_TX_PTP_CNT p) + BitVec.ofNat 32 l.length ∧ kept d
      c.ptpOn p = true →
      (k = 0 → c.f (F.ETH_STAT_PORT_STATE p) = 6 → a + interval (F.ETH_LOG_INT_SYNC p) ≤ c.now → Runs (.ptpTxTimer p k) s fun d =>
        (d.ptp p).sentAt = (c.now, b, e) ∧ (d.ptp p).seqs = ((x + 1) % 65536, y, z) ∧
        sent (if c.fb (F.ETH_CFG_TWO_STEP p) then [⟨p, 0x501, [x, tx]⟩, ⟨p, 0x500, [x, 1, 0]⟩] else [⟨p, 0x500, [x, 0, tx]⟩]) d) ∧
      (k = 1 → peer = true ∨ slave → b + interval (F.ETH_LOG_INT_DELAY_REQ p) ≤ c.now →
        Runs (.ptpTxTimer p k) s fun d => (d.ptp p).sentAt = (a, c.now, e) ∧ (d.ptp p).seqs = (x, (y + 1) % 65536, z) ∧
          (d.ptp p).req = some (y, tx) ∧ sent [⟨p, if peer then 0x504 else 0x502, [y, tx]⟩] d) ∧
      (k = 2 → c.f (F.ETH_STAT_PORT_STATE p) = 6 → e + interval (F.ETH_LOG_INT_ANNOUNCE p) ≤ c.now → Runs (.ptpTxTimer p k) s fun d =>
        (d.ptp p).sentAt = (a, b, c.now) ∧ (d.ptp p).seqs = (x, y, (z + 1) % 65536) ∧
        sent [⟨p, 0x507, z :: c.announced.map Int.ofNat⟩] d)) ∧
    (u.master.isSome = true ∨ (c.ptpOn p = true ∧ c.f (F.ETH_STAT_PORT_STATE p) = psListening) →
      u.heard + c.f (F.ETH_LOG_INT_TIMEOUT p) * logInterval (sext 8 (c.f (F.ETH_LOG_INT_ANNOUNCE p))) ≤ c.now →
      Runs (.ptpAnnounceTimeout p) s fun d => (d.ptp p).master = none ∧ d.n64 (R.ETH_MASTER_LO p) = 0 ∧
        d.f (F.ETH_STAT_PORT_STATE p) = (if c.ptpOn p = false then c.f (F.ETH_STAT_PORT_STATE p)
          else if c.f F.PTP_CFG_MODE = 2 ∨ c.fb F.PTP_CFG_SLAVE_ONLY = false then 6 else 4) ∧
        (∀ id, alone → c.parent = some (p.val, id) → Posts c d 0x0C02 p 0 ∧ held d ∧
          (c.timeState = tLocked → Posts c d 0x0C04 31 1)) ∧ kept d) ∧
    (c.clk.refLost = true → Runs .holdoverEnd s fun d => d = c) ∧
    (∀ t, c.timeState = tHoldover → c.clk.refLost = false → c.clk.reacqFrom = some t → t + c.f F.TIME_REACQ_MS * msec ≤ c.now → Runs .holdoverEnd s fun d =>
      d.timeState = tAcquiring ∧ d.clk = { c.clk with reacqFrom := none, lockCount := 0 } ∧
      Core.Only [R.TIME_STAT, R.CREW_STAT] { c with clk := d.clk } d) ∧
    (∀ up : Bool, c.fb (F.ETH_STAT_LINK p) ≠ up → (up = true → c.fb (F.ETH_CFG_EN p) = true) → Runs (.ethLink p up) s fun d =>
      d.fb (F.ETH_STAT_LINK p) = up ∧ d.f (F.ETH_STAT_PORT_STATE p) = (if up then 4 else 1) ∧
      d.fb (F.ETH_STAT_AN_DONE p) = (up && c.fb (F.ETH_CFG_PHY p) && c.fb (F.ETH_CFG_AN_EN p)) ∧
      Posts c d 0x0C06 p (if up then 2 ^ 31 else 0) ∧ d.ptp p = { u with heard := if up && u.master.isNone then c.now else u.heard } ∧
      Core.Only [R.ETH_STAT p, R.CLK_STAT] { c with clk := { c.clk with ptp := d.clk.ptp } } d) ∧
    (Runs (.ethFrameDrop p) s fun d => d = if c.fb (F.ETH_CFG_EN p) then c.inc (R.ETH_DROP_CNT p) else c) ∧
    (Runs .ethRefclkLost s fun d => d.fb (F.ETH_STAT_LINK 0) = false ∧ d.fb (F.ETH_STAT_LINK 1) = false ∧
      d.fb F.CLK_STAT_ETH_REFCLK_OK = false ∧ Posts c d 0x0E09 31 0 ∧ held d ∧ kept d)


/-! ### The crew -/

/-- No port of a peer re-skews, so what is sent goes out at once (R466). -/
def Sys2Proof.Claims.LinksOpen (c : Core) : Prop := ∀ p ∈ c.peers, (c.crewPort p).since = none

/-- A message of a TYPE to every peer, newest first. -/
def Sys2Proof.Claims.toPeers (c : Core) (type : Nat) (l : List Int) : List Msg :=
  (c.peers.map fun p => (⟨p, 0x400 + type, l⟩ : Msg)).reverse

/-- Forming, leaving, re-skew, relocking and the loss of a link, and BULK messages (R458-R460, R465, R466, R471; log entry 69). -/
def Obligations.CrewFormed : Prop :=
  ∀ (p : Packet) (n : Fin 4) (s : State),
    let c := s.core
    let q := packetInput p
    let u := c.crewPort n
    let st := c.f (F.CP_STAT_STATE n)
    let kept (d : Core) : Prop := d.web = c.web ∧ d.job = c.job
    let only (d : Core) : Prop := Core.Only [R.CP_STAT n, R.CP_DELAY n, R.CP_LAST_SKEW n, R.CP_FEC_UNCORR n, R.CREW_STAT, R.CREW_SKEW_CNT]
      { c with crew := d.crew, out := d.out } d
    let ask : Msg := ⟨n, 0x4F4, [0, wrap 32 (c.t32 + 18)]⟩
    let rx := wrap 32 ((c.t32 : Int) - 21)
    let ports := (List.range 4).foldl (fun m j => if j < q.u8 1 ∧ j ≠ q.u8 0 then m + 2 ^ j else m) 0
    (Accepts c 0xB0 p → c.formed = false → c.crew.forming = none → q.u8 3 = 0 → q.u8 2 = ports → q.u8 0 < q.u8 1 →
      2 ≤ q.u8 1 → q.u8 1 ≤ 4 → Called (.crewForm p) 0xB0 p s rAccepted [] fun d => d.seat = q.u8 0 ∧
        d.f F.CREW_CFG_SIZE = q.u8 1 ∧ d.crew.forming = some (ports, c.now) ∧ (q.u8 0 ≠ 0 → d.f F.TIME_CFG_SRC = 2) ∧
        (∀ j, j < 4 → d.f (F.CP_STAT_STATE j) = if bit ports j then cpTraining else cpOff) ∧
        (∀ j, j < 4 → bit ports j = true → d.f (F.CP_DELAY_D j) = 0) ∧ d.crew.stepped = false ∧
        d.hi.async = (c.start 0xB0 q).hi.async ∧ kept d) ∧
    (∀ mask since a st' (locked : Bool), c.crew.forming = some (mask, since) → c.asyncOf 0xB0 = some a →
      c.formStatus mask since locked = some st' → Runs (.crewFormed locked) s fun d => d.crew.forming = none ∧
        d.hi.async = c.hi.async.erase a ∧ Posts c d 0x0C10 31 st' ∧ kept d ∧
        (st' = rDone → d.fb F.CREW_STAT_FORMED = true ∧ d.isLead = (c.seat == 0) ∧
          d.fb F.CREW_STAT_TIME_LOCKED = (c.seat != 0)) ∧
        (st' ≠ rDone → d.fb F.CREW_STAT_FORMED = c.fb F.CREW_STAT_FORMED ∧ d.f F.CREW_STAT_LINKS_UP = 0 ∧
          ∀ j, j < 4 → d.f (F.CP_STAT_STATE j) = cpOff)) ∧
    (Accepts c 0xB1 p →
      (c.formed = true → Called (.crewLeave p) 0xB1 p s rDone [] fun d => d.fb F.CREW_STAT_FORMED = false ∧ d.isLead = false ∧
        d.f F.CREW_STAT_LINKS_UP = 0 ∧ (∀ j, j < 4 → d.f (F.CP_STAT_STATE j) = cpOff) ∧ d.crew = {} ∧
        Posts c d 0x0C11 31 c.seat ∧ kept d) ∧
      (c.formed = false → Called (.crewLeave p) 0xB1 p s rDone [] (Core.Calm c))) ∧
    (c.formed = true → c.isLead = true → c.peers.contains n.val = true → c.crew.exch = none → c.crew.decided = none → LinksOpen c →
      u.due ≤ c.now → st = cpUp → Runs (.crewReskew n) s fun d => d.f (F.CP_STAT_STATE n) = cpSkew ∧ d.out = ask :: c.out ∧
        d.crewPort n = { u with due := u.due + 600 * sec, since := some c.now } ∧ only d) ∧
    (c.formed = true ∨ c.crew.forming.isSome = true → st = cpTraining ∨ st = cpUp ∨ st = cpSkew →
      (∀ t1 : BitVec 32, Runs (.crewSkewRx n (.ask t1)) s fun d => (d.crewPort n).since = some c.now ∧
        d.out = ⟨n, 0x4F4, [1, t1.toNat, rx, wrap 32 (c.t32 + 18)]⟩ :: c.out ∧
        d.f (F.CP_STAT_STATE n) = (if st = cpUp then cpSkew else st) ∧ only d) ∧
      (∀ (t1 t2 t3 : BitVec 32) (w : BitVec 16),
        let x := wrap 16 ((sext 32 ((rx + 2 ^ 32 - t1.toNat) % 2 ^ 32) - sext 32 ((t3.toNat + 2 ^ 32 - t2.toNat) % 2 ^ 32)) * 8)
        let ended (y : Nat) (d : Core) : Prop := d.f (F.CP_DELAY_D n) = y ∧ d.f (F.CP_STAT_STATE n) = st ∧
          d.crewPort n = { u with relock := some y, rx0 := {}, rx1 := {} } ∧ only d
        Runs (.crewSkewRx n (.reply t1 t2 t3)) s (fun d => ended x d ∧ d.out = ⟨n, 0x4F4, [2, x]⟩ :: c.out) ∧
        Runs (.crewSkewRx n (.final w)) s (fun d => ended w.toNat d ∧ d.out = c.out)) ∧
      (∀ (lane : Fin 2) (msg check : List (BitVec 10)),
        let i : Instr := .crewSkewRx n (.word lane msg check)
        let r := if lane = 0 then u.rx0 else u.rx1
        let o := r.decode lane false (rsSymbols 514 msg ++ rsSymbols 14 check)
        let v := if lane = 0 then { u with rx0 := r.step o } else { u with rx1 := r.step o }
        let e := c.setCrewPort n v
        let e := if o.cw = .uncorrectable then e.inc (R.CP_FEC_UNCORR n) else e
        (u.relock = none → (r.step o).lock = r.lock → Runs i s fun d => d = e) ∧
        (u.relock ≠ none → v.unlocked ≠ 0 → Runs i s fun d => d = e) ∧
        (∀ y, u.relock = some y → v.unlocked = 0 → Runs i s fun d => d.f (F.CP_STAT_STATE n) = cpUp ∧
          bit (d.f F.CREW_STAT_LINKS_UP) n = true ∧ d.n (R.CP_LAST_SKEW n) = c.t32 ∧
          d.crewPort n = { v with since := none, span := (u.since.getD c.now, c.now), held := [], relock := none } ∧
          d.out = (u.held.map c.restamp).reverse ++ c.out ∧
          (st = cpSkew → d.r R.CREW_SKEW_CNT = c.r R.CREW_SKEW_CNT + 1 ∧ Posts c d 0x0C0A n (y / 16)) ∧ only d) ∧
        (u.relock = none → r.lock = true → (r.step o).lock = false → st = cpUp → Runs i s fun d =>
          d.f (F.CP_STAT_STATE n) = cpDown ∧ Posts c d 0x0C07 n (2 ^ lane.val)))) ∧
    (∀ (i : Instr) (mask : Nat), st ≠ cpOff → st ≠ cpDown →
      (∃ lanes : BitVec 2, i = .crewLinkDown ⟨n, lanes⟩ ∧ mask = lanes.toNat) ∨ (i = .crewReskewTimeout n ∧ st = cpSkew ∧
        (∃ t, u.since = some t ∧ t + 12 * usec ≤ c.now) ∧ mask = if u.relock.isSome then u.unlocked else 3) →
      let down (d : Core) : Prop := d.f (F.CP_STAT_STATE n) = cpDown ∧ bit (d.f F.CREW_STAT_LINKS_UP) n = false ∧
        Posts c d 0x0C07 n mask
      (c.formed = false → Runs i s fun d => down d ∧
        d.crewPort n = { u with since := none, held := [], relock := none, rx0 := {}, rx1 := {} } ∧ only d) ∧
      (c.formed = true → c.job.isOpen = false → Runs i s fun d => down d ∧ d.fb F.CREW_STAT_FORMED = false ∧ d.crew = {} ∧
        Posts c d 0x0C11 31 n ∧ kept d) ∧
      (c.formed = true → c.job.isOpen = true → c.isLead = true → c.fb F.CREW_CFG_SAFE_ALL = false → Runs i s fun d => down d ∧
        d.fb F.CREW_STAT_FORMED = true ∧ Posts c d 0x0C0D (n + 0x8000) 0xFFFFFFFF ∧ kept d) ∧
      (c.formed = true → c.job.isOpen = true → c.isLead = true → c.fb F.CREW_CFG_SAFE_ALL = true → c.st ≠ stBoot → Runs i s fun d =>
        down d ∧ d.st = stSafe ∧ Posts c d 0x0C0D (n + 0x8000) 0xFFFFFFFF)) ∧
    (c.formed = true → c.peers.contains n.val = true →
      (∀ m : Bulk, u.since = none → Runs (.crewBulkRx n m false) s fun d => d = { c with out := ⟨n, 0x4F8, []⟩ :: c.out }) ∧
      (∀ l, u.bulk = some l → u.since = none → Runs (.crewBulkRx n .again true) s fun d => d = { c with out := ⟨n, 0x4F8, l⟩ :: c.out }) ∧
      (∀ data, Runs (.crewBulkRx n (.changes data) true) s fun d => d = c.setCrewPort n { u with changes := data })) ∧
    (∀ le first last data, c.formed = true → c.peers.contains n.val = true →
      Runs (.crewBulkRx n (.delivery le first last data) true) s fun d => ∃ e : Core,
      d = (if n.val = 0 ∧ c.loopsRun = true then e.loopForm le else e) ∧ e = { c with crew := e.crew } ∧
      e.crewPort n = { u with changes := data } ∧
      e.crew.edge = (if c.newest.fb F.CREW_CFG_LEFT_EN ∧ c.newest.f F.CREW_CFG_LEFT = n.val then some last else c.crew.edge.1,
        if c.newest.fb F.CREW_CFG_RIGHT_EN ∧ c.newest.f F.CREW_CFG_RIGHT = n.val then some first else c.crew.edge.2) ∧
      e.crew.delivered.contains (n.val, le) = true ∧ ∀ y ∈ c.crew.delivered, y ∈ e.crew.delivered) ∧
    (∀ seat size id since mask, c.crew.forming = some (mask, since) → bit mask n = true → seat < 4 →
      Runs (.crewBulkRx n (.hello seat size id) true) s fun d => (d.crewPort n).hello = some (seat, size) ∧
        d.f (F.CP_STAT_PEER n) = seat ∧ d.fb (F.CP_STAT_PEER_VALID n) = true ∧
        (c.seat < n.val → (d.crewPort n).since = some c.now ∧ d.out = ask :: c.out) ∧ (n.val ≤ c.seat → d.out = c.out) ∧ only d)

/-- Position, speed, time, umpire state and seams between members (R461-R464, R468, R471): a POS waits for T + CREW_LAT or, late, is
counted; a repeat brings only STANDSTILL; without one a member flies on its last speed for 100 µs; TIME gives the offset; a member in SAFE takes the crew along. -/
def Obligations.CrewFollows : Prop :=
  ∀ s : State,
    let c := s.core
    let x := c.crew
    let member := c.crewMember = true
    let lead := c.formed = true ∧ c.isLead = true
    let still (y : Int) : Prop := (∀ m, m < 16 → c.fb (F.CMP_CFG_EN m) = false) ∧ (∀ m, m < 16 → (c.bar m).pend = []) ∧
      (c.web.pitch = 0 ∨ (if c.web.rev then c.web.bNext < y else y < c.web.bNext))
    (∀ (t : BitVec 32) (pos : Int) (speed : BitVec 32) (flags : Fin 8) (seq : BitVec 16),
      let age := sext 32 ((c.t32 + 2 ^ 32 - t.toNat) % 2 ^ 32) * 4 / 5
      let m : PosMsg := { t := (c.now - age).toNat, pos := pos, speed := speed.toInt, still := bit flags.val 1, neg := bit flags.val 0
                          lost := false }
      member → bit flags.val 2 = false →
      (c.fb F.WEB_SRC_LOST = false → x.got = false ∨ x.seq ≠ seq.toNat → c.now ≤ m.t + c.crewLat →
        Runs (.crewPosRx t pos speed flags seq) s fun d => d = (c.perf 238).setCrew { x with
          rxAt := c.now, seq := seq.toNat, got := true, queue := x.queue ++ [m] }) ∧
      (c.fb F.WEB_SRC_LOST = false → x.got = true → x.seq = seq.toNat → m.still = false →
        Runs (.crewPosRx t pos speed flags seq) s fun d =>
          d = ((c.perf 238).setCrew { x with rxAt := c.now }).setB F.CREW_STAT_FLYWHEEL false) ∧
      (c.fb F.WEB_SRC_LOST = false → x.got = true → x.seq = seq.toNat → m.still = true →
        Runs (.crewPosRx t pos speed flags seq) s fun d => d.r R.WEB_SPEED = 0 ∧ d.crew.still = true ∧ d.webPosRaw = c.webPosRaw ∧
          d.fb F.CREW_STAT_FLYWHEEL = false ∧ (c.st ≠ stPrinting → d.job = c.job ∧ d.st = c.st) ∧
          (c.st = stPrinting → c.job.aborting = false → c.jobWaits = false → d.st = stHold)) ∧
      (c.fb F.WEB_SRC_LOST = false → x.got = false ∨ x.seq ≠ seq.toNat → m.t + c.crewLat < c.now → still pos → m.still = false →
        Runs (.crewPosRx t pos speed flags seq) s fun d => d.r R.CREW_POS_LATE_CNT = c.r R.CREW_POS_LATE_CNT + 1 ∧
          d.crew.pos = pos ∧ d.crew.speed = m.speed ∧ d.crew.queue = x.queue ∧ d.job = c.job) ∧
      (c.fb F.WEB_SRC_LOST = true → Runs (.crewPosRx t pos speed flags seq) s fun d =>
        d = (c.perf 238).setCrew { x with rxAt := c.now, seq := seq.toNat, got := true })) ∧
    (∀ m rest, x.queue = m :: rest → m.t + c.crewLat ≤ c.now → still m.pos →
      (c.isLead = true → Runs .crewPosApply s fun d => d = c.setCrew { x with queue := rest }) ∧
      (c.isLead = false → m.still = false ∨ c.st ≠ stPrinting → Runs .crewPosApply s fun d =>
        d.crew = { x with queue := rest, pos := m.pos, speed := m.speed, neg := m.neg, still := m.still, sent := some m } ∧
        d.r R.WEB_SPEED = BitVec.ofInt 32 (if m.still then 0 else m.speed) ∧ d.fb F.CREW_STAT_FLYWHEEL = false ∧
        (member → c.fb F.WEB_SRC_LOST = false → d.webPosRaw = m.pos) ∧ d.web.s = c.web.s ∧ d.job = c.job)) ∧
    (∀ m, lead → LinksOpen c → x.sent = some m → x.sentAt + usec ≤ c.now → Runs .posRepeat s fun d =>
      d.out = toPeers c 0xF2 [m.t, c.webPosRaw, c.i R.WEB_SPEED, b2n (c.fb F.WEB_SRC_LOST) * 4 +
        b2n (c.fb (F.ENC_STATUS_STANDSTILL (c.f F.WEB_SRC_ACTIVE))) * 2 + b2n c.webNeg, x.seq] ++ c.out ∧
      d.crew.seq = x.seq ∧ d.crew.sentAt = c.now ∧ Core.Only [] { c with crew := d.crew, out := d.out } d) ∧
    (lead → LinksOpen c → x.sent = none → x.sentAt + usec ≤ c.now → Runs .posRepeat s fun d => d.crew.seq = (x.seq + 1) % 2 ^ 16 ∧
      d.crew.sentAt = c.now ∧ d.crew.sent ≠ none ∧ d.out.length = c.out.length + c.peers.length) ∧
    (member → x.rxAt + 2 * usec ≤ c.now → Runs .crewFlywheel s fun d => d = c.setB F.CREW_STAT_FLYWHEEL true) ∧
    (∀ m, let at_ := c.now - c.crewLat
      let y := m.pos + m.speed * 65536 * 5 * ((at_ - m.t : Nat) : Int) / 4
      member → x.sent = some m → x.still = false → m.speed ≠ 0 → m.t < at_ → c.fb F.WEB_SRC_LOST = false → still y →
        c.coast.webPosRaw = y ∧ c.coast.r R.WEB_SPEED = BitVec.ofInt 32 m.speed ∧ c.coast.web.s = c.web.s ∧ c.coast.job = c.job) ∧
    (member → x.still = true ∨ x.sent = none ∨ c.fb F.WEB_SRC_LOST = true → c.coast = c) ∧
    (member → x.rxAt + 100 * usec ≤ c.now → c.fb F.WEB_SRC_LOST = false → c.st ≠ stBoot → Runs .crewPosLoss s fun d =>
      d.fb F.WEB_SRC_LOST = true ∧ d.web.lostPos = c.webPosRaw ∧ d.webPosRaw = c.webPosRaw ∧ d.ump.faultN = true ∧ d.st = stSafe ∧
      Posts c d 0x010E (31 + 0x8000) 0xFFFFFFFF) ∧
    (c.formed = true ∨ x.forming.isSome = true → c.seat = 0 → LinksOpen c → x.timeAt + msec ≤ c.now → Runs .crewTimeTx s fun d =>
      d = { c with crew := { x with timeAt := c.now }, out := toPeers c 0xF3 [c.stamp / 2 ^ 32 + 18] ++ c.out }) ∧
    (∀ t : BitVec 64,
      let th := roundDiv (16 * (((c.stamp / 2 ^ 32 : Nat) : Int) - 21 - t.toNat) - c.f (F.CP_DELAY_D 0)) 16
      c.formed = true ∨ x.forming.isSome = true → c.seat ≠ 0 → c.coxHere = true → Runs (.crewTimeRx t) s fun d =>
        d.r R.CREW_TIME_OFS = BitVec.ofInt 32 th ∧ d.r R.TIME_OFFSET = BitVec.ofInt 32 th ∧ d.web = c.web ∧ d.job = c.job ∧
        (x.forming.isSome = true → x.stepped = false → d.crew.stepped = true ∧
          (d.clk.time : Int) = ((c.clk.time : Int) - th * 2 ^ 32) % 2 ^ 96 ∧ d.timeState = tAcquiring)) ∧
    (c.formed = true → LinksOpen c → x.umpAt + 10 * usec ≤ c.now → Runs .crewUmpTx s fun d =>
      d = { c with
        crew := { x with umpAt := c.now }
        out := toPeers c 0xF6 [(b2n (c.st == stSafe) + b2n c.ump.faultN * 2 + b2n (c.f F.UMP_STAT_HEALTH == 1) * 4 : Nat)] ++
          c.out }) ∧
    (∀ (seat : Fin 4) (safe faultN degraded : Bool), c.formed = true → c.peers.contains seat.val = true →
      let u := { c.crewPort seat with ump := b2n safe + b2n faultN * 2 + b2n degraded * 4 }
      (safe = false ∨ bit (c.crewPort seat).ump 0 = true ∨ c.fb F.CREW_CFG_SAFE_ALL = false →
        Runs (.crewUmpRx seat safe faultN degraded) s fun d => d = c.setCrewPort seat u) ∧
      (safe = true → bit (c.crewPort seat).ump 0 = false → c.fb F.CREW_CFG_SAFE_ALL = true → c.st ≠ stBoot →
        Runs (.crewUmpRx seat safe faultN degraded) s fun d => d.crewPort seat = u ∧ d.st = stSafe ∧
          (c.st ≠ stSafe → d.f F.UMP_STAT_SAFE_CAUSE = 4) ∧ Posts c d 0x0C0B seat seat)) ∧
    (∀ (right : Bool) (sigma : BitVec 48) (fires : BitVec 8) (vals : List (BitVec 16)),
      let key := 2 * sigma.toNat + b2n right
      let y : SeamRec := { fires := fires.toNat, vals := (vals.take 8).map (·.toNat) }
      (c.formed = false ∨ c.printing = false ∨ c.final (sigma.toNat + c.sTof) = true →
        Runs (.crewSeamRx right sigma fires vals) s fun d => d = c) ∧
      (c.formed = true → c.printing = true → c.final (sigma.toNat + c.sTof) = false →
        Runs (.crewSeamRx right sigma fires vals) s fun d => Tab.get (fun _ => {}) d.pipe.seams key = y ∧
          Tab.get (fun _ => false) d.pipe.seamIn key = true ∧ d.web = c.web ∧ d.job = c.job ∧
          (seamDiff (Tab.get (fun _ => {}) c.pipe.seams key) y = [] →
            Core.Only [R.CREW_SEAM_SQ_CNT] { c with pipe := d.pipe } d)))

/-- The commit token (R128, R468-R470): a request opens an exchange or waits; a member prepares and votes; the lead decides with the last
vote, which a silent member's BUSY stands for after 15 µs; a chained SC_U0 beyond a member's
range, or an effective line beyond JOB_LAST + 1, is RANGE; what is decided waits for T_a and is then applied or refused. -/
def Obligations.CrewDecides : Prop :=
  ∀ s : State,
    let c := s.core
    let x := c.crew
    let lead := c.formed = true ∧ c.isLead = true
    let member := c.formed = true ∧ c.isLead = false ∧ c.coxHere = true
    let kept (d : Core) : Prop := d.web = c.web ∧ d.job = c.job
    let voted (v : CrewVote) (id : Nat) : Msg := ⟨0, 0x4F5, [2, c.seat, id, v.status.toNat, (match v.left with
      | some l => l.val
      | none => 4), v.u0, v.u16, b2n v.u0Range.isSome, (v.u0Range.getD (0, 0)).1, (v.u0Range.getD (0, 0)).2, v.minB, v.lead]⟩
    (∀ (seat : Fin 4) (req : CrewReq), lead → c.peers.contains seat.val = true →
      (x.exch ≠ none ∨ x.decided ≠ none → Runs (.crewTokenReq seat req) s fun d =>
        d = c.setCrew { x with asks := x.asks ++ [(seat.val, req)] }) ∧
      (∀ op id b pos, x.exch = none → x.decided = none → x.asks = [] → req = .job op id b pos → Runs (.crewTokenReq seat req) s fun d =>
        d.crew.asks = [] ∧ d.crew.nextId = (x.nextId + 1) % 256 ∧
        d.crew.prep = some { id := x.nextId, seat := seat, req := req, gen := c.newest, status := c.voteState req } ∧
        d.crew.exch = some { id := x.nextId, seat := seat, req := req, sentAt := c.now
                             votes := [(c.seat, c.voteFor c.newest (c.voteState req))] } ∧
        (LinksOpen c → d.out = toPeers c 0xF5 ([1, (x.nextId : Int), (seat.val : Int)] ++ reqFields req ++
          (c.commons c.newest).map Int.ofNat) ++ c.out) ∧ kept d)) ∧
    (∀ (id : BitVec 8) (seat : Fin 4) (commons : List Nat), member → (c.crewPort 0).since = none →
      (∀ op j b pos, Runs (.crewPrepare id seat (.job op j b pos) commons) s fun d =>
        d.crew.prep = some { id := id.toNat, seat := seat, req := .job op j b pos, gen := c.newest
                             status := if c.opLegal op then rDone else rNotNow } ∧
        d.out = voted (c.voteFor c.newest (if c.opLegal op then rDone else rNotNow)) id.toNat :: c.out ∧ d = { c with crew := d.crew, out := d.out }) ∧
      (∀ kind l n strict,
        let st := (c.commitJudge c.shadowGen kind l n false).1
        let st := if st = rDeferred then rDone else st
        let st := if st ≠ rBusy ∧ c.commons c.shadowGen ≠ commons then rBadParam else st
        let st := if c.opLegal 0x30 then st else rNotNow
        Runs (.crewPrepare id seat (.commit kind l n strict) commons) s fun d =>
          d.crew.prep = some { id := id.toNat, seat := seat, req := .commit kind l n strict, gen := c.shadowGen, status := st } ∧
          (∃ v, v.status = BitVec.ofNat 8 st ∧ d.out = voted v id.toNat :: c.out) ∧ kept d)) ∧
    (∀ (seat : Fin 4) (id : BitVec 8) (v : CrewVote) (e : Exch) (i : Instr), lead → x.exch = some e →
      c.peers.contains seat.val = true → (∀ w ∈ e.votes, w.1 ≠ seat.val) →
      (i = .crewVote seat id v ∧ id.toNat = e.id) ∨ (i = .crewVoteTimeout seat ∧ e.sentAt + 15 * usec ≤ c.now ∧
        v = { status := BitVec.ofNat 8 rBusy, left := none, u0 := 0, u16 := 0, u0Range := none, minB := 0 }) →
      let votes := e.votes ++ [(seat.val, v)]
      let torn := (match e.req with
        | .commit .. => votes.any fun w => match chainU0 votes 4 w.1, w.2.u0Range with
          | some u, some (a, b) => decide (u < a) || decide (b < u)
          | _, _ => false
        | _ => false)
      let st := firstFail ((votes.map fun w => w.2.status.toNat) ++ if torn then [rRange] else [])
      (votes.length < c.f F.CREW_CFG_SIZE → Runs i s fun d => d = c.setCrew { x with exch := some { e with votes := votes } }) ∧
      (c.f F.CREW_CFG_SIZE ≤ votes.length → st < 256 →
        (st ≠ rDone → st ≠ rDeferred → Runs i s fun d => ∃ y, d.crew.decided = some y ∧ d.crew.exch = none ∧
          y.at_ = c.now + c.crewLat ∧ y.dec.status = BitVec.ofNat 8 st ∧ y.dec.gen = BitVec.ofNat 8 c.job.genNum ∧
          y.dec.ta = BitVec.ofNat 32 (c.t32 + c.f F.CREW_LAT_NS) ∧ kept d ∧ (reqGen e.req = true →
            d.r R.CREW_TOKEN_CNT = c.r R.CREW_TOKEN_CNT + 1 ∧ d.r R.CREW_TOKEN_REFUSE_CNT = c.r R.CREW_TOKEN_REFUSE_CNT + 1)) ∧
        (∀ kind l n strict pr, st = rDone → e.req = .commit kind l n strict → x.prep = some pr →
          let minB := (votes.filter fun w => w.2.status.toNat ≠ rBusy).foldl (fun b w => min b w.2.minB) c.ownMinB
          let early := votes.foldl (fun b w => max b w.2.lead) 0
          let ahead := { c with web := { c.web with s := c.web.s + c.strokesAhead } }.setMinB minB
          let r := ahead.effAhead pr.gen kind l n early
          let st' := if (r.2 && strict) = true ∨ pr.gen.jobLast + 1 < r.1 then rRange else if r.2 then rDeferred else rDone
          Runs i s fun d => ∃ y, d.crew.decided = some y ∧ d.crew.exch = none ∧ y.at_ = c.now + c.crewLat ∧
            y.dec.status = BitVec.ofNat 8 st' ∧ y.dec.le = r.1 ∧ kept d ∧
            y.dec.gen = BitVec.ofNat 8 (if st' = rRange then c.job.genNum else c.job.genNum + 1) ∧
            d.r R.CREW_TOKEN_CNT = c.r R.CREW_TOKEN_CNT + 1 ∧
            d.r R.CREW_TOKEN_REFUSE_CNT = c.r R.CREW_TOKEN_REFUSE_CNT + (if st' = rRange then 1 else 0)))) ∧
    (∀ (id : BitVec 8) (dec : CrewDec), member → Runs (.crewDecide id dec) s fun d =>
      d.crew = { x with
        prep := x.prep.filter fun pr => pr.id == id.toNat
        decided := some ⟨c.now + (max 0 (sext 32 ((dec.ta.toNat + 2 ^ 32 - c.t32) % 2 ^ 32))).toNat * 4 / 5, dec⟩
        minB := if dec.status.toNat = rDone ∨ dec.status.toNat = rDeferred then some dec.minB else x.minB } ∧
      (∀ pr, x.prep = some pr → pr.id = id.toNat → reqGen pr.req = true → d.r R.CREW_TOKEN_CNT = c.r R.CREW_TOKEN_CNT + 1 ∧
        (dec.status.toNat ≠ rDone → dec.status.toNat ≠ rDeferred →
          d.r R.CREW_TOKEN_REFUSE_CNT = c.r R.CREW_TOKEN_REFUSE_CNT + 1)) ∧
      Core.Only [R.CREW_TOKEN_CNT, R.CREW_TOKEN_REFUSE_CNT] { c with crew := d.crew } d) ∧
    (∀ (y : Dec) (pr : Prep), x.decided = some y → y.at_ ≤ c.now → c.isLead = false → x.prep = some pr →
      c.st ≠ stPrinting ∨ c.webStands = false →
      let past (le : Nat) : Bool := match pr.req with
        | .loops l => decide (le ≤ l)
        | _ => false
      let taken : Core := c.setCrew { x with
        decided := none, prep := none, own := []
        frozen := x.frozen.filter fun f => !past f.1, delivered := x.delivered.filter fun e => !past e.2 }
      let st := y.dec.status.toNat
      (∀ op j b pos, pr.seat = c.seat → pr.req = .job op j b pos → x.own = [(pr.req, none)] → st ≠ rDone → st ≠ rDeferred →
        Runs .crewTokenApply s fun d => d = taken.answerWaiting op st []) ∧
      (x.own = [] →
        (st ≠ rDone → st ≠ rDeferred → reqGen pr.req = true → Runs .crewTokenApply s fun d =>
        Posts c d 0x0C0C 31 (y.dec.gen.toNat * 256 + st) ∧ Core.Quiet taken d) ∧
        (st = rDone ∨ st = rDeferred →
        (∀ kind l n strict, pr.req = .commit kind l n strict → Runs .crewTokenApply s fun d =>
          d.crew.decided = none ∧ d.job.genNum = (c.job.genNum + 1) % 256 ∧ d.newest.le = y.dec.le ∧
          (st = rDeferred → d.r R.CMT_DEFER_CNT = c.r R.CMT_DEFER_CNT + 1) ∧
          Posts c d 0x0C0C 31 (y.dec.gen.toNat * 256 + st) ∧ d.web.s = c.web.s) ∧
        (∀ op j b pos, pr.req = .job op j b pos → Runs .crewTokenApply s fun d => d = taken.jobOp op j b pos))))


/-! ### The logbook, replay and test -/

/-- Replay has ended with a reason and a status: IDLE, the job closed and its positions cleared, 0x0A24 (R505, R510). -/
def Sys2Proof.Claims.Ended (c d : Core) (reason status : Nat) : Prop :=
  d.replay = false ∧ d.st = stIdle ∧ d.f F.LOG_RPL_STAT_STATE = 3 ∧ d.f F.LOG_RPL_STAT_REASON = reason ∧ d.job.isOpen = false ∧
    d.job.tof = false ∧ d.rpl = {} ∧ Posts c d 0x0A24 31 (reason * 256 + status)

/-- The logbook and replay (R497, R502, R505-R510): a block closes 10 ms after its first record; a record lost is counted; a replay
begins with the recording's SNAPSHOT, takes its records when they are due and ends with END, a GAP, its stop or its last record. -/
def Obligations.LogAndReplay : Prop :=
  ∀ (p : Packet) (s : State),
    let c := s.core
    let q := packetInput p
    (c.logging = true →
      (if c.log.blk = [] then c.log.web ≠ [] ∧ c.log.webAt + 10 * msec ≤ c.now else c.log.blkStart + 10 * msec ≤ c.now) →
      Runs .logBlockClose s fun d => d.log.blk = [] ∧ d.log.web = [] ∧ Core.Quiet c d) ∧
    (c.logging = true → (Runs .logLost s fun d => d = { c with log := { c.log with full := true } }) ∧
      (c.log.full = true → c.log.snapDue = false → c.log.web = [] → ∀ ty l, ty ≠ 1 →
        (c.logRec ty l).r R.LOG_LOST_CNT = c.r R.LOG_LOST_CNT + 1 ∧ (c.logRec ty l).log.blk = c.log.blk ∧
        (c.logRec ty l).log.full = false ∧ (c.logRec ty l).log.lost = c.log.lost + 1)) ∧
    (Tab.get (fun _ => 0) c.hi.lastPost (0x0A22 * 65536 + 31) = 0 → c.log.lostDue = true →
      Posts c c.logLostPost 0x0A22 31 ((c.log.lostAt.filter fun x => c.now < x.1 + sec).map (·.2)).sum) ∧
    (∀ hs, let t := c.taken 0x92 p
      let addr := q.u64 0
      let n := q.u64 8 / 2 ^ 20
      let recs := joinRecs (hs.zipIdx.flatMap fun x => t.segRecs (addr + x.2 * 2 ^ 20) (le x.1 32 4))
      let first := recs.headD (256, false, 0, [])
      let snap := snapParse first.2.2.2
      Accepts c 0x92 p → addr % 64 = 0 → q.u64 8 % 2 ^ 20 = 0 → n ≠ 0 → c.mayReach addr (q.u64 8) = true →
      t.segHeads addr n = some hs → headsOk hs = true → first.1 = 1 → snap.out = c.n R.DEV_NIB_OUT → snap.state < 8 →
      (∀ x ∈ recs.filterMap digestPa ++ snap.pas, c.mayReach x.1 x.2 = true) →
      (∀ x ∈ mirrorPas snap recs, x.1 + x.2 ≤ c.mirTop) →
      Called (.replayStart p) 0x92 p s rDone [] fun d => d.replay = true ∧ d.st = snap.state ∧ d.f F.LOG_RPL_STAT_STATE = 2 ∧
        d.web.s = snap.s ∧ d.rpl.s0 = snap.s ∧ d.rpl.recs = timeRecs (c.now + msec) 0 (((recs.drop 1).head?.map (·.2.2.1)).getD 0)
          (recs.drop 1) ∧ d.job.shadow = snap.shadow ∧ d.job.force.tabs = snap.force ∧ Posts c d 0x0A01 31 (c.st * 256 + stReplay)) ∧
    (Accepts c 0x93 p → Called (.replayStop p) 0x93 p s rDone [] fun d => Ended c d 1 rDone) ∧
    (c.replay = false → Runs .replayRecord s fun d => d = c) ∧
    (c.replay = true →
      (c.rpl.recs = [] → Runs .replayRecord s fun d => Ended c d 0 rDone) ∧
      (∀ x rest, c.rpl.recs = x :: rest →
        (c.now < x.due → Runs .replayRecord s fun d => d = c) ∧
        (x.due ≤ c.now → x.ty = 0x1C → Runs .replayRecord s fun d => Ended c d 0 rDone) ∧
        (x.due ≤ c.now → x.ty = 0x1B → Runs .replayRecord s fun d => Ended c d 2 rBadParam) ∧
        (x.due ≤ c.now → rest ≠ [] → x.ty = 0x12 → (∀ y ∈ c.log.own, x.due ≤ y.2.1 + msec) → c.printing = false ∨ (c.fb (F.HH_THETA_WARM (le x.body 0 2 % 1024)) = true ∧
          ∀ e ∈ c.heads, e.2.wantDerate = []) → Runs .replayRecord s fun d => d.replay = true ∧ d.rpl.recs = rest ∧
          d.f (F.HH_THETA_THETA (le x.body 0 2 % 1024)) = le x.body 2 2 ∧ d.web = c.web ∧ d.job = c.job) ∧
        (x.due ≤ c.now → rest ≠ [] → x.ty = 0x18 → (∀ y ∈ c.log.own, x.due ≤ y.2.1 + msec) →
          let bars := (List.range 16).filter fun b => bit (le c.sigFolds 0 2) b != bit (le x.body 6 2) b ||
            le c.sigFolds (2 + 4 * b) 4 != le x.body (8 + 4 * b) 4
          (bars = [] → Runs .replayRecord s fun d => d.r R.LOG_RPL_SIG_CNT = c.r R.LOG_RPL_SIG_CNT + 1 ∧
            d.r R.LOG_RPL_MISMATCH_CNT = c.r R.LOG_RPL_MISMATCH_CNT ∧ d.rpl.recs = rest) ∧
          (bars ≠ [] → c.fb F.LOG_RPL_CFG_STOP_ON_MISMATCH = false → Runs .replayRecord s fun d =>
            d.r R.LOG_RPL_SIG_CNT = c.r R.LOG_RPL_SIG_CNT + 1 ∧ d.r R.LOG_RPL_MISMATCH_CNT = c.r R.LOG_RPL_MISMATCH_CNT + 1 ∧
            Posts c d 0x0A25 31 (bars.foldl (fun m b => m + 2 ^ b) 0) ∧ d.replay = true ∧ d.rpl.recs = rest))))

/-- The performance counters' snapshot, the interface tests and the test access port (R514, R515, R519, R531). -/
def Obligations.TestPort : Prop :=
  ∀ s : State,
    let c := s.core
    (Answers c R.PERF_SNAP → Runs .perfSnap s fun d => (∀ k, k < 256 → d.r (R.PERF_SNAPV k) = d.r (R.PERF_CNT k)) ∧
      d.n R.PERF_SNAP_T32 = c.t32 ∧ Core.Quiet c d) ∧
    (∀ (v : Word) (x : TstSeen), Answers c R.TST_CTRL →
      let now := c.f F.TST_CTRL_IF
      let ifc := bits v.toNat 0 4
      let idx := bits v.toNat 4 4
      let only (d : Core) : Prop := Core.Only [R.TST_CTRL, R.TST_STAT, R.TST_ERR] { c.resvNote R.TST_CTRL v with tst := d.tst } d
      (now = 0 → ifc ≠ 0 → c.testAllowed ifc idx = true → Runs (.tstCtrlWrite v x) s fun d =>
        d.n R.TST_CTRL = v.toNat % 2 ^ 14 ∧ d.fb F.TST_STAT_ACTIVE = true ∧ d.tst.since = c.now ∧ d.tst.made = 0 ∧
        d.tst.goal = c.f F.TST_COUNT_CNT ∧ d.tst.start = (c.enc idx).count ∧ d.r R.TST_ERR = c.r R.TST_ERR ∧ only d) ∧
      (now ≠ 0 → now = ifc → c.f F.TST_CTRL_INDEX = idx → c.testAllowed ifc idx = true → Runs (.tstCtrlWrite v x) s fun d =>
        d.n R.TST_CTRL = v.toNat % 2 ^ 14 ∧ d.fb F.TST_STAT_ACTIVE = true ∧ d.tst = { c.tst with ref := [] } ∧
        d.r R.TST_ERR = c.r R.TST_ERR + BitVec.ofNat 32 x.errs ∧ only d) ∧
      (now ≠ 0 → ifc = 0 → Runs (.tstCtrlWrite v x) s fun d => d.n R.TST_CTRL = v.toNat % 2 ^ 14 ∧
        d.fb F.TST_STAT_ACTIVE = false ∧ d.r R.TST_ERR = c.r R.TST_ERR + BitVec.ofNat 32 x.errs ∧
        Posts c d 0x0A27 31 (d.n R.TST_ERR) ∧ only d) ∧
      (c.testAllowed ifc idx = false ∨ now ≠ 0 ∧ ifc ≠ 0 ∧ ¬ (now = ifc ∧ c.f F.TST_CTRL_INDEX = idx) →
        Runs (.tstCtrlWrite v x) s (Core.Quiet (c.resvNote R.TST_CTRL v)))) ∧
    (∀ ir : TapInstr, Does (.tapInstruction ir) s fun t => t.tap.instr = ir ∧
      (ir = .idcode → t.core.lastRead = 0x1E220A53) ∧
      (ir = .bypass ∨ ir = .clamp ∨ ir = .highz ∨ (∃ l, ir = .extest l) ∧ c.st ≠ stBoot → t.core.lastRead = 0 ∧ t.tap = { s.tap with instr := ir }) ∧
      (∀ l, ir = .samplePreload l ∨ ir = .extest l ∧ c.st = stBoot → t.tap.cells = bsLoad s.tap.cells l ∧
        t.tap.seen = ({ s with tap := { s.tap with instr := ir } } : State).bsCapture) ∧
      (∀ b : Ball, b.inChain = true → b.dir = .output → c.st = stBoot →
        (ir = .highz → t.level b = some .open_) ∧ (ir = .clamp ∨ (∃ l, ir = .extest l) → t.level b = t.cellLevel b)) ∧
      (∀ b : Ball, c.st ≠ stBoot → t.level b = s.level b) ∧
      t = { s with tap := t.tap, core := { c with lastRead := t.core.lastRead, freeCtr := t.core.freeCtr } }) ∧
    Does .trstNReset s (fun t => t = { s with tap := {} })

/-! ### Power, clocks, resets and boot -/

/-- The block after a reset with a cause (R524, R531, R532): BOOT, no unit at work, queue and head boards as they were; after a cold
one every register but those that R531 keeps and those that tell of the reset is at its reset value, and the time restarts. -/
def Sys2Proof.Claims.AfterReset (s t : State) (warm : Bool) (cause : Nat) : Prop :=
  let c := s.core
  let d := t.core
  d.st = stBoot ∧ d.pwr.held = 0 ∧ d.pwr.latch = false ∧ d.f F.PWR_RST_CAUSE_CAUSE = cause ∧
    d.fb F.PWR_RST_CAUSE_WARM = warm ∧ d.fb F.PWR_RST_CAUSE_AFTER_TRIP = c.pwr.latch ∧ d.clk = {} ∧ d.web = {} ∧ d.job = {} ∧
    d.bars = [] ∧ d.crew = {} ∧ t.reqs = [] ∧ t.leg = { ldadr := s.leg.ldadr } ∧ t.boards = s.boards ∧ t.pending = s.pending ∧
    d.n R.UMP_EVS_BOOT = c.n R.UMP_EVS_BOOT ∧ d.pwr.mode = d.pwr.pins ∧ d.f F.PWR_BOOT_STAT_MODE = d.pwr.pins % 4 ∧
    (c.asyncOf 0x04 = none → d.ump.fw.flash = c.ump.fw.flash) ∧
    (∀ a, c.asyncOf 0x04 = some a → 0 < a.c → ∀ y, imageBase (a.c - 1) ≤ y → y < imageBase (a.c - 1) + 65536 →
      Tab.get erased d.ump.fw.flash y = 0xFF) ∧
    (if warm then (∀ off, off / 0x10000 = 0xC → d.r off = c.r off) else d.mem = {}) ∧
    (warm = false → ∀ off, keptAlways off = false → off ∉ [R.PWR_RST_CAUSE, R.PWR_BOOT_STAT, R.CLK_STAT] → d.r off = regReset off)

/-- Resets and what holds the device (R369, R384, R524, R530-R532, R543): each has its cause, and what enters
BOOT posts 0x0A01; a device tripped and still too hot stays held;
with no power or no REFCLK nothing but their return starts it. -/
def Obligations.ResetsTaken : Prop :=
  ∀ s : State,
    let c := s.core
    let cool := c.pwr.latch = false ∨ c.tooHot = false
    let hot := c.pwr.latch = true ∧ c.tooHot = true
    let heldAgain (t : State) : Prop := t.core.pwr.held = 2 ∧ t.core.pwr.latch = true ∧ t.core.job = c.job
    let off (k : Nat) (t : State) : Prop := t.core.pwr.held = k ∧ t.core.st = stBoot ∧ t.core.bars = [] ∧ t.core.job = {} ∧
      t.core.ump.faultN = true ∧ t.reqs = [] ∧ t.pending = s.pending ∧
      (c.st = stBoot → t.core.hi.host = c.hi.host ∧ t.core.posted = c.posted) ∧
      (c.st ≠ stBoot → Posts c t.core 0x0A01 31 (c.devState * 256 + stBoot))
    (∀ mode : Fin 4, (cool → Does (.powerOnReset mode) s fun t => AfterReset s t false 1 ∧ t.tap = {} ∧
        t.core.pwr.pins = mode.val ∧ t.core.fb F.CLK_STAT_REFCLK_OK = true) ∧ (hot → Does (.powerOnReset mode) s heldAgain)) ∧
    (c.fb F.CLK_STAT_REFCLK_OK = true → c.pwr.held ≠ 3 → (cool → Does .rstNReset s fun t => AfterReset s t false 2 ∧ t.tap = s.tap ∧
      t.core.pwr.pins = c.pwr.pins) ∧ (hot → Does .rstNReset s heldAgain)) ∧
    (c.fb F.CLK_STAT_REFCLK_OK = false ∨ c.pwr.held = 3 → Does .rstNReset s fun t => t = s) ∧
    (∀ a, c.asyncOf 0x02 = some a →
      (c.now < a.a + 100 * usec → Does .warmReset s fun t => t = s) ∧
      (a.a + 100 * usec ≤ c.now → cool → Does .warmReset s fun t => AfterReset s t true 3 ∧ t.tap = s.tap)) ∧
    (c.pwr.held ≠ 3 → c.fb F.CLK_STAT_REFCLK_OK = false →
      (cool → Does .refclkReturn s fun t => AfterReset s t false 4 ∧ t.core.fb F.CLK_STAT_REFCLK_OK = true) ∧
      (hot → Does .refclkReturn s fun t => heldAgain t ∧ t.core.fb F.CLK_STAT_REFCLK_OK = true)) ∧
    (c.pwr.held = 3 ∨ c.fb F.CLK_STAT_REFCLK_OK = true → Does .refclkReturn s fun t => t = s) ∧
    Does .powerDown s (off 3) ∧
    (c.pwr.held ≠ 3 → c.fb F.CLK_STAT_REFCLK_OK = true → Does .refclkLoss s fun t => off (if c.pwr.held = 2 then 2 else 1) t ∧ t.core.fb F.CLK_STAT_REFCLK_OK = false ∧
      (c.evsSec ≠ c.now / sec → t.core.f F.UMP_EVS_WR_WR = (c.f F.UMP_EVS_WR_WR + 1) % 2048 ∧
        (Tab.get (fun _ => ⟨0, 0, 0, 0, 0, 0, 0⟩) t.core.evs (c.f F.UMP_EVS_WR_WR)).code = 0x0E08)) ∧
    (c.pwr.held = 3 ∨ c.fb F.CLK_STAT_REFCLK_OK = false → Does .refclkLoss s fun t => t = s)

/-- Boot (R533-R538): with all units good the first image of R535 that passes is booted, an image failing sets its FAIL bit and passes
on to the next, a pending one is marked tried, with none boot stops until a reset; the voltage loop is on in any case; an image
downloaded is checked as R536 says. The boot table's SEQ is away from its wrap. -/
def Obligations.BootTaken : Prop :=
  ∀ (okA okB : Bool) (x : RecImage) (ver out : Word) (s : State),
    let c := s.core
    let go (l : List (Fin 2)) (bad : Bool) : Instr := .bootComplete okA okB x ver out [] l bad
    let a := c.flash 0
    let b := c.flash 1
    let pass (i : Nat) : Bool := c.imagePasses (c.flashImage i) (if i = 0 then okA else okB)
    let recv := recImageBytes x ver.toNat out.toNat
    let passRec := c.imagePasses recv x.sigOk
    let stopped (d : Core) : Prop := d.st = stBoot ∧ d.ump.faultN = true ∧ d.pwr.stopped = true ∧ 0xE0 ≤ d.f F.PWR_BOOT_STAT_STAGE ∧
      d.f F.PWR_BOOT_STAT_STAGE ≤ 0xEF ∧ d.fb F.AVS_CFG_EN = true ∧ d.job = c.job
    let runs (img v o : Nat) (l : List Byte) (d : Core) : Prop := d.st = stIdle ∧ d.f F.PWR_BOOT_STAT_IMAGE = img ∧
      d.f F.PWR_BOOT_STAT_STAGE = 0 ∧ d.n R.DEV_COX_VER = v % 2 ^ 32 ∧ d.n R.DEV_NIB_VER = v % 2 ^ 32 ∧
      d.n R.DEV_NIB_OUT = o % 2 ^ 32 ∧ d.ump.faultN = false ∧ d.r R.UMP_EVS_BOOT = c.r R.UMP_EVS_BOOT + 1 ∧ d.pwr.image = l ∧
      Posts c d 0x0D10 31 (d.n R.UMP_EVS_BOOT) ∧ (img < 2 → (d.flash img).state = 3) ∧ d.fb F.AVS_CFG_EN = true ∧
      d.job = c.job ∧ d.web = c.web
    let booted (img : Nat) (l : List Byte) : Core → Prop := runs img (le l 4 4) (le l 8 4) l
    c.st = stBoot → c.pwr.held = 0 → c.bootTab.2.seq + 2 < 2 ^ 32 →
    (c.pwr.stopped = true ∨ c.pwr.download = true → Runs (go [] false) s fun d => d = c) ∧
    (c.pwr.stopped = false → c.pwr.download = false → (∀ n, n < 18 → c.nibState n = (if n < 16 then 2 else 0)) →
    (∀ n, n < 16 → c.f (F.NIBN_STAT_SLICE n) = n) → c.f F.UMP_ISOL_COX_COX = 0 →
    (c.fb F.PWR_RST_CAUSE_WARM = false → Runs (go [] true) s stopped) ∧
    (c.fb F.PWR_RST_CAUSE_WARM = true → Does (go [] true) s fun t => exec (go [] false) s = .next t) ∧
    (Runs (go [0, 1] false) s stopped) ∧
    (∀ i v o, c.pwr.loaded = some (i, v, o) → i < 4 → Runs (go [] false) s (runs i v o c.pwr.image)) ∧
    (c.pwr.loaded = none → c.pwr.mode = 1 → Runs (go [] false) s fun d => d = (c.setB F.AVS_CFG_EN true).bootWait) ∧
    (c.pwr.loaded = none → c.pwr.mode = 0 → c.f F.PWR_BOOT_STAT_FAIL = 0 →
      (a.state = 1 → b.state = 3 → (pass 0 = true → Runs (go [] false) s (booted 0 (c.flashImage 0))) ∧
        (pass 0 = false → pass 1 = true → Runs (go [] false) s fun d => booted 1 (c.flashImage 1) d ∧ (d.flash 0).state = 2)) ∧
      (a.state = 3 → b.state ≠ 1 → (b.state = 3 → b.ver ≤ a.ver) →
        (pass 0 = true → Runs (go [] false) s (booted 0 (c.flashImage 0))) ∧
        (pass 0 = false → b.state = 3 → pass 1 = true → Runs (go [] false) s fun d => booted 1 (c.flashImage 1) d ∧
          d.f F.PWR_BOOT_STAT_FAIL = 1 ∧ (c.fb F.EV_CFG_EN = true → Posts c d 0x0E07 31 (256 + 1))) ∧
        (pass 0 = false → b.state ≠ 3 → passRec = true → Runs (go [] false) s fun d => booted 2 recv d ∧
          d.f F.PWR_BOOT_STAT_FAIL = 1) ∧
        (pass 0 = false → pass 1 = false → passRec = false → Runs (go [] false) s stopped)))) ∧
    (∀ (v : Word) (sigOk : Bool), Answers c R.PWR_BOOT_GO → bit v.toNat 0 = true → c.pwr.download = true →
      c.f F.PWR_BOOT_LEN_LEN ≤ 2 ^ 24 →
      let l := c.rdHost (c.n64 R.PWR_BOOT_ADDR_LO) (c.f F.PWR_BOOT_LEN_LEN)
      (c.imagePasses l sigOk = true → Runs (.bootGoWrite v sigOk) s fun d => d.pwr.download = false ∧
        d.pwr.loaded = some (3, le l 4 4, le l 8 4) ∧ d.pwr.image = l ∧ d.st = stBoot) ∧
      (c.imagePasses l sigOk = false → Runs (.bootGoWrite v sigOk) s fun d => d.f F.PWR_BOOT_STAT_STAGE = 0xE1 ∧ d.pwr = c.pwr ∧
        d.st = stBoot ∧ Core.Only [R.PWR_BOOT_STAT] (c.resvNote R.PWR_BOOT_GO v) d))

/-- The adaptive voltage, the PLLs and the on-die sensors (R525, R526, R529, R541-R543); rows that come at an interval change
nothing before it (log entry 2). -/
def Obligations.PowerWatched : Prop :=
  ∀ s : State,
    let c := s.core
    (∀ (slack : Int) (ok : Bool), c.now < c.ticks.avs → c.pwr.busFails = 0 → Runs (.avsTick slack ok) s fun d => d = c) ∧
    (∀ slack : Int, c.fb F.AVS_CFG_EN = true → c.fb F.AVS_STAT_BUS_FAIL = false → c.pwr.held = 0 →
      c.ticks.avs ≤ c.now ∨ c.pwr.busFails ≠ 0 →
      let next : Ticks := { c.ticks with avs := if c.pwr.busFails = 0 then nextDue c.ticks.avs msec c.now else c.ticks.avs }
      let v := c.f F.AVS_STAT_VOUT
      let ppm := (Config.ringAge c.now).toNat
      let m := ppm * c.f F.PWR_AGE_AGE_K / 1000
      let lo := c.f F.AVS_CFG_VMIN * 5
      let hi := c.f F.AVS_CFG_VMAX * 5
      (lo ≤ v → v ≤ hi → hi < 1024 → Runs (.avsTick slack true) s fun d =>
        d.f F.AVS_STAT_VOUT = (if slack < (c.f F.AVS_CFG_SLACK_LO + m : Nat) then min hi (v + 5)
          else if ((c.f F.AVS_CFG_SLACK_HI + m : Nat) : Int) < slack then max lo (v - 5) else v) ∧
        d.f F.AVS_SLACK_PS = wrap 16 slack ∧ d.pwr.busFails = 0 ∧
        d.pwr.avs = [.voutWrite (d.f F.AVS_STAT_VOUT), .voutRead, .statusRead] ∧
        d.fb F.AVS_STAT_AT_MAX = (decide (v = hi) && decide (slack < (c.f F.AVS_CFG_SLACK_LO : Nat))) ∧
        d.f F.PWR_AGE_PPM = ppm ∧ d.f F.PWR_AGE_AGE_K = c.f F.PWR_AGE_AGE_K ∧
        Core.Only [R.AVS_STAT, R.AVS_SLACK, R.PWR_AGE] { c with pwr := d.pwr, ticks := next } d) ∧
      (Runs (.avsTick slack false) s fun d => d.r R.AVS_ERR_CNT = c.r R.AVS_ERR_CNT + 1 ∧ d.f F.AVS_STAT_VOUT = v ∧
        Core.Only [R.AVS_STAT, R.AVS_SLACK, R.PWR_AGE, R.AVS_ERR_CNT] { c with pwr := d.pwr, ticks := d.ticks } d ∧
        (c.pwr.busFails < 2 → d.fb F.AVS_STAT_BUS_FAIL = false ∧ d.pwr.busFails = c.pwr.busFails + 1 ∧ d.ticks = next) ∧
        (2 ≤ c.pwr.busFails → d.ticks = { next with avsRetry := c.now + 100 * msec } ∧ d.fb F.AVS_STAT_BUS_FAIL = true ∧ Posts c d 0x0E05 31 (d.n R.AVS_ERR_CNT)))) ∧
    (∀ ok : Bool, c.now < c.ticks.avsRetry → Runs (.avsRetry ok) s fun d => d = c) ∧
    (∀ ok : Bool, c.fb F.AVS_STAT_BUS_FAIL = true → c.ticks.avsRetry ≤ c.now → Runs (.avsRetry ok) s fun d =>
      let e : Core := { c with ticks := { c.ticks with avsRetry := nextDue c.ticks.avsRetry (100 * msec) c.now },
                               pwr := { c.pwr with avs := [.statusRead] } }
      d = if ok then e.setB F.AVS_STAT_BUS_FAIL false else e.inc R.AVS_ERR_CNT) ∧
    (∀ (n : Fin 8) (onB : Bool), c.pwr.held = 0 → bit (c.f F.CLK_STAT_FAILED) n = false →
      (bit (c.f F.CLK_STAT_ON_B) n = onB → Runs (.pllLoss n onB) s fun d => bit (d.f F.CLK_STAT_ON_B) n = !onB ∧
        bit (d.f F.CLK_STAT_FAILED) n = true ∧ Posts c d 0x0E06 n (b2n onB) ∧ d.f F.UMP_STAT_HEALTH = c.f F.UMP_STAT_HEALTH ∧
        (∀ m, m < 8 → m ≠ n.val → bit (d.f F.CLK_STAT_ON_B) m = bit (c.f F.CLK_STAT_ON_B) m) ∧ Core.Only [R.CLK_STAT] c d) ∧
      (bit (c.f F.CLK_STAT_ON_B) n ≠ onB → Runs (.pllLoss n onB) s fun d => d.f F.CLK_STAT_ON_B = c.f F.CLK_STAT_ON_B ∧
        bit (d.f F.CLK_STAT_FAILED) n = true ∧ Core.Only [R.CLK_STAT] c d)) ∧
    (∀ vals : List Int, c.now < c.ticks.dts → Does (.dtsSample vals) s fun t => t = s) ∧
    (∀ vals : List Int, vals.length = 8 → c.f F.THERM_STAT_FAILED = 0 → c.pwr.held = 0 → c.ticks.dts ≤ c.now →
      (∀ v ∈ vals, -3520 ≤ v ∧ v ≤ 9600) →
      (c.pwr.latch = true ∨ (∀ v ∈ vals, v < 7360) → Runs (.dtsSample vals) s fun d =>
        d.ticks.dts = nextDue c.ticks.dts (20 * usec) c.now ∧ (∀ j, j < 8 → d.dts j = vals.getD j 0 ∧ d.f (F.DTS_TEMP j) = wrap 16 (vals.getD j 0)) ∧
        d.f F.THERM_STAT_MAX = wrap 16 (vals.foldl max (vals.getD 0 0)) ∧ d.f F.THERM_STAT_FAILED = 0 ∧
        (c.fb F.THERM_STAT_WARNING = false → c.fs F.THERM_WARN_WARN ≤ vals.foldl max (vals.getD 0 0) →
          d.fb F.THERM_STAT_WARNING = true ∧ Posts c d 0x0E01 31 (2 ^ 31 + wrap 16 (vals.foldl max (vals.getD 0 0)))) ∧
        (c.fb F.THERM_STAT_WARNING = true → vals.foldl max (vals.getD 0 0) ≤ c.fs F.THERM_WARN_WARN - c.f F.THERM_WARN_HYST →
          d.fb F.THERM_STAT_WARNING = false) ∧ d.web = c.web ∧ d.job = c.job) ∧
      (∀ p, p < 4 → c.pwr.latch = false → (∀ j, j = 2 * p ∨ j = 2 * p + 1 → 7360 ≤ vals.getD j 0 ∧
        Tab.get (fun _ => false) c.pwr.dtsHot j = true) → Does (.dtsSample vals) s fun t => t.core.pwr.held = 2 ∧
          t.core.pwr.latch = true ∧ t.core.st = stBoot ∧ t.core.bars = [] ∧ t.core.ump.faultN = true)) ∧
    (∀ (j : Fin 8) t, Tab.get (fun _ => none) c.pwr.dtsDiff j = some t → t + sec ≤ c.now → c.dtsFailed j = false →
      (c.pwr.latch = false → c.pwr.held ≠ 3 → c.dtsFailed (j.val ^^^ 1) = false → Tab.get (fun _ => false) c.pwr.dtsHot (j.val ^^^ 1) = true →
        Tab.get (fun _ => false) c.pwr.dtsWas (j.val ^^^ 1) = true → Does (.dtsFail j) s fun t => t.core.pwr.held = 2 ∧
          t.core.pwr.latch = true ∧ t.core.st = stBoot ∧ t.core.mem.dram = c.mem.dram) ∧
      (c.pwr.latch = true ∨ c.pwr.dtsHot = [] → Runs (.dtsFail j) s fun d => d.dtsFailed j = true ∧ Posts c d 0x0E02 j (b2n (c.dtsFailed (j.val ^^^ 1)) * 256 + j) ∧
        Core.Only [R.THERM_STAT] c d)) ∧
    (c.pwr.hotAt + sec ≤ c.now → (∃ j, j < 8 ∧ c.dtsFailed j = false ∧ 6720 < c.dts j) → Runs .thermHotTick s fun d =>
      d.r R.THERM_HOT_S = c.r R.THERM_HOT_S + 1 ∧ d.pwr = { c.pwr with hotAt := c.now } ∧
      Core.Only [R.THERM_HOT_S] { c with pwr := d.pwr } d) ∧
    ((∀ j, j < 8 → c.dtsFailed j = true ∨ c.dts j ≤ 6720) → Runs .thermHotTick s fun d => d = c)

/-! ### Every command -/

/-- Every command completes, whatever the state and its operands: `exec` answers a next state, never a fault or a refusal, and leaves
the queue of waiting commands alone (an access that the device does not serve is a violation, R5; a command that finds nothing to do
leaves the state as it is). -/
def Obligations.CommandsComplete : Prop := ∀ (i : Instr) (s : State), ∃ t, exec i s = .next t ∧ t.pending = s.pending
end

