-- ==== Sys2Proof/Laws/Bits.lean ====
section
/-!
SUPPORT. Fields of a number: a field written reads back, and a disjoint field stays.
-/

namespace Sys2Proof

theorem bits_lt (n lo wid : Nat) : bits n lo wid < 2 ^ wid := Nat.mod_lt _ (Nat.two_pow_pos wid)

theorem b2n_le (b : Bool) : b2n b ≤ 1 := by cases b <;> decide

theorem bits_eq_testBit (n lo wid i : Nat) : (bits n lo wid).testBit i = (decide (i < wid) && n.testBit (lo + i)) := by
  unfold bits
  rw [Nat.testBit_mod_two_pow, Nat.testBit_div_two_pow, Nat.add_comm]

/-- A number split at a field. -/
theorem setBits_split (n lo wid v : Nat) :
    setBits n lo wid v = n / 2 ^ (lo + wid) * 2 ^ (lo + wid) + v % 2 ^ wid * 2 ^ lo + n % 2 ^ lo := by
  have h1 : n = n / 2 ^ (lo + wid) * 2 ^ (lo + wid) + bits n lo wid * 2 ^ lo + n % 2 ^ lo := by
    unfold bits
    have a := Nat.div_add_mod n (2 ^ lo)
    have b := Nat.div_add_mod (n / 2 ^ lo) (2 ^ wid)
    have hd : n / 2 ^ (lo + wid) = n / 2 ^ lo / 2 ^ wid := by rw [Nat.pow_add, Nat.div_div_eq_div_mul]
    rw [hd]
    generalize n / 2 ^ lo / 2 ^ wid = q at *
    generalize n / 2 ^ lo % 2 ^ wid = x at *
    generalize n % 2 ^ lo = y at *
    have : q * 2 ^ (lo + wid) + x * 2 ^ lo = (2 ^ wid * q + x) * 2 ^ lo := by
      rw [Nat.pow_add, Nat.add_mul]; congr 1; rw [Nat.mul_comm (2 ^ wid) q, Nat.mul_assoc, Nat.mul_comm (2 ^ wid)]
    rw [this, b, Nat.mul_comm]; exact a.symm
  unfold setBits
  generalize hx : bits n lo wid * 2 ^ lo = x at *
  generalize n / 2 ^ (lo + wid) * 2 ^ (lo + wid) = q at *
  generalize n % 2 ^ lo = y at *
  omega

theorem setBits_testBit (n lo wid v i : Nat) :
    (setBits n lo wid v).testBit i =
      if i < lo then n.testBit i else if i < lo + wid then v.testBit (i - lo) else n.testBit i := by
  rw [setBits_split]
  have hv : v % 2 ^ wid < 2 ^ wid := Nat.mod_lt _ (Nat.two_pow_pos wid)
  have hl : n % 2 ^ lo < 2 ^ lo := Nat.mod_lt _ (Nat.two_pow_pos lo)
  have e : n / 2 ^ (lo + wid) * 2 ^ (lo + wid) + v % 2 ^ wid * 2 ^ lo + n % 2 ^ lo =
      2 ^ lo * (2 ^ wid * (n / 2 ^ (lo + wid)) + v % 2 ^ wid) + n % 2 ^ lo := by
    rw [Nat.mul_add, ← Nat.mul_assoc, ← Nat.pow_add, Nat.mul_comm (2 ^ lo) (v % 2 ^ wid),
      Nat.mul_comm (2 ^ (lo + wid))]
  rw [e, Nat.testBit_two_pow_mul_add _ hl]
  split
  · rename_i h; rw [Nat.testBit_mod_two_pow]; simp [h]
  · rename_i h
    rw [Nat.testBit_two_pow_mul_add _ hv]
    by_cases h2 : i < lo + wid
    · rw [if_pos (by omega), if_pos h2, Nat.testBit_mod_two_pow]; simp; omega
    · rw [if_neg (by omega), if_neg h2, Nat.testBit_div_two_pow]; congr 1; omega

/-- A field written in a word of 32 bits reads back. -/
theorem bits_setBits_same {n lo wid v : Nat} (h : lo + wid ≤ 32) :
    bits (setBits n lo wid v % 2 ^ 32) lo wid = v % 2 ^ wid := by
  apply Nat.eq_of_testBit_eq
  intro i
  rw [bits_eq_testBit, Nat.testBit_mod_two_pow, setBits_testBit, Nat.testBit_mod_two_pow]
  by_cases hi : i < wid
  · have h1 : lo + i < 32 := by omega
    have h2 : ¬ lo + i < lo := by omega
    have h3 : lo + i < lo + wid := by omega
    rw [if_neg h2, if_pos h3, Nat.add_sub_cancel_left, decide_eq_true h1, Bool.true_and]
  · simp [hi]

/-- A disjoint field stays. -/
theorem bits_setBits_other {n lo wid v lo' wid' : Nat} (hn : n < 2 ^ 32) (h : lo' + wid' ≤ lo ∨ lo + wid ≤ lo') :
    bits (setBits n lo wid v % 2 ^ 32) lo' wid' = bits n lo' wid' := by
  apply Nat.eq_of_testBit_eq
  intro i
  rw [bits_eq_testBit, bits_eq_testBit, Nat.testBit_mod_two_pow, setBits_testBit]
  by_cases hi : i < wid'
  · have e : (if lo' + i < lo then n.testBit (lo' + i) else
        if lo' + i < lo + wid then v.testBit (lo' + i - lo) else n.testBit (lo' + i)) = n.testBit (lo' + i) := by
      rcases h with h | h
      · rw [if_pos (by omega)]
      · rw [if_neg (by omega), if_neg (by omega)]
    rw [e]
    by_cases h32 : lo' + i < 32
    · simp [hi, h32]
    · have : n.testBit (lo' + i) = false :=
        Nat.testBit_lt_two_pow (Nat.lt_of_lt_of_le hn (Nat.pow_le_pow_right (by decide) (by omega)))
      simp [this]
  · simp [hi]

end Sys2Proof
end

