-- ==== Sys2Proof/Laws/Tab.lean ====
section
/-!
SUPPORT. Sparse tables: read after write, and the canonical form that every write keeps.
-/

namespace Sys2Proof.Machine

variable {α : Type}

theorem Tab.get_erase (d : Nat → α) (t : Tab α) (k j : Nat) :
    Tab.get d (Tab.erase t k) j = if j = k then d k else Tab.get d t j := by
  induction t with
  | nil => simp only [Tab.erase, Tab.get]; split <;> simp_all
  | cons p t ih =>
    obtain ⟨i, v⟩ := p
    simp only [Tab.erase]
    split
    · rename_i h; subst h
      rw [ih]; simp only [Tab.get]
      by_cases hj : j = i
      · simp [hj]
      · simp [hj, Ne.symm hj]
    · rename_i h
      simp only [Tab.get]
      rw [ih]
      by_cases hi : i = j
      · subst hi; simp [h]
      · simp [hi]

theorem Tab.get_put (d : Nat → α) (t : Tab α) (k j : Nat) (v : α) :
    Tab.get d (Tab.put (Tab.erase t k) k v) j = if j = k then v else Tab.get d t j := by
  have key : ∀ t : Tab α, (∀ p ∈ t, p.1 ≠ k) →
      Tab.get d (Tab.put t k v) j = if j = k then v else Tab.get d t j := by
    intro t
    induction t with
    | nil => intro _; simp only [Tab.put, Tab.get]; by_cases h : k = j <;> simp [h, eq_comm]
    | cons p t ih =>
      obtain ⟨i, w⟩ := p
      intro h
      have hi : i ≠ k := h _ (List.mem_cons_self ..)
      have ht : ∀ p ∈ t, p.1 ≠ k := fun p hp => h p (List.mem_cons_of_mem _ hp)
      simp only [Tab.put]
      split
      · by_cases hj : j = k
        · simp [Tab.get, hj]
        · simp [Tab.get, hj, Ne.symm hj]
      · simp only [Tab.get]
        rw [ih ht]
        by_cases hij : i = j
        · subst hij; simp [hi]
        · simp [hij]
  have hne : ∀ t : Tab α, ∀ p ∈ Tab.erase t k, p.1 ≠ k := by
    intro t
    induction t with
    | nil => intro p hp; cases hp
    | cons q t ih =>
      obtain ⟨i, w⟩ := q
      intro p hp
      simp only [Tab.erase] at hp
      split at hp
      · exact ih p hp
      · rename_i h
        rcases List.mem_cons.mp hp with rfl | hp
        · exact h
        · exact ih p hp
  rw [key _ (hne t), Tab.get_erase]
  by_cases h : j = k <;> simp [h]

/-- A table read after a write: the value written at its key, the old one elsewhere. -/
theorem Tab.get_set [DecidableEq α] (d : Nat → α) (t : Tab α) (k j : Nat) (v : α) :
    Tab.get d (Tab.set d t k v) j = if j = k then v else Tab.get d t j := by
  unfold Tab.set
  split
  · rename_i h; rw [Tab.get_erase, h]
  · exact Tab.get_put d t k j v

@[simp] theorem Tab.get_set_same [DecidableEq α] (d : Nat → α) (t : Tab α) (k : Nat) (v : α) :
    Tab.get d (Tab.set d t k v) k = v := by simp [Tab.get_set]

theorem Tab.get_set_ne [DecidableEq α] (d : Nat → α) (t : Tab α) {k j : Nat} (v : α) (h : j ≠ k) :
    Tab.get d (Tab.set d t k v) j = Tab.get d t j := by simp [Tab.get_set, h]

/-- A table read after a run of consecutive writes. -/
theorem Tab.get_setList [DecidableEq α] (d : Nat → α) (l : List α) :
    ∀ (t : Tab α) (k j : Nat),
      Tab.get d (Tab.setList d t k l) j = if h : k ≤ j ∧ j < k + l.length then l[j - k]'(by omega) else Tab.get d t j := by
  induction l with
  | nil => intro t k j; simp only [Tab.setList]; rw [dif_neg]; simp
  | cons v l ih =>
    intro t k j
    simp only [Tab.setList]
    rw [ih]
    by_cases h1 : k + 1 ≤ j ∧ j < k + 1 + l.length
    · rw [dif_pos h1, dif_pos (by simp only [List.length_cons]; omega)]
      have : j - k = (j - (k + 1)) + 1 := by omega
      simp [this]
    · rw [dif_neg h1, Tab.get_set]
      by_cases h2 : j = k
      · subst h2; simp
      · rw [if_neg h2, dif_neg (by simp only [List.length_cons]; omega)]

theorem Tab.mem_erase {t : Tab α} {k : Nat} {p : Nat × α} (h : p ∈ Tab.erase t k) : p ∈ t ∧ p.1 ≠ k := by
  induction t with
  | nil => cases h
  | cons q t ih =>
    obtain ⟨i, w⟩ := q
    simp only [Tab.erase] at h
    split at h
    · exact ⟨List.mem_cons_of_mem _ (ih h).1, (ih h).2⟩
    · rename_i hi
      rcases List.mem_cons.mp h with rfl | h
      · exact ⟨List.mem_cons_self .., hi⟩
      · exact ⟨List.mem_cons_of_mem _ (ih h).1, (ih h).2⟩

theorem Tab.mem_put {t : Tab α} {k : Nat} {v : α} {p : Nat × α} (h : p ∈ Tab.put t k v) : p = (k, v) ∨ p ∈ t := by
  induction t with
  | nil => simp only [Tab.put, List.mem_singleton] at h; exact .inl h
  | cons q t ih =>
    obtain ⟨i, w⟩ := q
    simp only [Tab.put] at h
    split at h
    · rcases List.mem_cons.mp h with rfl | h
      · exact .inl rfl
      · exact .inr h
    · rcases List.mem_cons.mp h with rfl | h
      · exact .inr (List.mem_cons_self ..)
      · rcases ih h with h | h
        · exact .inl h
        · exact .inr (List.mem_cons_of_mem _ h)

theorem Tab.rising_erase {t : Tab α} {k : Nat} (h : t.Pairwise (fun a b => a.1 < b.1)) :
    (Tab.erase t k).Pairwise (fun a b => a.1 < b.1) := by
  induction t with
  | nil => exact .nil
  | cons q t ih =>
    obtain ⟨i, w⟩ := q
    rcases List.pairwise_cons.mp h with ⟨h1, h2⟩
    simp only [Tab.erase]
    split
    · exact ih h2
    · exact List.pairwise_cons.mpr ⟨fun p hp => h1 p (Tab.mem_erase hp).1, ih h2⟩

theorem Tab.rising_put {t : Tab α} {k : Nat} {v : α} (h : t.Pairwise (fun a b => a.1 < b.1)) (hk : ∀ p ∈ t, p.1 ≠ k) :
    (Tab.put t k v).Pairwise (fun a b => a.1 < b.1) := by
  induction t with
  | nil => exact List.pairwise_singleton _ _
  | cons q t ih =>
    obtain ⟨i, w⟩ := q
    rcases List.pairwise_cons.mp h with ⟨h1, h2⟩
    simp only [Tab.put]
    split
    · rename_i hlt
      refine List.pairwise_cons.mpr ⟨?_, h⟩
      intro p hp
      rcases List.mem_cons.mp hp with rfl | hp
      · exact hlt
      · exact Nat.lt_trans hlt (h1 p hp)
    · rename_i hlt
      have hne : i ≠ k := hk _ (List.mem_cons_self ..)
      refine List.pairwise_cons.mpr ⟨?_, ih h2 fun p hp => hk p (List.mem_cons_of_mem _ hp)⟩
      intro p hp
      rcases Tab.mem_put hp with rfl | hp
      · show i < k; omega
      · exact h1 p hp

theorem Tab.wf_nil (d : Nat → α) : Tab.wf d [] := ⟨.nil, by simp⟩

/-- A write keeps the canonical form. -/
theorem Tab.wf_set [DecidableEq α] (d : Nat → α) (t : Tab α) (k : Nat) (v : α) (h : Tab.wf d t) :
    Tab.wf d (Tab.set d t k v) := by
  have he : Tab.wf d (Tab.erase t k) :=
    ⟨Tab.rising_erase h.1, fun p hp => h.2 p (Tab.mem_erase hp).1⟩
  unfold Tab.set
  split
  · exact he
  · rename_i hv
    refine ⟨Tab.rising_put he.1 fun p hp => (Tab.mem_erase hp).2, fun p hp => ?_⟩
    rcases Tab.mem_put hp with rfl | hp
    · exact hv
    · exact he.2 p hp

theorem Tab.wf_setList [DecidableEq α] (d : Nat → α) (l : List α) :
    ∀ (t : Tab α) (k : Nat), Tab.wf d t → Tab.wf d (Tab.setList d t k l) := by
  induction l with
  | nil => intro t k h; exact h
  | cons v l ih => intro t k h; exact ih _ _ (Tab.wf_set d t k v h)

/-! ### A list in order -/

theorem insertBy_perm (before : α → α → Bool) (a : α) (l : List α) : (insertBy before a l).Perm (a :: l) := by
  induction l with
  | nil => exact .refl _
  | cons b l ih =>
    unfold insertBy
    split
    · exact .refl _
    · exact (ih.cons b).trans (.swap a b l)

theorem sortBy_perm (before : α → α → Bool) (l : List α) : (sortBy before l).Perm l := by
  induction l with
  | nil => exact .refl _
  | cons a l ih => exact (insertBy_perm before a _).trans (ih.cons a)

@[simp] theorem mem_sortBy {before : α → α → Bool} {a : α} {l : List α} : a ∈ sortBy before l ↔ a ∈ l :=
  (sortBy_perm before l).mem_iff

@[simp] theorem length_sortBy (before : α → α → Bool) (l : List α) : (sortBy before l).length = l.length :=
  (sortBy_perm before l).length_eq

end Sys2Proof.Machine
end

