-- ==== Sys2Proof/Laws/Regs.lean ====
section
/-!
SUPPORT. Registers: reads after writes. Every register write is a `setR`.
-/

namespace Sys2Proof.Machine

@[simp] theorem Core.setN_eq (c : Core) (o v : Nat) : c.setN o v = c.setR o (BitVec.ofNat 32 v) := rfl
@[simp] theorem Core.setI_eq (c : Core) (o : Nat) (v : Int) : c.setI o v = c.setR o (BitVec.ofInt 32 v) := rfl
@[simp] theorem Core.inc_eq (c : Core) (o : Nat) : c.inc o = c.setR o (c.r o + 1) := rfl
@[simp] theorem Core.addN_eq (c : Core) (o v : Nat) : c.addN o v = c.setR o (c.r o + BitVec.ofNat 32 v) := rfl
@[simp] theorem Core.setB_eq (c : Core) (x : Fld) (v : Bool) : c.setB x v = c.setF x (b2n v) := rfl

/-- A register read after a write. -/
theorem Core.r_setR (c : Core) (o p : Nat) (w : Word) : (c.setR o w).r p = if p = o then w else c.r p :=
  Tab.get_set regReset c.regs o p w

@[simp] theorem Core.r_setR_same (c : Core) (o : Nat) (w : Word) : (c.setR o w).r o = w := by simp [Core.r_setR]

theorem Core.r_setR_ne (c : Core) {o p : Nat} (w : Word) (h : p ≠ o) : (c.setR o w).r p = c.r p := by
  simp [Core.r_setR, h]

theorem Core.r_setF_ne (c : Core) {x : Fld} {p v : Nat} (h : p ≠ x.off) : (c.setF x v).r p = c.r p :=
  Core.r_setR_ne c _ h

theorem Core.n_lt (c : Core) (o : Nat) : c.n o < 2 ^ 32 := (c.r o).isLt

theorem Core.f_lt (c : Core) (x : Fld) : c.f x < 2 ^ x.wid := bits_lt _ _ _

/-- A field written reads back, cut to its width. -/
theorem Core.f_setF_same (c : Core) {x : Fld} (v : Nat) (h : x.lo + x.wid ≤ 32) : (c.setF x v).f x = v % 2 ^ x.wid := by
  unfold Core.f Core.n Core.setF
  rw [Core.r_setR_same, BitVec.toNat_ofNat]
  exact bits_setBits_same h

/-- A field stays when another register, or a disjoint field of the same one, is written. -/
theorem Core.f_setF_other (c : Core) {x y : Fld} (v : Nat)
    (h : y.off ≠ x.off ∨ y.lo + y.wid ≤ x.lo ∨ x.lo + x.wid ≤ y.lo) : (c.setF x v).f y = c.f y := by
  unfold Core.f Core.n Core.setF
  by_cases e : y.off = x.off
  · rw [e, Core.r_setR_same, BitVec.toNat_ofNat]
    exact bits_setBits_other (Core.n_lt c x.off) (by
      rcases h with h | h
      · exact absurd e h
      · exact h)
  · rw [Core.r_setR_ne _ _ e]

theorem Core.f_setR_ne (c : Core) {o : Nat} {y : Fld} (w : Word) (h : y.off ≠ o) : (c.setR o w).f y = c.f y := by
  unfold Core.f Core.n; rw [Core.r_setR_ne _ _ h]

theorem Core.fb_setB_same (c : Core) {x : Fld} (v : Bool) (h : x.lo + x.wid ≤ 32) (hw : 0 < x.wid) :
    (c.setB x v).fb x = v := by
  unfold Core.fb
  rw [Core.setB_eq, Core.f_setF_same c _ h]
  have : 2 ≤ 2 ^ x.wid := by
    calc 2 = 2 ^ 1 := rfl
      _ ≤ 2 ^ x.wid := Nat.pow_le_pow_right (by decide) hw
  cases v
  · simp [b2n]
  · have : 1 % 2 ^ x.wid = 1 := Nat.mod_eq_of_lt (by omega)
    simp [b2n, this]

theorem Core.fb_setF_other (c : Core) {x y : Fld} (v : Nat)
    (h : y.off ≠ x.off ∨ y.lo + y.wid ≤ x.lo ∨ x.lo + x.wid ≤ y.lo) : (c.setF x v).fb y = c.fb y := by
  unfold Core.fb; rw [Core.f_setF_other c v h]

end Sys2Proof.Machine
end

