-- ==== Sys2Proof/Laws/Quiet.lean ====
section
/-!
SUPPORT. What recording and reporting can do: a record to the logbook, an event posted, a vector fired or a counter
advanced leaves every unit but these as it was (`Core.Quiet`). Every posting operation has one such lemma; later proofs
cite it in place of unfolding the operation.
-/

namespace Sys2Proof.Machine

namespace Core.Keeps

variable {k : Nat → Bool}

theorem refl (c : Core) : Core.Keeps k c c := by
  constructor <;> (try intros) <;> first | rfl | exact ⟨[], rfl⟩

theorem trans {a b c : Core} (h : Core.Keeps k a b) (g : Core.Keeps k b c) : Core.Keeps k a c where
  ump := g.ump.trans h.ump
  heads := g.heads.trans h.heads
  test := g.test.trans h.test
  ts := g.ts.trans h.ts
  gateRx := g.gateRx.trans h.gateRx
  ticks := g.ticks.trans h.ticks
  lanes := g.lanes.trans h.lanes
  groups := g.groups.trans h.groups
  out := g.out.trans h.out
  now := g.now.trans h.now
  lastRead := g.lastRead.trans h.lastRead
  freeCtr := g.freeCtr.trans h.freeCtr
  encs := g.encs.trans h.encs
  web := g.web.trans h.web
  cmps := g.cmps.trans h.cmps
  bars := g.bars.trans h.bars
  job := g.job.trans h.job
  inks := g.inks.trans h.inks
  pipe := g.pipe.trans h.pipe
  pf := g.pf.trans h.pf
  crew := g.crew.trans h.crew
  cams := g.cams.trans h.cams
  lg := g.lg.trans h.lg
  dma := g.dma.trans h.dma
  rpl := g.rpl.trans h.rpl
  tst := g.tst.trans h.tst
  pwr := g.pwr.trans h.pwr
  clk := g.clk.trans h.clk
  mem := by rw [g.mem, h.mem]
  hi := by rw [g.hi, h.hi]
  replay := g.replay.trans h.replay
  regs := fun off ho => (g.regs off ho).trans (h.regs off ho)
  posted := by
    obtain ⟨l, hl⟩ := h.posted
    obtain ⟨m, hm⟩ := g.posted
    exact ⟨m ++ l, by rw [hm, hl, List.append_assoc]⟩

theorem f {c d : Core} (h : Core.Keeps k c d) (x : Fld) (hx : k x.off = false) : d.f x = c.f x := by
  unfold Core.f Core.n; rw [h.regs _ hx]

theorem fb {c d : Core} (h : Core.Keeps k c d) (x : Fld) (hx : k x.off = false) : d.fb x = c.fb x := by
  unfold Core.fb; rw [h.f x hx]

theorem n {c d : Core} (h : Core.Keeps k c d) (o : Nat) (ho : k o = false) : d.n o = c.n o := by
  unfold Core.n; rw [h.regs _ ho]

/-- What admits more registers is kept by what admits fewer. -/
theorem mono {k' : Nat → Bool} {c d : Core} (h : Core.Keeps k c d) (le : ∀ o, k' o = false → k o = false) :
    Core.Keeps k' c d := { h with regs := fun off ho => h.regs off (le off ho) }

/-- A register that `k` admits is written. -/
theorem setR {c d : Core} (h : Core.Keeps k c d) (o : Nat) (w : Word) (ho : k o = true) : Core.Keeps k c (d.setR o w) := by
  refine h.trans ?_
  constructor <;> (try rfl)
  · intro off hf
    exact Core.r_setR_ne d w (by rintro rfl; simp [ho] at hf)
  · exact ⟨[], rfl⟩

theorem setF {c d : Core} (h : Core.Keeps k c d) (x : Fld) (v : Nat) (ho : k x.off = true) : Core.Keeps k c (d.setF x v) :=
  h.setR _ _ ho

end Core.Keeps

open Sys2Proof.Machine.Core (Quiet Keeps)

theorem Core.quiet_setR (c : Core) (o : Nat) (w : Word) (h : logOff o = true) : Quiet c (c.setR o w) := by
  constructor <;> (try rfl)
  · intro off ho
    exact Core.r_setR_ne c w (by rintro rfl; simp [h] at ho)
  · exact ⟨[], rfl⟩

theorem Core.quiet_setF (c : Core) (x : Fld) (v : Nat) (h : logOff x.off = true) : Quiet c (c.setF x v) :=
  Core.quiet_setR c _ _ h

/-- A change of the logbook's own state. -/
theorem Core.Keeps.log {c g : Core} (h : Quiet c g) (l : Log) (e : l.replay = g.log.replay) : Quiet c { g with log := l } := by
  refine h.trans ?_
  constructor <;> (try rfl)
  · exact e
  · intros; rfl
  · exact ⟨[], rfl⟩

theorem Core.quiet_perfAdd (c : Core) (i n : Nat) (h : i < 256) : Quiet c (c.perfAdd i n) := by
  have hl : ∀ k, k < 257 → logOff (R.PERF_CNT k) = true := by
    intro k hk
    have h1 : 0x120000 ≤ R.PERF_CNT k := by unfold R.PERF_CNT; omega
    have h2 : R.PERF_CNT k < 0x140000 := by unfold R.PERF_CNT; omega
    simp [logOff, h1, h2]
  unfold Core.perfAdd
  dsimp only
  split
  · split
    · exact .refl c
    · exact Core.quiet_setR c _ _ (hl i (by omega))
  · split
    · exact (Core.quiet_setR c _ _ (hl i (by omega))).trans (Core.quiet_setR _ _ _ (hl (i + 1) (by omega)))
    · exact Core.quiet_setR c _ _ (hl i (by omega))

theorem Core.quiet_perf (c : Core) (i : Nat) (h : i < 256) : Quiet c (c.perf i) := Core.quiet_perfAdd c i 1 h

theorem Core.quiet_wr (c : Core) (a : Nat) (l : List Byte) : Quiet c (c.wr a l) := by
  unfold Core.wr
  constructor <;> (try rfl)
  · intros; rfl
  · exact ⟨[], rfl⟩

theorem Core.quiet_touchAs (c : Core) (who : Nat × MemClass) (a n : Nat) (w t : Bool) : Quiet c (c.touchAs who a n w t) := by
  constructor <;> (try rfl)
  · intros; rfl
  · exact ⟨[], rfl⟩

theorem Core.quiet_logWr (c : Core) (a : Nat) (l : List Byte) : Quiet c (c.logWr a l) :=
  (Core.quiet_wr c a l).trans (Core.quiet_touchAs _ _ _ _ _ _)

theorem Core.quiet_wrHost (c : Core) (a : Nat) (l : List Byte) : Quiet c (c.wrHost a l) := by
  constructor <;> (try rfl)
  · intros; rfl
  · exact ⟨[], rfl⟩

theorem Core.quiet_pushHost (c : Core) (a : Nat) (l : List Byte) : Quiet c (c.pushHost a l) :=
  (Core.quiet_wrHost c a l).trans (Core.quiet_perf _ 205 (by decide))

theorem Core.quiet_setUsed (c : Core) (n : Nat) : Quiet c (c.setUsed n) := (Keeps.refl c).log _ rfl

theorem Core.quiet_segAdvance (c : Core) : Quiet c c.segAdvance := by
  unfold Core.segAdvance
  extract_lets size ofs d
  clear_value size ofs
  have h : Quiet c d := (Core.quiet_setR c R.LOG_WR _ rfl).trans (Core.quiet_setR _ R.LOG_SEG_SEQ _ rfl)
  split
  · exact h.trans (Core.quiet_setR _ R.LOG_OLDEST _ rfl)
  · exact h

theorem Core.quiet_nextSeg (c : Core) : Quiet c c.nextSeg :=
  ((Core.quiet_logWr c _ _).trans (Core.quiet_segAdvance _)).trans (Core.quiet_setUsed _ _)

theorem Core.quiet_segRoom (c : Core) : Quiet c c.segRoom := by
  unfold Core.segRoom
  split
  · exact Core.quiet_nextSeg c
  · exact .refl c

theorem Core.quiet_blkWrite (c : Core) (l : List Byte) : Quiet c (c.blkWrite l) :=
  (Core.quiet_logWr c _ _).trans (Core.quiet_logWr _ _ _)

theorem Core.quiet_blkCount (c : Core) (n : Nat) : Quiet c (c.blkCount n) :=
  (Core.quiet_setR c R.LOG_WR _ rfl).trans (Core.quiet_perfAdd _ 228 _ (by decide))

theorem Core.quiet_blkDone (c : Core) (n : Nat) : Quiet c (c.blkDone n) := (Keeps.refl c).log _ rfl

theorem Core.quiet_logClose (c : Core) : Quiet c c.logClose := by
  unfold Core.logClose
  split
  · exact .refl c
  · exact (((Core.quiet_segRoom c).trans (Core.quiet_blkWrite _ _)).trans (Core.quiet_blkCount _ _)).trans
      (Core.quiet_blkDone _ _)

theorem Core.quiet_logSpace (c : Core) (n : Nat) : Quiet c (c.logSpace n) := by
  unfold Core.logSpace
  split
  · exact Core.quiet_logClose c
  · exact .refl c

theorem Core.quiet_logCount (c : Core) (n : Nat) : Quiet c (c.logCount n) :=
  ((Core.quiet_setR c R.LOG_REC_CNT _ rfl).trans (Core.quiet_perf _ 226 (by decide))).trans
    (Core.quiet_perfAdd _ 227 _ (by decide))

theorem Core.quiet_logAppend (c : Core) (l : List Byte) (t s n : Nat) : Quiet c (c.logAppend l t s n) :=
  (Keeps.refl c).log _ rfl

theorem Core.quiet_logPut (c : Core) (ty : Nat) (more : Bool) (l : List Byte) (t : Option (Nat × Nat × Nat)) :
    Quiet c (c.logPut ty more l t) :=
  ((Core.quiet_logSpace c _).trans (Core.quiet_logCount _ _)).trans (Core.quiet_logAppend _ _ _ _ _)

theorem Core.quiet_logParts (k : Nat) : ∀ (c : Core) (ty : Nat) (l : List Byte), Quiet c (Core.logParts k c ty l) := by
  induction k with
  | zero => intro c ty l; exact .refl c
  | succ k ih =>
    intro c ty l
    unfold Core.logParts
    split
    · exact Core.quiet_logPut ..
    · exact (Core.quiet_logPut ..).trans (ih ..)

theorem Core.quiet_webTaken (c : Core) : Quiet c c.webTaken := (Keeps.refl c).log _ rfl

theorem Core.quiet_logGap (c : Core) : Quiet c c.logGap := by
  unfold Core.logGap
  split
  · exact ((Keeps.refl c).log { c.log with lost := 0 } rfl).trans (Core.quiet_logPut ..)
  · exact .refl c

theorem Core.quiet_logDrop (c : Core) (k t : Nat) : Quiet c (c.logDrop k t) :=
  .log ((Core.quiet_setR c R.LOG_LOST_CNT _ rfl).trans (Core.quiet_perfAdd _ 229 k (by decide))) _ rfl

theorem Core.quiet_logWebFlush (c : Core) : Quiet c c.logWebFlush := by
  unfold Core.logWebFlush
  split
  · exact .refl c
  · split
    · exact (Core.quiet_webTaken c).trans (Core.quiet_logDrop ..)
    · exact ((Core.quiet_webTaken c).trans (Core.quiet_logGap _)).trans (Core.quiet_logPut ..)

theorem Core.quiet_snapMark (c : Core) : Quiet c c.snapMark := (Keeps.refl c).log _ rfl

theorem Core.quiet_sigBegin (c : Core) : Quiet c c.sigBegin := (Keeps.refl c).log _ rfl

theorem Core.quiet_sigClose (c : Core) : Quiet c c.sigClose :=
  (Core.quiet_logPut c _ _ _ none).trans (Core.quiet_sigBegin _)

theorem Core.quiet_sigEnd (c : Core) : Quiet c c.sigEnd := by
  unfold Core.sigEnd
  split
  · exact Core.quiet_sigBegin c
  · exact Core.quiet_sigClose c

theorem Core.quiet_logSnap (c : Core) : Quiet c c.logSnap :=
  (((((Core.quiet_logWebFlush c).trans (Core.quiet_logGap _)).trans (Core.quiet_sigEnd _)).trans (Core.quiet_logClose _)).trans
    (Core.quiet_snapMark _)).trans (Core.quiet_logParts ..)

theorem Core.quiet_logSnapDue (c : Core) (b : Bool) : Quiet c (c.logSnapDue b) := by
  unfold Core.logSnapDue
  split
  · exact Core.quiet_logSnap c
  · exact .refl c

theorem Core.quiet_logItem (c : Core) (ty : Nat) (l : List Byte) : Quiet c (c.logItem ty l) := by
  unfold Core.logItem
  split
  · exact Core.quiet_logDrop ..
  · exact (Core.quiet_logGap c).trans (Core.quiet_logParts ..)

/-- A record of the logbook changes the recording alone. -/
theorem Core.quiet_logRec (c : Core) (ty : Nat) (l : List Byte) : Quiet c (c.logRec ty l) := by
  unfold Core.logRec
  split
  · split
    · exact (Keeps.refl c).log _ rfl
    · exact .refl c
  · split
    · exact ((Core.quiet_logSnapDue c _).trans (Core.quiet_logWebFlush _)).trans (Core.quiet_logItem ..)
    · exact .refl c

theorem Core.quiet_logRegw (c : Core) (off : Nat) (v : Word) : Quiet c (c.logRegw off v) := by
  unfold Core.logRegw
  split
  · exact .refl c
  · exact Core.quiet_logRec ..

/-- A change of the host interface's reporting. -/
theorem Core.Keeps.report {c g : Core} (k : Quiet c g) (h : HostIf)
    (e : h = { g.hi with host := h.host, evUsed := h.evUsed, evDropped := h.evDropped, evUnsig := h.evUnsig
                         evFirst := h.evFirst, sent := h.sent, lastPost := h.lastPost }) :
    Quiet c { g with hi := h } := by
  refine k.trans ?_
  constructor <;> (try rfl)
  · exact e
  · intros; rfl
  · exact ⟨[], rfl⟩

theorem Core.quiet_fireVec (c : Core) (v : Nat) (h : v < 64) : Quiet c (c.fireVec v) := by
  unfold Core.fireVec
  split
  · refine Core.quiet_setR c _ _ ?_
    have h1 : 0x13000 ≤ R.MSIX_PBA (v / 32) := by unfold R.MSIX_PBA; omega
    have h2 : R.MSIX_PBA (v / 32) < 0x13100 := by unfold R.MSIX_PBA; omega
    simp [logOff, h1, h2]
  · exact ((Keeps.refl c).report { c.hi with sent := v :: c.hi.sent } rfl).trans (Core.quiet_perf _ 203 (by decide)) |>.trans
      (Core.quiet_perf _ 205 (by decide))

theorem Core.quiet_evSignal (c : Core) (b : Bool) : Quiet c (c.evSignal b) := by
  have hv : c.f F.EV_CFG_VEC < 64 := Core.f_lt c F.EV_CFG_VEC
  unfold Core.evSignal
  split
  · extract_lets n src
    split
    · exact ((Keeps.refl c).report _ rfl).trans (Core.quiet_fireVec _ _ hv)
    · exact (Keeps.refl c).report _ rfl
  · exact .refl c

theorem Core.quiet_evNext (c : Core) : Quiet c c.evNext :=
  (Core.quiet_setF c F.EV_TAIL_TAIL _ rfl).trans (Core.quiet_pushHost ..)

theorem Core.quiet_evUse (c : Core) : Quiet c c.evUse := (Keeps.refl c).report _ rfl

theorem Core.quiet_evWrite (c : Core) (e : EvRec) : Quiet c (c.evWrite e) :=
  (((Core.quiet_pushHost c _ _).trans (Core.quiet_evNext _)).trans (Core.quiet_evUse _)).trans (Core.quiet_evSignal ..)

theorem Core.quiet_evDrop (c : Core) (b : Bool) : Quiet c (c.evDrop b) := by
  unfold Core.evDrop
  refine Core.Keeps.report (.trans ?_ (Core.quiet_perf _ 202 (by decide))) _ rfl
  cases b
  · exact Core.quiet_setR c R.EV_DROP_CNT _ rfl
  · exact Core.quiet_setR c R.EV_DEFECT_DROP_CNT _ rfl

theorem Core.quiet_evRing (c : Core) (e : EvRec) : Quiet c (c.evRing e) := by
  unfold Core.evRing
  extract_lets free
  split
  · split
    · exact Core.quiet_evDrop c _
    · split
      · exact Core.quiet_evDrop c _
      · exact Core.quiet_evWrite c e
  · exact .refl c

theorem Core.quiet_evKeep (c : Core) (e : EvRec) (n : Nat) : Quiet c (c.evKeep e n) := by
  unfold Core.evKeep
  refine .trans (b := { c with evs := _, evsSec := _, evsCnt := _ }) ?_ (Core.quiet_setF _ F.UMP_EVS_WR_WR _ rfl)
  constructor <;> (try rfl)
  · intros; rfl
  · exact ⟨[], rfl⟩

theorem Core.quiet_evStore (c : Core) (e : EvRec) : Quiet c (c.evStore e) := by
  unfold Core.evStore
  extract_lets cnt
  split
  · split
    · exact Core.quiet_setR c R.UMP_EVS_LOST_CNT _ rfl
    · exact Core.quiet_evKeep ..
  · exact .refl c

theorem Core.quiet_noted (c : Core) (e : EvRec) : Quiet c (c.noted e) := by
  constructor <;> (try rfl)
  · intros; rfl
  · exact ⟨[e], rfl⟩

/-- A record posted changes the reporting alone. -/
theorem Core.quiet_postRec (c : Core) (e : EvRec) : Quiet c (c.postRec e) :=
  ((((Core.quiet_noted c e).trans (Core.quiet_perf _ 201 (by decide))).trans (Core.quiet_evStore ..)).trans
    (Core.quiet_logRec ..)).trans (Core.quiet_evRing ..)

/-- What a post shows: the record, on top of those posted before it. -/
theorem Core.posted_postRec (c : Core) (e : EvRec) : ∃ l, (c.postRec e).posted = l ++ e :: c.posted :=
  ((((Core.quiet_perf (c.noted e) 201 (by decide))).trans (Core.quiet_evStore ..)).trans
    (Core.quiet_logRec ..)).trans (Core.quiet_evRing ..) |>.posted

theorem Core.quiet_postAt (c : Core) (line code src data : Nat) : Quiet c (c.postAt line code src data) :=
  Core.quiet_postRec ..

theorem Core.quiet_post (c : Core) (code src data : Nat) : Quiet c (c.post code src data) := Core.quiet_postRec ..

theorem Core.quiet_postKey (c : Core) (key period code src data : Nat) : Quiet c (c.postKey key period code src data) := by
  unfold Core.postKey
  dsimp only
  split
  · exact ((Keeps.refl c).report _ rfl).trans (Core.quiet_post ..)
  · exact .refl c

theorem Core.quiet_postLim (c : Core) (period code src data : Nat) : Quiet c (c.postLim period code src data) :=
  Core.quiet_postKey ..

end Sys2Proof.Machine
end

