-- ==== Sys2Proof/Laws/State.lean ====
section
/-!
SUPPORT. One lemma per field of the core and update: a register write leaves every unit, and a post or a record of the
logbook every unit outside reporting, as it was.
-/

namespace Sys2Proof.Machine

variable (c : Core) (o : Nat) (w : Word) (x : Fld) (v n code src data line per ty i : Nat) (l : List Byte)

@[simp] theorem Core.setR_ump : (c.setR o w).ump = c.ump := rfl
@[simp] theorem Core.setF_ump : (c.setF x v).ump = c.ump := rfl
@[simp] theorem Core.setR_heads : (c.setR o w).heads = c.heads := rfl
@[simp] theorem Core.setF_heads : (c.setF x v).heads = c.heads := rfl
@[simp] theorem Core.setR_test : (c.setR o w).test = c.test := rfl
@[simp] theorem Core.setF_test : (c.setF x v).test = c.test := rfl
@[simp] theorem Core.setR_ts : (c.setR o w).ts = c.ts := rfl
@[simp] theorem Core.setR_gateRx : (c.setR o w).gateRx = c.gateRx := rfl
@[simp] theorem Core.setR_ticks : (c.setR o w).ticks = c.ticks := rfl
@[simp] theorem Core.setF_ts : (c.setF x v).ts = c.ts := rfl
@[simp] theorem Core.setF_gateRx : (c.setF x v).gateRx = c.gateRx := rfl
@[simp] theorem Core.setF_ticks : (c.setF x v).ticks = c.ticks := rfl
@[simp] theorem Core.setR_lanes : (c.setR o w).lanes = c.lanes := rfl
@[simp] theorem Core.setF_lanes : (c.setF x v).lanes = c.lanes := rfl
@[simp] theorem Core.setR_groups : (c.setR o w).groups = c.groups := rfl
@[simp] theorem Core.setF_groups : (c.setF x v).groups = c.groups := rfl
@[simp] theorem Core.setR_out : (c.setR o w).out = c.out := rfl
@[simp] theorem Core.setF_out : (c.setF x v).out = c.out := rfl
@[simp] theorem Core.setR_now : (c.setR o w).now = c.now := rfl
@[simp] theorem Core.setF_now : (c.setF x v).now = c.now := rfl
@[simp] theorem Core.setR_posted : (c.setR o w).posted = c.posted := rfl
@[simp] theorem Core.setF_posted : (c.setF x v).posted = c.posted := rfl
@[simp] theorem Core.setR_lastRead : (c.setR o w).lastRead = c.lastRead := rfl
@[simp] theorem Core.setF_lastRead : (c.setF x v).lastRead = c.lastRead := rfl
@[simp] theorem Core.setR_freeCtr : (c.setR o w).freeCtr = c.freeCtr := rfl
@[simp] theorem Core.setF_freeCtr : (c.setF x v).freeCtr = c.freeCtr := rfl
@[simp] theorem Core.setR_encs : (c.setR o w).encs = c.encs := rfl
@[simp] theorem Core.setF_encs : (c.setF x v).encs = c.encs := rfl
@[simp] theorem Core.setR_web : (c.setR o w).web = c.web := rfl
@[simp] theorem Core.setF_web : (c.setF x v).web = c.web := rfl
@[simp] theorem Core.setR_cmps : (c.setR o w).cmps = c.cmps := rfl
@[simp] theorem Core.setF_cmps : (c.setF x v).cmps = c.cmps := rfl
@[simp] theorem Core.setR_bars : (c.setR o w).bars = c.bars := rfl
@[simp] theorem Core.setF_bars : (c.setF x v).bars = c.bars := rfl
@[simp] theorem Core.setR_mem : (c.setR o w).mem = c.mem := rfl
@[simp] theorem Core.setF_mem : (c.setF x v).mem = c.mem := rfl
@[simp] theorem Core.setR_hi : (c.setR o w).hi = c.hi := rfl
@[simp] theorem Core.setF_hi : (c.setF x v).hi = c.hi := rfl
@[simp] theorem Core.setR_job : (c.setR o w).job = c.job := rfl
@[simp] theorem Core.setF_job : (c.setF x v).job = c.job := rfl
@[simp] theorem Core.setR_inks : (c.setR o w).inks = c.inks := rfl
@[simp] theorem Core.setF_inks : (c.setF x v).inks = c.inks := rfl
@[simp] theorem Core.setR_pipe : (c.setR o w).pipe = c.pipe := rfl
@[simp] theorem Core.setF_pipe : (c.setF x v).pipe = c.pipe := rfl
@[simp] theorem Core.setR_pf : (c.setR o w).pf = c.pf := rfl
@[simp] theorem Core.setF_pf : (c.setF x v).pf = c.pf := rfl
@[simp] theorem Core.setR_crew : (c.setR o w).crew = c.crew := rfl
@[simp] theorem Core.setF_crew : (c.setF x v).crew = c.crew := rfl
@[simp] theorem Core.setR_cams : (c.setR o w).cams = c.cams := rfl
@[simp] theorem Core.setF_cams : (c.setF x v).cams = c.cams := rfl
@[simp] theorem Core.setR_log : (c.setR o w).log = c.log := rfl
@[simp] theorem Core.setF_log : (c.setF x v).log = c.log := rfl
@[simp] theorem Core.setR_lg : (c.setR o w).lg = c.lg := rfl
@[simp] theorem Core.setF_lg : (c.setF x v).lg = c.lg := rfl
@[simp] theorem Core.setR_dma : (c.setR o w).dma = c.dma := rfl
@[simp] theorem Core.setF_dma : (c.setF x v).dma = c.dma := rfl
@[simp] theorem Core.setR_rpl : (c.setR o w).rpl = c.rpl := rfl
@[simp] theorem Core.setF_rpl : (c.setF x v).rpl = c.rpl := rfl
@[simp] theorem Core.setR_tst : (c.setR o w).tst = c.tst := rfl
@[simp] theorem Core.setF_tst : (c.setF x v).tst = c.tst := rfl
@[simp] theorem Core.setR_pwr : (c.setR o w).pwr = c.pwr := rfl
@[simp] theorem Core.setF_pwr : (c.setF x v).pwr = c.pwr := rfl
@[simp] theorem Core.setR_clk : (c.setR o w).clk = c.clk := rfl
@[simp] theorem Core.setF_clk : (c.setF x v).clk = c.clk := rfl
@[simp] theorem Core.setR_evs : (c.setR o w).evs = c.evs := rfl
@[simp] theorem Core.setF_evs : (c.setF x v).evs = c.evs := rfl
@[simp] theorem Core.setR_evsSec : (c.setR o w).evsSec = c.evsSec := rfl
@[simp] theorem Core.setF_evsSec : (c.setF x v).evsSec = c.evsSec := rfl
@[simp] theorem Core.setR_evsCnt : (c.setR o w).evsCnt = c.evsCnt := rfl
@[simp] theorem Core.setF_evsCnt : (c.setF x v).evsCnt = c.evsCnt := rfl

@[simp] theorem Core.post_ump : (c.post code src data).ump = c.ump := (Core.quiet_post c code src data).ump
@[simp] theorem Core.post_heads : (c.post code src data).heads = c.heads := (Core.quiet_post c code src data).heads
@[simp] theorem Core.post_test : (c.post code src data).test = c.test := (Core.quiet_post c code src data).test
@[simp] theorem Core.post_ts : (c.post code src data).ts = c.ts := (Core.quiet_post c code src data).ts
@[simp] theorem Core.post_gateRx : (c.post code src data).gateRx = c.gateRx := (Core.quiet_post c code src data).gateRx
@[simp] theorem Core.post_ticks : (c.post code src data).ticks = c.ticks := (Core.quiet_post c code src data).ticks
@[simp] theorem Core.post_lanes : (c.post code src data).lanes = c.lanes := (Core.quiet_post c code src data).lanes
@[simp] theorem Core.post_groups : (c.post code src data).groups = c.groups := (Core.quiet_post c code src data).groups
@[simp] theorem Core.post_out : (c.post code src data).out = c.out := (Core.quiet_post c code src data).out
@[simp] theorem Core.post_now : (c.post code src data).now = c.now := (Core.quiet_post c code src data).now
@[simp] theorem Core.post_lastRead : (c.post code src data).lastRead = c.lastRead := (Core.quiet_post c code src data).lastRead
@[simp] theorem Core.post_freeCtr : (c.post code src data).freeCtr = c.freeCtr := (Core.quiet_post c code src data).freeCtr
@[simp] theorem Core.post_encs : (c.post code src data).encs = c.encs := (Core.quiet_post c code src data).encs
@[simp] theorem Core.post_web : (c.post code src data).web = c.web := (Core.quiet_post c code src data).web
@[simp] theorem Core.post_cmps : (c.post code src data).cmps = c.cmps := (Core.quiet_post c code src data).cmps
@[simp] theorem Core.post_bars : (c.post code src data).bars = c.bars := (Core.quiet_post c code src data).bars
@[simp] theorem Core.post_job : (c.post code src data).job = c.job := (Core.quiet_post c code src data).job
@[simp] theorem Core.post_inks : (c.post code src data).inks = c.inks := (Core.quiet_post c code src data).inks
@[simp] theorem Core.post_pipe : (c.post code src data).pipe = c.pipe := (Core.quiet_post c code src data).pipe
@[simp] theorem Core.post_pf : (c.post code src data).pf = c.pf := (Core.quiet_post c code src data).pf
@[simp] theorem Core.post_crew : (c.post code src data).crew = c.crew := (Core.quiet_post c code src data).crew
@[simp] theorem Core.post_cams : (c.post code src data).cams = c.cams := (Core.quiet_post c code src data).cams
@[simp] theorem Core.post_lg : (c.post code src data).lg = c.lg := (Core.quiet_post c code src data).lg
@[simp] theorem Core.post_dma : (c.post code src data).dma = c.dma := (Core.quiet_post c code src data).dma
@[simp] theorem Core.post_rpl : (c.post code src data).rpl = c.rpl := (Core.quiet_post c code src data).rpl
@[simp] theorem Core.post_tst : (c.post code src data).tst = c.tst := (Core.quiet_post c code src data).tst
@[simp] theorem Core.post_pwr : (c.post code src data).pwr = c.pwr := (Core.quiet_post c code src data).pwr
@[simp] theorem Core.post_clk : (c.post code src data).clk = c.clk := (Core.quiet_post c code src data).clk
@[simp] theorem Core.post_replay : (c.post code src data).log.replay = c.log.replay := (Core.quiet_post c code src data).replay
@[simp] theorem Core.post_sqs : (c.post code src data).hi.sqs = c.hi.sqs := by rw [(Core.quiet_post c code src data).hi]
@[simp] theorem Core.post_cqs : (c.post code src data).hi.cqs = c.hi.cqs := by rw [(Core.quiet_post c code src data).hi]
@[simp] theorem Core.post_async : (c.post code src data).hi.async = c.hi.async := by rw [(Core.quiet_post c code src data).hi]
@[simp] theorem Core.post_journal : (c.post code src data).hi.journal = c.hi.journal := by rw [(Core.quiet_post c code src data).hi]
@[simp] theorem Core.post_waiting : (c.post code src data).hi.waiting = c.hi.waiting := by rw [(Core.quiet_post c code src data).hi]
theorem Core.post_r (h : logOff o = false) : (c.post code src data).r o = c.r o := (Core.quiet_post c code src data).regs o h
theorem Core.post_f (h : logOff x.off = false) : (c.post code src data).f x = c.f x := (Core.quiet_post c code src data).f x h
theorem Core.post_fb (h : logOff x.off = false) : (c.post code src data).fb x = c.fb x := (Core.quiet_post c code src data).fb x h

@[simp] theorem Core.postAt_ump : (c.postAt line code src data).ump = c.ump := (Core.quiet_postAt c line code src data).ump
@[simp] theorem Core.postAt_heads : (c.postAt line code src data).heads = c.heads := (Core.quiet_postAt c line code src data).heads
@[simp] theorem Core.postAt_test : (c.postAt line code src data).test = c.test := (Core.quiet_postAt c line code src data).test
@[simp] theorem Core.postAt_ts : (c.postAt line code src data).ts = c.ts := (Core.quiet_postAt c line code src data).ts
@[simp] theorem Core.postAt_gateRx : (c.postAt line code src data).gateRx = c.gateRx := (Core.quiet_postAt c line code src data).gateRx
@[simp] theorem Core.postAt_ticks : (c.postAt line code src data).ticks = c.ticks := (Core.quiet_postAt c line code src data).ticks
@[simp] theorem Core.postAt_lanes : (c.postAt line code src data).lanes = c.lanes := (Core.quiet_postAt c line code src data).lanes
@[simp] theorem Core.postAt_groups : (c.postAt line code src data).groups = c.groups := (Core.quiet_postAt c line code src data).groups
@[simp] theorem Core.postAt_out : (c.postAt line code src data).out = c.out := (Core.quiet_postAt c line code src data).out
@[simp] theorem Core.postAt_now : (c.postAt line code src data).now = c.now := (Core.quiet_postAt c line code src data).now
@[simp] theorem Core.postAt_lastRead : (c.postAt line code src data).lastRead = c.lastRead := (Core.quiet_postAt c line code src data).lastRead
@[simp] theorem Core.postAt_freeCtr : (c.postAt line code src data).freeCtr = c.freeCtr := (Core.quiet_postAt c line code src data).freeCtr
@[simp] theorem Core.postAt_encs : (c.postAt line code src data).encs = c.encs := (Core.quiet_postAt c line code src data).encs
@[simp] theorem Core.postAt_web : (c.postAt line code src data).web = c.web := (Core.quiet_postAt c line code src data).web
@[simp] theorem Core.postAt_cmps : (c.postAt line code src data).cmps = c.cmps := (Core.quiet_postAt c line code src data).cmps
@[simp] theorem Core.postAt_bars : (c.postAt line code src data).bars = c.bars := (Core.quiet_postAt c line code src data).bars
@[simp] theorem Core.postAt_job : (c.postAt line code src data).job = c.job := (Core.quiet_postAt c line code src data).job
@[simp] theorem Core.postAt_inks : (c.postAt line code src data).inks = c.inks := (Core.quiet_postAt c line code src data).inks
@[simp] theorem Core.postAt_pipe : (c.postAt line code src data).pipe = c.pipe := (Core.quiet_postAt c line code src data).pipe
@[simp] theorem Core.postAt_pf : (c.postAt line code src data).pf = c.pf := (Core.quiet_postAt c line code src data).pf
@[simp] theorem Core.postAt_crew : (c.postAt line code src data).crew = c.crew := (Core.quiet_postAt c line code src data).crew
@[simp] theorem Core.postAt_cams : (c.postAt line code src data).cams = c.cams := (Core.quiet_postAt c line code src data).cams
@[simp] theorem Core.postAt_lg : (c.postAt line code src data).lg = c.lg := (Core.quiet_postAt c line code src data).lg
@[simp] theorem Core.postAt_dma : (c.postAt line code src data).dma = c.dma := (Core.quiet_postAt c line code src data).dma
@[simp] theorem Core.postAt_rpl : (c.postAt line code src data).rpl = c.rpl := (Core.quiet_postAt c line code src data).rpl
@[simp] theorem Core.postAt_tst : (c.postAt line code src data).tst = c.tst := (Core.quiet_postAt c line code src data).tst
@[simp] theorem Core.postAt_pwr : (c.postAt line code src data).pwr = c.pwr := (Core.quiet_postAt c line code src data).pwr
@[simp] theorem Core.postAt_clk : (c.postAt line code src data).clk = c.clk := (Core.quiet_postAt c line code src data).clk
@[simp] theorem Core.postAt_replay : (c.postAt line code src data).log.replay = c.log.replay := (Core.quiet_postAt c line code src data).replay
@[simp] theorem Core.postAt_sqs : (c.postAt line code src data).hi.sqs = c.hi.sqs := by rw [(Core.quiet_postAt c line code src data).hi]
@[simp] theorem Core.postAt_cqs : (c.postAt line code src data).hi.cqs = c.hi.cqs := by rw [(Core.quiet_postAt c line code src data).hi]
@[simp] theorem Core.postAt_async : (c.postAt line code src data).hi.async = c.hi.async := by rw [(Core.quiet_postAt c line code src data).hi]
@[simp] theorem Core.postAt_journal : (c.postAt line code src data).hi.journal = c.hi.journal := by rw [(Core.quiet_postAt c line code src data).hi]
@[simp] theorem Core.postAt_waiting : (c.postAt line code src data).hi.waiting = c.hi.waiting := by rw [(Core.quiet_postAt c line code src data).hi]
theorem Core.postAt_r (h : logOff o = false) : (c.postAt line code src data).r o = c.r o := (Core.quiet_postAt c line code src data).regs o h
theorem Core.postAt_f (h : logOff x.off = false) : (c.postAt line code src data).f x = c.f x := (Core.quiet_postAt c line code src data).f x h
theorem Core.postAt_fb (h : logOff x.off = false) : (c.postAt line code src data).fb x = c.fb x := (Core.quiet_postAt c line code src data).fb x h

@[simp] theorem Core.postLim_ump : (c.postLim per code src data).ump = c.ump := (Core.quiet_postLim c per code src data).ump
@[simp] theorem Core.postLim_heads : (c.postLim per code src data).heads = c.heads := (Core.quiet_postLim c per code src data).heads
@[simp] theorem Core.postLim_test : (c.postLim per code src data).test = c.test := (Core.quiet_postLim c per code src data).test
@[simp] theorem Core.postLim_ts : (c.postLim per code src data).ts = c.ts := (Core.quiet_postLim c per code src data).ts
@[simp] theorem Core.postLim_gateRx : (c.postLim per code src data).gateRx = c.gateRx := (Core.quiet_postLim c per code src data).gateRx
@[simp] theorem Core.postLim_ticks : (c.postLim per code src data).ticks = c.ticks := (Core.quiet_postLim c per code src data).ticks
@[simp] theorem Core.postLim_lanes : (c.postLim per code src data).lanes = c.lanes := (Core.quiet_postLim c per code src data).lanes
@[simp] theorem Core.postLim_groups : (c.postLim per code src data).groups = c.groups := (Core.quiet_postLim c per code src data).groups
@[simp] theorem Core.postLim_out : (c.postLim per code src data).out = c.out := (Core.quiet_postLim c per code src data).out
@[simp] theorem Core.postLim_now : (c.postLim per code src data).now = c.now := (Core.quiet_postLim c per code src data).now
@[simp] theorem Core.postLim_lastRead : (c.postLim per code src data).lastRead = c.lastRead := (Core.quiet_postLim c per code src data).lastRead
@[simp] theorem Core.postLim_freeCtr : (c.postLim per code src data).freeCtr = c.freeCtr := (Core.quiet_postLim c per code src data).freeCtr
@[simp] theorem Core.postLim_encs : (c.postLim per code src data).encs = c.encs := (Core.quiet_postLim c per code src data).encs
@[simp] theorem Core.postLim_web : (c.postLim per code src data).web = c.web := (Core.quiet_postLim c per code src data).web
@[simp] theorem Core.postLim_cmps : (c.postLim per code src data).cmps = c.cmps := (Core.quiet_postLim c per code src data).cmps
@[simp] theorem Core.postLim_bars : (c.postLim per code src data).bars = c.bars := (Core.quiet_postLim c per code src data).bars
@[simp] theorem Core.postLim_job : (c.postLim per code src data).job = c.job := (Core.quiet_postLim c per code src data).job
@[simp] theorem Core.postLim_inks : (c.postLim per code src data).inks = c.inks := (Core.quiet_postLim c per code src data).inks
@[simp] theorem Core.postLim_pipe : (c.postLim per code src data).pipe = c.pipe := (Core.quiet_postLim c per code src data).pipe
@[simp] theorem Core.postLim_pf : (c.postLim per code src data).pf = c.pf := (Core.quiet_postLim c per code src data).pf
@[simp] theorem Core.postLim_crew : (c.postLim per code src data).crew = c.crew := (Core.quiet_postLim c per code src data).crew
@[simp] theorem Core.postLim_cams : (c.postLim per code src data).cams = c.cams := (Core.quiet_postLim c per code src data).cams
@[simp] theorem Core.postLim_lg : (c.postLim per code src data).lg = c.lg := (Core.quiet_postLim c per code src data).lg
@[simp] theorem Core.postLim_dma : (c.postLim per code src data).dma = c.dma := (Core.quiet_postLim c per code src data).dma
@[simp] theorem Core.postLim_rpl : (c.postLim per code src data).rpl = c.rpl := (Core.quiet_postLim c per code src data).rpl
@[simp] theorem Core.postLim_tst : (c.postLim per code src data).tst = c.tst := (Core.quiet_postLim c per code src data).tst
@[simp] theorem Core.postLim_pwr : (c.postLim per code src data).pwr = c.pwr := (Core.quiet_postLim c per code src data).pwr
@[simp] theorem Core.postLim_clk : (c.postLim per code src data).clk = c.clk := (Core.quiet_postLim c per code src data).clk
@[simp] theorem Core.postLim_replay : (c.postLim per code src data).log.replay = c.log.replay := (Core.quiet_postLim c per code src data).replay
@[simp] theorem Core.postLim_sqs : (c.postLim per code src data).hi.sqs = c.hi.sqs := by rw [(Core.quiet_postLim c per code src data).hi]
@[simp] theorem Core.postLim_cqs : (c.postLim per code src data).hi.cqs = c.hi.cqs := by rw [(Core.quiet_postLim c per code src data).hi]
@[simp] theorem Core.postLim_async : (c.postLim per code src data).hi.async = c.hi.async := by rw [(Core.quiet_postLim c per code src data).hi]
@[simp] theorem Core.postLim_journal : (c.postLim per code src data).hi.journal = c.hi.journal := by rw [(Core.quiet_postLim c per code src data).hi]
@[simp] theorem Core.postLim_waiting : (c.postLim per code src data).hi.waiting = c.hi.waiting := by rw [(Core.quiet_postLim c per code src data).hi]
theorem Core.postLim_r (h : logOff o = false) : (c.postLim per code src data).r o = c.r o := (Core.quiet_postLim c per code src data).regs o h
theorem Core.postLim_f (h : logOff x.off = false) : (c.postLim per code src data).f x = c.f x := (Core.quiet_postLim c per code src data).f x h
theorem Core.postLim_fb (h : logOff x.off = false) : (c.postLim per code src data).fb x = c.fb x := (Core.quiet_postLim c per code src data).fb x h

@[simp] theorem Core.logRec_ump : (c.logRec ty l).ump = c.ump := (Core.quiet_logRec c ty l).ump
@[simp] theorem Core.logRec_heads : (c.logRec ty l).heads = c.heads := (Core.quiet_logRec c ty l).heads
@[simp] theorem Core.logRec_test : (c.logRec ty l).test = c.test := (Core.quiet_logRec c ty l).test
@[simp] theorem Core.logRec_ts : (c.logRec ty l).ts = c.ts := (Core.quiet_logRec c ty l).ts
@[simp] theorem Core.logRec_gateRx : (c.logRec ty l).gateRx = c.gateRx := (Core.quiet_logRec c ty l).gateRx
@[simp] theorem Core.logRec_ticks : (c.logRec ty l).ticks = c.ticks := (Core.quiet_logRec c ty l).ticks
@[simp] theorem Core.logRec_lanes : (c.logRec ty l).lanes = c.lanes := (Core.quiet_logRec c ty l).lanes
@[simp] theorem Core.logRec_groups : (c.logRec ty l).groups = c.groups := (Core.quiet_logRec c ty l).groups
@[simp] theorem Core.logRec_out : (c.logRec ty l).out = c.out := (Core.quiet_logRec c ty l).out
@[simp] theorem Core.logRec_now : (c.logRec ty l).now = c.now := (Core.quiet_logRec c ty l).now
@[simp] theorem Core.logRec_lastRead : (c.logRec ty l).lastRead = c.lastRead := (Core.quiet_logRec c ty l).lastRead
@[simp] theorem Core.logRec_freeCtr : (c.logRec ty l).freeCtr = c.freeCtr := (Core.quiet_logRec c ty l).freeCtr
@[simp] theorem Core.logRec_encs : (c.logRec ty l).encs = c.encs := (Core.quiet_logRec c ty l).encs
@[simp] theorem Core.logRec_web : (c.logRec ty l).web = c.web := (Core.quiet_logRec c ty l).web
@[simp] theorem Core.logRec_cmps : (c.logRec ty l).cmps = c.cmps := (Core.quiet_logRec c ty l).cmps
@[simp] theorem Core.logRec_bars : (c.logRec ty l).bars = c.bars := (Core.quiet_logRec c ty l).bars
@[simp] theorem Core.logRec_job : (c.logRec ty l).job = c.job := (Core.quiet_logRec c ty l).job
@[simp] theorem Core.logRec_inks : (c.logRec ty l).inks = c.inks := (Core.quiet_logRec c ty l).inks
@[simp] theorem Core.logRec_pipe : (c.logRec ty l).pipe = c.pipe := (Core.quiet_logRec c ty l).pipe
@[simp] theorem Core.logRec_pf : (c.logRec ty l).pf = c.pf := (Core.quiet_logRec c ty l).pf
@[simp] theorem Core.logRec_crew : (c.logRec ty l).crew = c.crew := (Core.quiet_logRec c ty l).crew
@[simp] theorem Core.logRec_cams : (c.logRec ty l).cams = c.cams := (Core.quiet_logRec c ty l).cams
@[simp] theorem Core.logRec_lg : (c.logRec ty l).lg = c.lg := (Core.quiet_logRec c ty l).lg
@[simp] theorem Core.logRec_dma : (c.logRec ty l).dma = c.dma := (Core.quiet_logRec c ty l).dma
@[simp] theorem Core.logRec_rpl : (c.logRec ty l).rpl = c.rpl := (Core.quiet_logRec c ty l).rpl
@[simp] theorem Core.logRec_tst : (c.logRec ty l).tst = c.tst := (Core.quiet_logRec c ty l).tst
@[simp] theorem Core.logRec_pwr : (c.logRec ty l).pwr = c.pwr := (Core.quiet_logRec c ty l).pwr
@[simp] theorem Core.logRec_clk : (c.logRec ty l).clk = c.clk := (Core.quiet_logRec c ty l).clk
@[simp] theorem Core.logRec_replay : (c.logRec ty l).log.replay = c.log.replay := (Core.quiet_logRec c ty l).replay
@[simp] theorem Core.logRec_sqs : (c.logRec ty l).hi.sqs = c.hi.sqs := by rw [(Core.quiet_logRec c ty l).hi]
@[simp] theorem Core.logRec_cqs : (c.logRec ty l).hi.cqs = c.hi.cqs := by rw [(Core.quiet_logRec c ty l).hi]
@[simp] theorem Core.logRec_async : (c.logRec ty l).hi.async = c.hi.async := by rw [(Core.quiet_logRec c ty l).hi]
@[simp] theorem Core.logRec_journal : (c.logRec ty l).hi.journal = c.hi.journal := by rw [(Core.quiet_logRec c ty l).hi]
@[simp] theorem Core.logRec_waiting : (c.logRec ty l).hi.waiting = c.hi.waiting := by rw [(Core.quiet_logRec c ty l).hi]
theorem Core.logRec_r (h : logOff o = false) : (c.logRec ty l).r o = c.r o := (Core.quiet_logRec c ty l).regs o h
theorem Core.logRec_f (h : logOff x.off = false) : (c.logRec ty l).f x = c.f x := (Core.quiet_logRec c ty l).f x h
theorem Core.logRec_fb (h : logOff x.off = false) : (c.logRec ty l).fb x = c.fb x := (Core.quiet_logRec c ty l).fb x h

@[simp] theorem Core.logRegw_ump : (c.logRegw o w).ump = c.ump := (Core.quiet_logRegw c o w).ump
@[simp] theorem Core.logRegw_heads : (c.logRegw o w).heads = c.heads := (Core.quiet_logRegw c o w).heads
@[simp] theorem Core.logRegw_test : (c.logRegw o w).test = c.test := (Core.quiet_logRegw c o w).test
@[simp] theorem Core.logRegw_ts : (c.logRegw o w).ts = c.ts := (Core.quiet_logRegw c o w).ts
@[simp] theorem Core.logRegw_gateRx : (c.logRegw o w).gateRx = c.gateRx := (Core.quiet_logRegw c o w).gateRx
@[simp] theorem Core.logRegw_ticks : (c.logRegw o w).ticks = c.ticks := (Core.quiet_logRegw c o w).ticks
@[simp] theorem Core.logRegw_lanes : (c.logRegw o w).lanes = c.lanes := (Core.quiet_logRegw c o w).lanes
@[simp] theorem Core.logRegw_groups : (c.logRegw o w).groups = c.groups := (Core.quiet_logRegw c o w).groups
@[simp] theorem Core.logRegw_out : (c.logRegw o w).out = c.out := (Core.quiet_logRegw c o w).out
@[simp] theorem Core.logRegw_now : (c.logRegw o w).now = c.now := (Core.quiet_logRegw c o w).now
@[simp] theorem Core.logRegw_lastRead : (c.logRegw o w).lastRead = c.lastRead := (Core.quiet_logRegw c o w).lastRead
@[simp] theorem Core.logRegw_freeCtr : (c.logRegw o w).freeCtr = c.freeCtr := (Core.quiet_logRegw c o w).freeCtr
@[simp] theorem Core.logRegw_encs : (c.logRegw o w).encs = c.encs := (Core.quiet_logRegw c o w).encs
@[simp] theorem Core.logRegw_web : (c.logRegw o w).web = c.web := (Core.quiet_logRegw c o w).web
@[simp] theorem Core.logRegw_cmps : (c.logRegw o w).cmps = c.cmps := (Core.quiet_logRegw c o w).cmps
@[simp] theorem Core.logRegw_bars : (c.logRegw o w).bars = c.bars := (Core.quiet_logRegw c o w).bars
@[simp] theorem Core.logRegw_job : (c.logRegw o w).job = c.job := (Core.quiet_logRegw c o w).job
@[simp] theorem Core.logRegw_inks : (c.logRegw o w).inks = c.inks := (Core.quiet_logRegw c o w).inks
@[simp] theorem Core.logRegw_pipe : (c.logRegw o w).pipe = c.pipe := (Core.quiet_logRegw c o w).pipe
@[simp] theorem Core.logRegw_pf : (c.logRegw o w).pf = c.pf := (Core.quiet_logRegw c o w).pf
@[simp] theorem Core.logRegw_crew : (c.logRegw o w).crew = c.crew := (Core.quiet_logRegw c o w).crew
@[simp] theorem Core.logRegw_cams : (c.logRegw o w).cams = c.cams := (Core.quiet_logRegw c o w).cams
@[simp] theorem Core.logRegw_lg : (c.logRegw o w).lg = c.lg := (Core.quiet_logRegw c o w).lg
@[simp] theorem Core.logRegw_dma : (c.logRegw o w).dma = c.dma := (Core.quiet_logRegw c o w).dma
@[simp] theorem Core.logRegw_rpl : (c.logRegw o w).rpl = c.rpl := (Core.quiet_logRegw c o w).rpl
@[simp] theorem Core.logRegw_tst : (c.logRegw o w).tst = c.tst := (Core.quiet_logRegw c o w).tst
@[simp] theorem Core.logRegw_pwr : (c.logRegw o w).pwr = c.pwr := (Core.quiet_logRegw c o w).pwr
@[simp] theorem Core.logRegw_clk : (c.logRegw o w).clk = c.clk := (Core.quiet_logRegw c o w).clk
@[simp] theorem Core.logRegw_replay : (c.logRegw o w).log.replay = c.log.replay := (Core.quiet_logRegw c o w).replay
@[simp] theorem Core.logRegw_sqs : (c.logRegw o w).hi.sqs = c.hi.sqs := by rw [(Core.quiet_logRegw c o w).hi]
@[simp] theorem Core.logRegw_cqs : (c.logRegw o w).hi.cqs = c.hi.cqs := by rw [(Core.quiet_logRegw c o w).hi]
@[simp] theorem Core.logRegw_async : (c.logRegw o w).hi.async = c.hi.async := by rw [(Core.quiet_logRegw c o w).hi]
@[simp] theorem Core.logRegw_journal : (c.logRegw o w).hi.journal = c.hi.journal := by rw [(Core.quiet_logRegw c o w).hi]
@[simp] theorem Core.logRegw_waiting : (c.logRegw o w).hi.waiting = c.hi.waiting := by rw [(Core.quiet_logRegw c o w).hi]
theorem Core.logRegw_r (h : logOff o = false) : (c.logRegw i w).r o = c.r o := (Core.quiet_logRegw c i w).regs o h
theorem Core.logRegw_f (h : logOff x.off = false) : (c.logRegw o w).f x = c.f x := (Core.quiet_logRegw c o w).f x h
theorem Core.logRegw_fb (h : logOff x.off = false) : (c.logRegw o w).fb x = c.fb x := (Core.quiet_logRegw c o w).fb x h

@[simp] theorem Core.perf_ump : (c.perf i).ump = c.ump := by unfold Core.perf Core.perfAdd; dsimp only; split <;> split <;> rfl
@[simp] theorem Core.perf_heads : (c.perf i).heads = c.heads := by unfold Core.perf Core.perfAdd; dsimp only; split <;> split <;> rfl
@[simp] theorem Core.perf_test : (c.perf i).test = c.test := by unfold Core.perf Core.perfAdd; dsimp only; split <;> split <;> rfl
@[simp] theorem Core.perf_ts : (c.perf i).ts = c.ts := by unfold Core.perf Core.perfAdd; dsimp only; split <;> split <;> rfl
@[simp] theorem Core.perf_gateRx : (c.perf i).gateRx = c.gateRx := by unfold Core.perf Core.perfAdd; dsimp only; split <;> split <;> rfl
@[simp] theorem Core.perf_ticks : (c.perf i).ticks = c.ticks := by unfold Core.perf Core.perfAdd; dsimp only; split <;> split <;> rfl
@[simp] theorem Core.perf_lanes : (c.perf i).lanes = c.lanes := by unfold Core.perf Core.perfAdd; dsimp only; split <;> split <;> rfl
@[simp] theorem Core.perf_groups : (c.perf i).groups = c.groups := by unfold Core.perf Core.perfAdd; dsimp only; split <;> split <;> rfl
@[simp] theorem Core.perf_out : (c.perf i).out = c.out := by unfold Core.perf Core.perfAdd; dsimp only; split <;> split <;> rfl
@[simp] theorem Core.perf_now : (c.perf i).now = c.now := by unfold Core.perf Core.perfAdd; dsimp only; split <;> split <;> rfl
@[simp] theorem Core.perf_lastRead : (c.perf i).lastRead = c.lastRead := by unfold Core.perf Core.perfAdd; dsimp only; split <;> split <;> rfl
@[simp] theorem Core.perf_freeCtr : (c.perf i).freeCtr = c.freeCtr := by unfold Core.perf Core.perfAdd; dsimp only; split <;> split <;> rfl
@[simp] theorem Core.perf_encs : (c.perf i).encs = c.encs := by unfold Core.perf Core.perfAdd; dsimp only; split <;> split <;> rfl
@[simp] theorem Core.perf_web : (c.perf i).web = c.web := by unfold Core.perf Core.perfAdd; dsimp only; split <;> split <;> rfl
@[simp] theorem Core.perf_cmps : (c.perf i).cmps = c.cmps := by unfold Core.perf Core.perfAdd; dsimp only; split <;> split <;> rfl
@[simp] theorem Core.perf_bars : (c.perf i).bars = c.bars := by unfold Core.perf Core.perfAdd; dsimp only; split <;> split <;> rfl
@[simp] theorem Core.perf_job : (c.perf i).job = c.job := by unfold Core.perf Core.perfAdd; dsimp only; split <;> split <;> rfl
@[simp] theorem Core.perf_inks : (c.perf i).inks = c.inks := by unfold Core.perf Core.perfAdd; dsimp only; split <;> split <;> rfl
@[simp] theorem Core.perf_pipe : (c.perf i).pipe = c.pipe := by unfold Core.perf Core.perfAdd; dsimp only; split <;> split <;> rfl
@[simp] theorem Core.perf_pf : (c.perf i).pf = c.pf := by unfold Core.perf Core.perfAdd; dsimp only; split <;> split <;> rfl
@[simp] theorem Core.perf_crew : (c.perf i).crew = c.crew := by unfold Core.perf Core.perfAdd; dsimp only; split <;> split <;> rfl
@[simp] theorem Core.perf_cams : (c.perf i).cams = c.cams := by unfold Core.perf Core.perfAdd; dsimp only; split <;> split <;> rfl
@[simp] theorem Core.perf_lg : (c.perf i).lg = c.lg := by unfold Core.perf Core.perfAdd; dsimp only; split <;> split <;> rfl
@[simp] theorem Core.perf_dma : (c.perf i).dma = c.dma := by unfold Core.perf Core.perfAdd; dsimp only; split <;> split <;> rfl
@[simp] theorem Core.perf_rpl : (c.perf i).rpl = c.rpl := by unfold Core.perf Core.perfAdd; dsimp only; split <;> split <;> rfl
@[simp] theorem Core.perf_tst : (c.perf i).tst = c.tst := by unfold Core.perf Core.perfAdd; dsimp only; split <;> split <;> rfl
@[simp] theorem Core.perf_pwr : (c.perf i).pwr = c.pwr := by unfold Core.perf Core.perfAdd; dsimp only; split <;> split <;> rfl
@[simp] theorem Core.perf_clk : (c.perf i).clk = c.clk := by unfold Core.perf Core.perfAdd; dsimp only; split <;> split <;> rfl
@[simp] theorem Core.perf_hi : (c.perf i).hi = c.hi := by unfold Core.perf Core.perfAdd; dsimp only; split <;> split <;> rfl
@[simp] theorem Core.perf_mem : (c.perf i).mem = c.mem := by unfold Core.perf Core.perfAdd; dsimp only; split <;> split <;> rfl
@[simp] theorem Core.perf_log : (c.perf i).log = c.log := by unfold Core.perf Core.perfAdd; dsimp only; split <;> split <;> rfl
@[simp] theorem Core.perf_posted : (c.perf i).posted = c.posted := by unfold Core.perf Core.perfAdd; dsimp only; split <;> split <;> rfl

end Sys2Proof.Machine
end

