-- ==== Sys2Proof/Laws/Access.lean ====
section
/-!
SUPPORT. What a violation, the check of reserved bits and a register write of the host can do.
-/

namespace Sys2Proof.Machine

variable (c : Core) (bar : Bar) (off : Nat) (write : Bool) (v : Word) (w : Win) (act : Core → Core)

/-- A violation writes its counter and its address, and reports. -/
theorem Core.only_violate : Core.Only [R.DEV_VIOL_CNT, R.HI_VIOL_ADDR] c (c.violate bar off write) := by
  have h : Core.Only [R.DEV_VIOL_CNT, R.HI_VIOL_ADDR] c (c.inc R.DEV_VIOL_CNT) :=
    (Core.Keeps.refl c).setR _ _ (by decide)
  have q : Core.Only [R.DEV_VIOL_CNT, R.HI_VIOL_ADDR] (c.inc R.DEV_VIOL_CNT) ((c.inc R.DEV_VIOL_CNT).perf 207) :=
    (Core.quiet_perf _ 207 (by decide)).mono fun _ ho => (Bool.or_eq_false_iff.mp ho).1
  exact (h.trans q).setR _ _ (by decide)

/-- A write that leaves the reserved bits 0 is no violation. -/
theorem Core.resvNote_clean (r : RegRow) (h : regRow off = some r) (z : v.toNat &&& r.resv = 0) : c.resvNote off v = c := by
  simp [Core.resvNote, h, z]

/-- The check of reserved bits is a violation at most. -/
theorem Core.only_resvNote : Core.Only [R.DEV_VIOL_CNT, R.HI_VIOL_ADDR] c (c.resvNote off v) := by
  unfold Core.resvNote
  split
  · split
    · exact Core.Keeps.refl c
    · exact Core.only_violate c .bar0 off true
  · exact Core.Keeps.refl c

/-- A register whose block answers takes its effect on the core that has noted the write. -/
theorem Core.hostReg_answered (h : c.pwr.held = 0) (x : c.winCut w = false) (b : c.blockAnswers off = true) :
    c.hostReg w off v act = act (if w = .cox then c.resvNote off v else (c.resvNote off v).logRegw off v) := by
  simp [Core.hostReg, h, x, b]

/-- A register whose block does not answer is a violation. -/
theorem Core.hostReg_unanswered (h : c.pwr.held = 0) (x : c.winCut w = false) (b : c.blockAnswers off = false) :
    c.hostReg w off v act = c.violate .bar0 off true := by
  simp [Core.hostReg, h, x, b]

/-- A device that is held answers nothing. -/
theorem Core.hostReg_held (h : c.pwr.held ≠ 0) : c.hostReg w off v act = c := by
  simp [Core.hostReg, h]

/-- An isolated cox reaches no register. -/
theorem Core.hostReg_cut (h : c.winCut w = true) : c.hostReg w off v act = c := by
  simp [Core.hostReg, h]

/-- The host's windows are never cut. -/
@[simp] theorem Core.winCut_host0 : c.winCut .host0 = false := rfl
@[simp] theorem Core.winCut_host2 : c.winCut .host2 = false := rfl

end Sys2Proof.Machine
end

