-- ==== Sys2Proof/Laws/Command.lean ====
section
/-!
SUPPORT. What taking a packet and replying to it can do (`Core.Calm`): beside recording and reporting they write the CMDQ
block's registers, the queues and the journal. A command that is accepted is its rule between the two.
-/

namespace Sys2Proof.Machine

open Sys2Proof.Machine.Core (Quiet)

namespace Core.Calm

theorem ofQuiet {c d : Core} (h : Quiet c d) : Core.Calm c d where
  ump := h.ump
  heads := h.heads
  test := h.test
  ts := h.ts
  gateRx := h.gateRx
  ticks := h.ticks
  lanes := h.lanes
  groups := h.groups
  out := h.out
  now := h.now
  lastRead := h.lastRead
  freeCtr := h.freeCtr
  encs := h.encs
  web := h.web
  cmps := h.cmps
  bars := h.bars
  job := h.job
  inks := h.inks
  pipe := h.pipe
  pf := h.pf
  crew := h.crew
  cams := h.cams
  lg := h.lg
  dma := h.dma
  rpl := h.rpl
  tst := h.tst
  pwr := h.pwr
  clk := h.clk
  mem := h.mem
  async := by rw [h.hi]
  waiting := by rw [h.hi]
  replay := h.replay
  regs := fun off ho => h.regs off (by simp only [calmOff, Bool.or_eq_false_iff] at ho; exact ho.1)
  posted := h.posted

theorem refl (c : Core) : Core.Calm c c := ofQuiet (Core.Keeps.refl c)

theorem trans {a b c : Core} (h : Core.Calm a b) (k : Core.Calm b c) : Core.Calm a c where
  ump := k.ump.trans h.ump
  heads := k.heads.trans h.heads
  test := k.test.trans h.test
  ts := k.ts.trans h.ts
  gateRx := k.gateRx.trans h.gateRx
  ticks := k.ticks.trans h.ticks
  lanes := k.lanes.trans h.lanes
  groups := k.groups.trans h.groups
  out := k.out.trans h.out
  now := k.now.trans h.now
  lastRead := k.lastRead.trans h.lastRead
  freeCtr := k.freeCtr.trans h.freeCtr
  encs := k.encs.trans h.encs
  web := k.web.trans h.web
  cmps := k.cmps.trans h.cmps
  bars := k.bars.trans h.bars
  job := k.job.trans h.job
  inks := k.inks.trans h.inks
  pipe := k.pipe.trans h.pipe
  pf := k.pf.trans h.pf
  crew := k.crew.trans h.crew
  cams := k.cams.trans h.cams
  lg := k.lg.trans h.lg
  dma := k.dma.trans h.dma
  rpl := k.rpl.trans h.rpl
  tst := k.tst.trans h.tst
  pwr := k.pwr.trans h.pwr
  clk := k.clk.trans h.clk
  mem := by rw [k.mem, h.mem]
  async := k.async.trans h.async
  waiting := k.waiting.trans h.waiting
  replay := k.replay.trans h.replay
  regs := fun off ho => (k.regs off ho).trans (h.regs off ho)
  posted := by
    obtain ⟨l, hl⟩ := h.posted
    obtain ⟨m, hm⟩ := k.posted
    exact ⟨m ++ l, by rw [hm, hl, List.append_assoc]⟩

theorem f {c d : Core} (h : Core.Calm c d) (x : Fld) (hx : calmOff x.off = false) : d.f x = c.f x := by
  unfold Core.f Core.n; rw [h.regs _ hx]

theorem fb {c d : Core} (h : Core.Calm c d) (x : Fld) (hx : calmOff x.off = false) : d.fb x = c.fb x := by
  unfold Core.fb; rw [h.f x hx]

/-- A register of the CMDQ block is written. -/
theorem setR {c d : Core} (h : Core.Calm c d) (o : Nat) (w : Word) (ho : calmOff o = true) : Core.Calm c (d.setR o w) := by
  refine h.trans ?_
  constructor <;> (try rfl)
  · intro off hf
    exact Core.r_setR_ne d w (by rintro rfl; simp [ho] at hf)
  · exact ⟨[], rfl⟩

theorem setF {c d : Core} (h : Core.Calm c d) (x : Fld) (v : Nat) (ho : calmOff x.off = true) : Core.Calm c (d.setF x v) :=
  h.setR _ _ ho

/-- The host interface's own state changes, but for the commands under way. -/
theorem hi {c d : Core} (h : Core.Calm c d) (u : HostIf) (h1 : u.async = d.hi.async) (h2 : u.waiting = d.hi.waiting) :
    Core.Calm c { d with hi := u } := by
  refine h.trans ?_
  constructor <;> (try rfl)
  · exact h1
  · exact h2
  · intros; rfl
  · exact ⟨[], rfl⟩

theorem sq {c d : Core} (h : Core.Calm c d) (n : Nat) (u : Sq) : Core.Calm c (d.setSq n u) := h.hi _ rfl rfl

theorem cq {c d : Core} (h : Core.Calm c d) (n : Nat) (u : Cq) : Core.Calm c (d.setCq n u) := h.hi _ rfl rfl

theorem entered {c d : Core} (h : Core.Calm c d) (j : JEntry) : Core.Calm c (d.entered j) := h.hi _ rfl rfl

theorem begun {c d : Core} (h : Core.Calm c d) (op sq seq : Nat) : Core.Calm c (d.begun op sq seq) := h.hi _ rfl rfl

theorem quiet {c d e : Core} (h : Core.Calm c d) (k : Quiet d e) : Core.Calm c e := h.trans (ofQuiet k)

end Core.Calm

open Sys2Proof.Machine.Core (Calm)

theorem calmOff_cmdq {o : Nat} (h : o / 0x10000 = 1) : calmOff o = true := by simp [calmOff, h]

theorem Core.calm_takeHead (c : Core) (p : Packet) : Calm c (c.takeHead p) := by
  have hn : p.sq.val < 8 := p.sq.isLt
  have h1 : (R.SQ_LAST_SEQ p.sq.val) / 0x10000 = 1 := by unfold R.SQ_LAST_SEQ; omega
  have h2 : (R.SQ_HEAD p.sq.val) / 0x10000 = 1 := by unfold R.SQ_HEAD; omega
  unfold Core.takeHead
  extract_lets n u want d e src g
  have a : Calm c d := by
    show Calm c (if _ then _ else _)
    split
    · exact ((Calm.refl c).setR R.HI_SEQ_GAP_CNT _ rfl).quiet (Core.quiet_post ..)
    · exact .refl c
  have b : Calm c e := a.setF (F.SQ_LAST_SEQ_SEQ n) _ (calmOff_cmdq h1)
  have k : Calm c g := b.sq _ _
  exact k.setF (F.SQ_HEAD_HEAD n) _ (calmOff_cmdq h2)

/-- Taking a packet changes the queues, the recording and the reporting alone. -/
theorem Core.calm_taken (c : Core) (op : Nat) (p : Packet) : Calm c (c.taken op p) := by
  have hn : p.sq.val < 8 := p.sq.isLt
  unfold Core.taken
  exact (((Core.calm_takeHead c p).quiet (Core.quiet_perf _ _ (by omega))).quiet (Core.quiet_logRec ..)).begun _ _ _

theorem Core.calm_cqSignal (c : Core) (m : Nat) (a b : Bool) : Calm c (c.cqSignal m a b) := by
  have hv : c.f (F.CQ_CFG_VEC m) < 64 := Core.f_lt c (F.CQ_CFG_VEC m)
  unfold Core.cqSignal
  split
  · extract_lets u
    split
    · exact ((Calm.refl c).cq m _).quiet (Core.quiet_fireVec _ _ hv)
    · split
      · exact .refl c
      · split
        · exact ((Calm.refl c).cq m _).quiet (Core.quiet_fireVec _ _ hv)
        · exact (Calm.refl c).cq m _
  · exact .refl c

theorem Core.calm_cqWrite (c : Core) (m : Nat) (e : List Byte) (b : Bool) (hm : m < 8) : Calm c (c.cqWrite m e b) := by
  have h1 : (R.CQ_TAIL m) / 0x10000 = 1 := by unfold R.CQ_TAIL; omega
  unfold Core.cqWrite
  extract_lets phase tail e' d t' g k src u
  have a : Calm c d := (Calm.refl c).quiet (Core.quiet_pushHost ..)
  clear_value d
  have b : Calm c g := a.setF (F.CQ_TAIL_TAIL m) _ (calmOff_cmdq h1)
  clear_value g
  have h : Calm c k := by
    show Calm c (if _ then _ else _)
    split
    · exact b.setF (F.CQ_TAIL_PHASE m) _ (calmOff_cmdq h1)
    · exact b
  clear_value k src
  have i : Calm c u := (h.cq _ _).quiet (Core.quiet_perf _ 200 (by decide))
  exact i.trans (Core.calm_cqSignal ..)

theorem Core.calm_cqPost (c : Core) (m : Nat) (e : List Byte) (b : Bool) (hm : m < 8) : Calm c (c.cqPost m e b) := by
  unfold Core.cqPost
  split
  · extract_lets u d
    split
    · exact Core.calm_cqWrite c m e b hm
    · have h : Calm c d := (Calm.refl c).cq m _
      split
      · exact h
      · exact h.quiet (Core.quiet_post ..)
  · exact .refl c

/-- A reply changes the queues, the recording and the reporting alone. -/
theorem Core.calm_answer (c : Core) (op sq seq flags status : Nat) (res : List Byte) :
    Calm c (c.answer op sq seq flags status res) := by
  have hm : ∀ d : Core, d.f (F.SQ_CFG_CQ sq) < 8 := fun d => Core.f_lt d (F.SQ_CFG_CQ sq)
  unfold Core.answer
  extract_lets e m j d g
  split
  · exact (Calm.refl c).quiet (Core.quiet_logRec ..)
  · have h : Calm c d := by
      show Calm c (if _ then _ else _)
      split
      · exact ((Calm.refl c).entered j).hi _ rfl rfl
      · exact (Calm.refl c).entered j
    have k : Calm c g := by
      show Calm c (if _ then _ else _)
      split
      · exact h
      · exact h.quiet (Core.quiet_logRec ..)
    exact k.trans (Core.calm_cqPost _ _ _ _ (hm c))

theorem Core.journal_fireVec (c : Core) (v : Nat) : (c.fireVec v).hi.journal = c.hi.journal := by
  unfold Core.fireVec
  split
  · rfl
  · rw [Core.perf_hi, Core.perf_hi]

theorem Core.journal_cqSignal (c : Core) (m : Nat) (a b : Bool) : (c.cqSignal m a b).hi.journal = c.hi.journal := by
  unfold Core.cqSignal
  split
  · extract_lets u
    split
    · exact Core.journal_fireVec ..
    · split
      · rfl
      · split
        · exact Core.journal_fireVec ..
        · rfl
  · rfl

theorem Core.journal_cqWrite (c : Core) (m : Nat) (e : List Byte) (b : Bool) : (c.cqWrite m e b).hi.journal = c.hi.journal := by
  unfold Core.cqWrite
  extract_lets phase tail e' d t' g k src u
  have h : k.hi.journal = g.hi.journal := by
    show (if _ then _ else _ : Core).hi.journal = _
    split <;> rfl
  refine (Core.journal_cqSignal u m _ _).trans ?_
  refine (congrArg HostIf.journal (Core.perf_hi _ _)).trans ?_
  have j : d.hi.journal = c.hi.journal :=
    (congrArg HostIf.journal (Core.perf_hi (c.wrHost (c.n64 (R.CQ_BASE_LO m) + 16 * tail) e') 205) : _)
  exact h.trans j

theorem Core.journal_cqPost (c : Core) (m : Nat) (e : List Byte) (b : Bool) : (c.cqPost m e b).hi.journal = c.hi.journal := by
  unfold Core.cqPost
  split
  · extract_lets u d
    split
    · exact Core.journal_cqWrite ..
    · split
      · rfl
      · exact Core.post_journal _ _ _ _
  · rfl

/-- A reply is entered in the journal in place of the entry of the command begun (R366). -/
theorem Core.journal_answer (c : Core) (op sq seq flags status : Nat) (res : List Byte) (h : sq < 256) :
    (c.answer op sq seq flags status res).hi.journal = openJournal c.hi.journal sq seq ++
      [{ sq := sq, seq := seq, op := op, effected := true
         reply := replyBytes seq sq status res (c.f F.COX_EPOCH_EPOCH) op (c.f (F.SQ_HEAD_HEAD sq))
         posted := c.cqRoom (c.f (F.SQ_CFG_CQ sq)), noIrq := bit flags 2 }] := by
  unfold Core.answer
  extract_lets e m j d g
  rw [if_neg (by omega)]
  have k0 : d.hi.journal = (c.entered j).hi.journal := by
    show (if _ then _ else _ : Core).hi.journal = _
    split <;> rfl
  have k : g.hi.journal = (c.entered j).hi.journal := by
    refine Eq.trans ?_ k0
    show (if _ then _ else _ : Core).hi.journal = _
    split
    · rfl
    · exact Core.logRec_journal ..
  exact (Core.journal_cqPost ..).trans k

theorem Core.journal_takeHead (c : Core) (p : Packet) : (c.takeHead p).hi.journal = c.hi.journal := by
  unfold Core.takeHead
  extract_lets n u want d e src g
  have a : d.hi.journal = c.hi.journal := by
    show (if _ then _ else _ : Core).hi.journal = _
    split
    · exact Core.post_journal ..
    · rfl
  exact a

/-- A packet taken is entered in the journal as begun, before any effect (R366). -/
theorem Core.journal_taken (c : Core) (op : Nat) (p : Packet) : (c.taken op p).hi.journal = c.hi.journal ++
    [{ sq := p.sq.val, seq := p.seq.toNat, op := op, effected := false, reply := [], posted := false }] := by
  unfold Core.taken
  extract_lets d
  refine congrArg (· ++ [_]) ((Core.logRec_journal ..).trans ?_)
  exact (congrArg HostIf.journal (Core.perf_hi _ _)).trans (Core.journal_takeHead c p)

/-- The journal without the entry of the command just begun is the one before it. -/
@[simp] theorem openJournal_begun (l : List JEntry) (sq seq op : Nat) (r : List Byte) (b : Bool) :
    openJournal (l ++ [{ sq := sq, seq := seq, op := op, effected := false, reply := r, posted := b }]) sq seq = l := by
  simp [openJournal]

/-- An accepted command is its rule on the core as taken, and the reply. -/
theorem Core.command_accepted (c : Core) (op : Nat) (p : Packet) (rule : Core → CmdIn → CmdOut)
    (h1 : c.mayStart p.flags.toNat = true) (h2 : c.refusal op p = none) :
    c.command op p rule = Core.reply op p (rule (c.taken op p) (packetInput p)) := by
  unfold Core.command; rw [if_pos h1, h2]

/-- A refused command has its reply, and no other effect. -/
theorem Core.command_refused (c : Core) (op : Nat) (p : Packet) (rule : Core → CmdIn → CmdOut) (st : Nat)
    (h1 : c.mayStart p.flags.toNat = true) (h2 : c.refusal op p = some st) :
    c.command op p rule = Core.reply op p (c.taken op p, some (st, [])) := by
  unfold Core.command; rw [if_pos h1, h2]

theorem Core.calm_reply (op : Nat) (p : Packet) (c : Core) (st : Nat) (res : List Byte) :
    Calm c (Core.reply op p (c, some (st, res))) := Core.calm_answer ..

end Sys2Proof.Machine
end

