-- ==== Sys2Proof/Laws/Units.lean ====
section
/-!
SUPPORT. The tables of units: a unit read after a unit written, and the registers, events and outputs that such a write leaves.
-/

namespace Sys2Proof.Machine

variable (c : Core) (n m : Nat) (x : Fld)

theorem Core.bar_setBar (v : FireBar) : (c.setBar n v).bar m = if m = n then v else c.bar m := Tab.get_set _ _ _ _ _
@[simp] theorem Core.bar_setBar_same (v : FireBar) : (c.setBar n v).bar n = v := Tab.get_set_same _ _ _ _
theorem Core.bar_setBar_ne (v : FireBar) (h : m ≠ n) : (c.setBar n v).bar m = c.bar m := Tab.get_set_ne _ _ _ h
@[simp] theorem Core.setBar_regs (v : FireBar) : (c.setBar n v).regs = c.regs := rfl
@[simp] theorem Core.setBar_f (v : FireBar) : (c.setBar n v).f x = c.f x := rfl
@[simp] theorem Core.setBar_posted (v : FireBar) : (c.setBar n v).posted = c.posted := rfl
@[simp] theorem Core.setBar_out (v : FireBar) : (c.setBar n v).out = c.out := rfl
@[simp] theorem Core.setBar_web (v : FireBar) : (c.setBar n v).web = c.web := rfl
theorem Core.enc_setEnc (v : EncPort) : (c.setEnc n v).enc m = if m = n then v else c.enc m := Tab.get_set _ _ _ _ _
@[simp] theorem Core.enc_setEnc_same (v : EncPort) : (c.setEnc n v).enc n = v := Tab.get_set_same _ _ _ _
theorem Core.enc_setEnc_ne (v : EncPort) (h : m ≠ n) : (c.setEnc n v).enc m = c.enc m := Tab.get_set_ne _ _ _ h
@[simp] theorem Core.setEnc_regs (v : EncPort) : (c.setEnc n v).regs = c.regs := rfl
@[simp] theorem Core.setEnc_f (v : EncPort) : (c.setEnc n v).f x = c.f x := rfl
@[simp] theorem Core.setEnc_posted (v : EncPort) : (c.setEnc n v).posted = c.posted := rfl
@[simp] theorem Core.setEnc_out (v : EncPort) : (c.setEnc n v).out = c.out := rfl
@[simp] theorem Core.setEnc_web (v : EncPort) : (c.setEnc n v).web = c.web := rfl
theorem Core.cmp_setCmp (v : Cmp) : (c.setCmp n v).cmp m = if m = n then v else c.cmp m := Tab.get_set _ _ _ _ _
@[simp] theorem Core.cmp_setCmp_same (v : Cmp) : (c.setCmp n v).cmp n = v := Tab.get_set_same _ _ _ _
theorem Core.cmp_setCmp_ne (v : Cmp) (h : m ≠ n) : (c.setCmp n v).cmp m = c.cmp m := Tab.get_set_ne _ _ _ h
@[simp] theorem Core.setCmp_regs (v : Cmp) : (c.setCmp n v).regs = c.regs := rfl
@[simp] theorem Core.setCmp_f (v : Cmp) : (c.setCmp n v).f x = c.f x := rfl
@[simp] theorem Core.setCmp_posted (v : Cmp) : (c.setCmp n v).posted = c.posted := rfl
@[simp] theorem Core.setCmp_out (v : Cmp) : (c.setCmp n v).out = c.out := rfl
@[simp] theorem Core.setCmp_web (v : Cmp) : (c.setCmp n v).web = c.web := rfl
theorem Core.cam_setCam (v : CamPort) : (c.setCam n v).cam m = if m = n then v else c.cam m := Tab.get_set _ _ _ _ _
@[simp] theorem Core.cam_setCam_same (v : CamPort) : (c.setCam n v).cam n = v := Tab.get_set_same _ _ _ _
theorem Core.cam_setCam_ne (v : CamPort) (h : m ≠ n) : (c.setCam n v).cam m = c.cam m := Tab.get_set_ne _ _ _ h
@[simp] theorem Core.setCam_regs (v : CamPort) : (c.setCam n v).regs = c.regs := rfl
@[simp] theorem Core.setCam_f (v : CamPort) : (c.setCam n v).f x = c.f x := rfl
@[simp] theorem Core.setCam_posted (v : CamPort) : (c.setCam n v).posted = c.posted := rfl
@[simp] theorem Core.setCam_out (v : CamPort) : (c.setCam n v).out = c.out := rfl
@[simp] theorem Core.setCam_web (v : CamPort) : (c.setCam n v).web = c.web := rfl
theorem Core.sq_setSq (v : Sq) : (c.setSq n v).sq m = if m = n then v else c.sq m := Tab.get_set _ _ _ _ _
@[simp] theorem Core.sq_setSq_same (v : Sq) : (c.setSq n v).sq n = v := Tab.get_set_same _ _ _ _
theorem Core.sq_setSq_ne (v : Sq) (h : m ≠ n) : (c.setSq n v).sq m = c.sq m := Tab.get_set_ne _ _ _ h
@[simp] theorem Core.setSq_regs (v : Sq) : (c.setSq n v).regs = c.regs := rfl
@[simp] theorem Core.setSq_f (v : Sq) : (c.setSq n v).f x = c.f x := rfl
@[simp] theorem Core.setSq_posted (v : Sq) : (c.setSq n v).posted = c.posted := rfl
@[simp] theorem Core.setSq_out (v : Sq) : (c.setSq n v).out = c.out := rfl
@[simp] theorem Core.setSq_web (v : Sq) : (c.setSq n v).web = c.web := rfl
theorem Core.cq_setCq (v : Cq) : (c.setCq n v).cq m = if m = n then v else c.cq m := Tab.get_set _ _ _ _ _
@[simp] theorem Core.cq_setCq_same (v : Cq) : (c.setCq n v).cq n = v := Tab.get_set_same _ _ _ _
theorem Core.cq_setCq_ne (v : Cq) (h : m ≠ n) : (c.setCq n v).cq m = c.cq m := Tab.get_set_ne _ _ _ h
@[simp] theorem Core.setCq_regs (v : Cq) : (c.setCq n v).regs = c.regs := rfl
@[simp] theorem Core.setCq_f (v : Cq) : (c.setCq n v).f x = c.f x := rfl
@[simp] theorem Core.setCq_posted (v : Cq) : (c.setCq n v).posted = c.posted := rfl
@[simp] theorem Core.setCq_out (v : Cq) : (c.setCq n v).out = c.out := rfl
@[simp] theorem Core.setCq_web (v : Cq) : (c.setCq n v).web = c.web := rfl
theorem Core.lane_setLane (v : Lane) : (c.setLane n v).lane m = if m = n then v else c.lane m := Tab.get_set _ _ _ _ _
@[simp] theorem Core.lane_setLane_same (v : Lane) : (c.setLane n v).lane n = v := Tab.get_set_same _ _ _ _
theorem Core.lane_setLane_ne (v : Lane) (h : m ≠ n) : (c.setLane n v).lane m = c.lane m := Tab.get_set_ne _ _ _ h
@[simp] theorem Core.setLane_regs (v : Lane) : (c.setLane n v).regs = c.regs := rfl
@[simp] theorem Core.setLane_f (v : Lane) : (c.setLane n v).f x = c.f x := rfl
@[simp] theorem Core.setLane_posted (v : Lane) : (c.setLane n v).posted = c.posted := rfl
@[simp] theorem Core.setLane_out (v : Lane) : (c.setLane n v).out = c.out := rfl
@[simp] theorem Core.setLane_web (v : Lane) : (c.setLane n v).web = c.web := rfl
theorem Core.group_setGroup (v : Group) : (c.setGroup n v).group m = if m = n then v else c.group m := Tab.get_set _ _ _ _ _
@[simp] theorem Core.group_setGroup_same (v : Group) : (c.setGroup n v).group n = v := Tab.get_set_same _ _ _ _
theorem Core.group_setGroup_ne (v : Group) (h : m ≠ n) : (c.setGroup n v).group m = c.group m := Tab.get_set_ne _ _ _ h
@[simp] theorem Core.setGroup_regs (v : Group) : (c.setGroup n v).regs = c.regs := rfl
@[simp] theorem Core.setGroup_f (v : Group) : (c.setGroup n v).f x = c.f x := rfl
@[simp] theorem Core.setGroup_posted (v : Group) : (c.setGroup n v).posted = c.posted := rfl
@[simp] theorem Core.setGroup_out (v : Group) : (c.setGroup n v).out = c.out := rfl
@[simp] theorem Core.setGroup_web (v : Group) : (c.setGroup n v).web = c.web := rfl
theorem Core.head_setHead (v : Head) : (c.setHead n v).head m = if m = n then v else c.head m := Tab.get_set _ _ _ _ _
@[simp] theorem Core.head_setHead_same (v : Head) : (c.setHead n v).head n = v := Tab.get_set_same _ _ _ _
theorem Core.head_setHead_ne (v : Head) (h : m ≠ n) : (c.setHead n v).head m = c.head m := Tab.get_set_ne _ _ _ h
@[simp] theorem Core.setHead_regs (v : Head) : (c.setHead n v).regs = c.regs := rfl
@[simp] theorem Core.setHead_f (v : Head) : (c.setHead n v).f x = c.f x := rfl
@[simp] theorem Core.setHead_posted (v : Head) : (c.setHead n v).posted = c.posted := rfl
@[simp] theorem Core.setHead_out (v : Head) : (c.setHead n v).out = c.out := rfl
@[simp] theorem Core.setHead_web (v : Head) : (c.setHead n v).web = c.web := rfl
theorem Core.tsIn_setTs (v : TsIn) : (c.setTs n v).tsIn m = if m = n then v else c.tsIn m := Tab.get_set _ _ _ _ _
@[simp] theorem Core.tsIn_setTs_same (v : TsIn) : (c.setTs n v).tsIn n = v := Tab.get_set_same _ _ _ _
theorem Core.tsIn_setTs_ne (v : TsIn) (h : m ≠ n) : (c.setTs n v).tsIn m = c.tsIn m := Tab.get_set_ne _ _ _ h
@[simp] theorem Core.setTs_regs (v : TsIn) : (c.setTs n v).regs = c.regs := rfl
@[simp] theorem Core.setTs_f (v : TsIn) : (c.setTs n v).f x = c.f x := rfl
@[simp] theorem Core.setTs_posted (v : TsIn) : (c.setTs n v).posted = c.posted := rfl
@[simp] theorem Core.setTs_out (v : TsIn) : (c.setTs n v).out = c.out := rfl
@[simp] theorem Core.setTs_web (v : TsIn) : (c.setTs n v).web = c.web := rfl
theorem Core.nib_setNib (v : Nib) : (c.setNib n v).nib m = if m = n then v.follows (c.nib n) else c.nib m :=
  Tab.get_set _ _ _ _ _
@[simp] theorem Core.nib_setNib_same (v : Nib) : (c.setNib n v).nib n = v.follows (c.nib n) := Tab.get_set_same _ _ _ _
@[simp] theorem Nib.follows_cur (v u : Nib) : (v.follows u).cur = v.cur := rfl
@[simp] theorem Nib.follows_flight (v u : Nib) : (v.follows u).flight = v.flight := rfl
@[simp] theorem Nib.follows_work (v u : Nib) : (v.follows u).work = v.work := rfl
@[simp] theorem Nib.follows_solos (v u : Nib) : (v.follows u).solos = v.solos := rfl
@[simp] theorem Nib.follows_aud (v u : Nib) : (v.follows u).aud = v.aud := rfl
@[simp] theorem Nib.follows_lastInk (v u : Nib) : (v.follows u).lastInk = v.lastInk := rfl
theorem Core.nib_setNib_ne (v : Nib) (h : m ≠ n) : (c.setNib n v).nib m = c.nib m := Tab.get_set_ne _ _ _ h
@[simp] theorem Core.setNib_regs (v : Nib) : (c.setNib n v).regs = c.regs := rfl
@[simp] theorem Core.setNib_f (v : Nib) : (c.setNib n v).f x = c.f x := rfl
@[simp] theorem Core.setNib_posted (v : Nib) : (c.setNib n v).posted = c.posted := rfl
@[simp] theorem Core.setNib_out (v : Nib) : (c.setNib n v).out = c.out := rfl
@[simp] theorem Core.setNib_web (v : Nib) : (c.setNib n v).web = c.web := rfl
theorem Core.ink_setInk (v : InkVer) : (c.setInk n v).ink m = if m = n then v else c.ink m := Tab.get_set _ _ _ _ _
@[simp] theorem Core.ink_setInk_same (v : InkVer) : (c.setInk n v).ink n = v := Tab.get_set_same _ _ _ _
theorem Core.ink_setInk_ne (v : InkVer) (h : m ≠ n) : (c.setInk n v).ink m = c.ink m := Tab.get_set_ne _ _ _ h
@[simp] theorem Core.setInk_regs (v : InkVer) : (c.setInk n v).regs = c.regs := rfl
@[simp] theorem Core.setInk_f (v : InkVer) : (c.setInk n v).f x = c.f x := rfl
@[simp] theorem Core.setInk_posted (v : InkVer) : (c.setInk n v).posted = c.posted := rfl
@[simp] theorem Core.setInk_out (v : InkVer) : (c.setInk n v).out = c.out := rfl
@[simp] theorem Core.setInk_web (v : InkVer) : (c.setInk n v).web = c.web := rfl
theorem Core.layer_setLayer (v : Layer) : (c.setLayer n v).layer m = if m = n then v else c.layer m := Tab.get_set _ _ _ _ _
@[simp] theorem Core.layer_setLayer_same (v : Layer) : (c.setLayer n v).layer n = v := Tab.get_set_same _ _ _ _
theorem Core.layer_setLayer_ne (v : Layer) (h : m ≠ n) : (c.setLayer n v).layer m = c.layer m := Tab.get_set_ne _ _ _ h
@[simp] theorem Core.setLayer_regs (v : Layer) : (c.setLayer n v).regs = c.regs := rfl
@[simp] theorem Core.setLayer_f (v : Layer) : (c.setLayer n v).f x = c.f x := rfl
@[simp] theorem Core.setLayer_posted (v : Layer) : (c.setLayer n v).posted = c.posted := rfl
@[simp] theorem Core.setLayer_out (v : Layer) : (c.setLayer n v).out = c.out := rfl
@[simp] theorem Core.setLayer_web (v : Layer) : (c.setLayer n v).web = c.web := rfl
theorem Core.surf_setSurf (v : Surf) : (c.setSurf n v).surf m = if m = n then v else c.surf m := Tab.get_set _ _ _ _ _
@[simp] theorem Core.surf_setSurf_same (v : Surf) : (c.setSurf n v).surf n = v := Tab.get_set_same _ _ _ _
theorem Core.surf_setSurf_ne (v : Surf) (h : m ≠ n) : (c.setSurf n v).surf m = c.surf m := Tab.get_set_ne _ _ _ h
@[simp] theorem Core.setSurf_regs (v : Surf) : (c.setSurf n v).regs = c.regs := rfl
@[simp] theorem Core.setSurf_f (v : Surf) : (c.setSurf n v).f x = c.f x := rfl
@[simp] theorem Core.setSurf_posted (v : Surf) : (c.setSurf n v).posted = c.posted := rfl
@[simp] theorem Core.setSurf_out (v : Surf) : (c.setSurf n v).out = c.out := rfl
@[simp] theorem Core.setSurf_web (v : Surf) : (c.setSurf n v).web = c.web := rfl
theorem Core.crewPort_setCrewPort (v : CrewPort) : (c.setCrewPort n v).crewPort m = if m = n then v else c.crewPort m := Tab.get_set _ _ _ _ _
@[simp] theorem Core.crewPort_setCrewPort_same (v : CrewPort) : (c.setCrewPort n v).crewPort n = v := Tab.get_set_same _ _ _ _
theorem Core.crewPort_setCrewPort_ne (v : CrewPort) (h : m ≠ n) : (c.setCrewPort n v).crewPort m = c.crewPort m := Tab.get_set_ne _ _ _ h
@[simp] theorem Core.setCrewPort_regs (v : CrewPort) : (c.setCrewPort n v).regs = c.regs := rfl
@[simp] theorem Core.setCrewPort_f (v : CrewPort) : (c.setCrewPort n v).f x = c.f x := rfl
@[simp] theorem Core.setCrewPort_posted (v : CrewPort) : (c.setCrewPort n v).posted = c.posted := rfl
@[simp] theorem Core.setCrewPort_out (v : CrewPort) : (c.setCrewPort n v).out = c.out := rfl
@[simp] theorem Core.setCrewPort_web (v : CrewPort) : (c.setCrewPort n v).web = c.web := rfl
theorem Core.dch_setDch (v : DmaChan) : (c.setDch n v).dch m = if m = n then v else c.dch m := Tab.get_set _ _ _ _ _
@[simp] theorem Core.dch_setDch_same (v : DmaChan) : (c.setDch n v).dch n = v := Tab.get_set_same _ _ _ _
theorem Core.dch_setDch_ne (v : DmaChan) (h : m ≠ n) : (c.setDch n v).dch m = c.dch m := Tab.get_set_ne _ _ _ h
@[simp] theorem Core.setDch_regs (v : DmaChan) : (c.setDch n v).regs = c.regs := rfl
@[simp] theorem Core.setDch_f (v : DmaChan) : (c.setDch n v).f x = c.f x := rfl
@[simp] theorem Core.setDch_posted (v : DmaChan) : (c.setDch n v).posted = c.posted := rfl
@[simp] theorem Core.setDch_out (v : DmaChan) : (c.setDch n v).out = c.out := rfl
@[simp] theorem Core.setDch_web (v : DmaChan) : (c.setDch n v).web = c.web := rfl
theorem Core.pers_setPers (v : Pers) : (c.setPers n v).pers m = if m = n then v else c.pers m := Tab.get_set _ _ _ _ _
@[simp] theorem Core.pers_setPers_same (v : Pers) : (c.setPers n v).pers n = v := Tab.get_set_same _ _ _ _
theorem Core.pers_setPers_ne (v : Pers) (h : m ≠ n) : (c.setPers n v).pers m = c.pers m := Tab.get_set_ne _ _ _ h
@[simp] theorem Core.setPers_regs (v : Pers) : (c.setPers n v).regs = c.regs := rfl
@[simp] theorem Core.setPers_f (v : Pers) : (c.setPers n v).f x = c.f x := rfl
@[simp] theorem Core.setPers_posted (v : Pers) : (c.setPers n v).posted = c.posted := rfl
@[simp] theorem Core.setPers_out (v : Pers) : (c.setPers n v).out = c.out := rfl
@[simp] theorem Core.setPers_web (v : Pers) : (c.setPers n v).web = c.web := rfl
theorem Core.ptp_setPtp (v : PtpPort) : (c.setPtp n v).ptp m = if m = n then v else c.ptp m := Tab.get_set _ _ _ _ _
@[simp] theorem Core.ptp_setPtp_same (v : PtpPort) : (c.setPtp n v).ptp n = v := Tab.get_set_same _ _ _ _
theorem Core.ptp_setPtp_ne (v : PtpPort) (h : m ≠ n) : (c.setPtp n v).ptp m = c.ptp m := Tab.get_set_ne _ _ _ h
@[simp] theorem Core.setPtp_regs (v : PtpPort) : (c.setPtp n v).regs = c.regs := rfl
@[simp] theorem Core.setPtp_f (v : PtpPort) : (c.setPtp n v).f x = c.f x := rfl
@[simp] theorem Core.setPtp_posted (v : PtpPort) : (c.setPtp n v).posted = c.posted := rfl
@[simp] theorem Core.setPtp_out (v : PtpPort) : (c.setPtp n v).out = c.out := rfl
@[simp] theorem Core.setPtp_web (v : PtpPort) : (c.setPtp n v).web = c.web := rfl

/-! ### The memory's accesses and counters -/

@[simp] theorem Core.byReq_regs (r : Nat) : (c.byReq r).regs = c.regs := rfl
@[simp] theorem Core.byReq_posted (r : Nat) : (c.byReq r).posted = c.posted := rfl
@[simp] theorem Core.byReq_out (r : Nat) : (c.byReq r).out = c.out := rfl
@[simp] theorem Core.byReq_web (r : Nat) : (c.byReq r).web = c.web := rfl
@[simp] theorem Core.byReq_job (r : Nat) : (c.byReq r).job = c.job := rfl
@[simp] theorem Core.byReq_bars (r : Nat) : (c.byReq r).bars = c.bars := rfl
@[simp] theorem Core.byReq_heads (r : Nat) : (c.byReq r).heads = c.heads := rfl
@[simp] theorem Core.byReq_now (r : Nat) : (c.byReq r).now = c.now := rfl
@[simp] theorem Core.byReq_f (r : Nat) : (c.byReq r).f x = c.f x := rfl
@[simp] theorem Core.byReq_hi (r : Nat) : (c.byReq r).hi = c.hi := rfl
@[simp] theorem Core.byReq_dram (r : Nat) : (c.byReq r).mem.dram = c.mem.dram := rfl
@[simp] theorem Core.byReq_poison (r : Nat) : (c.byReq r).mem.poison = c.mem.poison := rfl
@[simp] theorem Core.setRaa_regs (k v : Nat) : (c.setRaa k v).regs = c.regs := rfl
@[simp] theorem Core.setRaa_posted (k v : Nat) : (c.setRaa k v).posted = c.posted := rfl
@[simp] theorem Core.setRaa_out (k v : Nat) : (c.setRaa k v).out = c.out := rfl
@[simp] theorem Core.setRaa_web (k v : Nat) : (c.setRaa k v).web = c.web := rfl
@[simp] theorem Core.setRaa_job (k v : Nat) : (c.setRaa k v).job = c.job := rfl
@[simp] theorem Core.setRaa_bars (k v : Nat) : (c.setRaa k v).bars = c.bars := rfl
@[simp] theorem Core.setRaa_heads (k v : Nat) : (c.setRaa k v).heads = c.heads := rfl
@[simp] theorem Core.setRaa_now (k v : Nat) : (c.setRaa k v).now = c.now := rfl
@[simp] theorem Core.setRaa_f (k v : Nat) : (c.setRaa k v).f x = c.f x := rfl
@[simp] theorem Core.setRaa_hi (k v : Nat) : (c.setRaa k v).hi = c.hi := rfl
@[simp] theorem Core.setRaa_dram (k v : Nat) : (c.setRaa k v).mem.dram = c.mem.dram := rfl
@[simp] theorem Core.setRaa_poison (k v : Nat) : (c.setRaa k v).mem.poison = c.mem.poison := rfl
@[simp] theorem Core.setPostponed_regs (k v : Nat) : (c.setPostponed k v).regs = c.regs := rfl
@[simp] theorem Core.setPostponed_posted (k v : Nat) : (c.setPostponed k v).posted = c.posted := rfl
@[simp] theorem Core.setPostponed_out (k v : Nat) : (c.setPostponed k v).out = c.out := rfl
@[simp] theorem Core.setPostponed_web (k v : Nat) : (c.setPostponed k v).web = c.web := rfl
@[simp] theorem Core.setPostponed_job (k v : Nat) : (c.setPostponed k v).job = c.job := rfl
@[simp] theorem Core.setPostponed_bars (k v : Nat) : (c.setPostponed k v).bars = c.bars := rfl
@[simp] theorem Core.setPostponed_heads (k v : Nat) : (c.setPostponed k v).heads = c.heads := rfl
@[simp] theorem Core.setPostponed_now (k v : Nat) : (c.setPostponed k v).now = c.now := rfl
@[simp] theorem Core.setPostponed_f (k v : Nat) : (c.setPostponed k v).f x = c.f x := rfl
@[simp] theorem Core.setPostponed_hi (k v : Nat) : (c.setPostponed k v).hi = c.hi := rfl
@[simp] theorem Core.setPostponed_dram (k v : Nat) : (c.setPostponed k v).mem.dram = c.mem.dram := rfl
@[simp] theorem Core.setPostponed_poison (k v : Nat) : (c.setPostponed k v).mem.poison = c.mem.poison := rfl
@[simp] theorem Core.begun_regs (o q r : Nat) : (c.begun o q r).regs = c.regs := rfl
@[simp] theorem Core.begun_posted (o q r : Nat) : (c.begun o q r).posted = c.posted := rfl
@[simp] theorem Core.begun_out (o q r : Nat) : (c.begun o q r).out = c.out := rfl
@[simp] theorem Core.begun_web (o q r : Nat) : (c.begun o q r).web = c.web := rfl
@[simp] theorem Core.begun_job (o q r : Nat) : (c.begun o q r).job = c.job := rfl
@[simp] theorem Core.begun_bars (o q r : Nat) : (c.begun o q r).bars = c.bars := rfl
@[simp] theorem Core.begun_heads (o q r : Nat) : (c.begun o q r).heads = c.heads := rfl
@[simp] theorem Core.begun_now (o q r : Nat) : (c.begun o q r).now = c.now := rfl
@[simp] theorem Core.begun_f (o q r : Nat) : (c.begun o q r).f x = c.f x := rfl
@[simp] theorem Core.begun_mem (o q r : Nat) : (c.begun o q r).mem = c.mem := rfl
@[simp] theorem Core.byReq_last (r : Nat) : (c.byReq r).mem.last = some (r, c.memClass r) := rfl
@[simp] theorem Core.setRaa_raaOf (k v : Nat) : (c.setRaa k v).raaOf k = v := Tab.get_set_same _ _ _ _
@[simp] theorem Core.setPostponed_postponed (k v : Nat) : (c.setPostponed k v).postponed k = v := Tab.get_set_same _ _ _ _

/-! ### The head boards -/

theorem State.board_setBoard (s : State) (v : Board) : (s.setBoard n v).board m = if m = n then v else s.board m :=
  Tab.get_set _ _ _ _ _
@[simp] theorem State.board_setBoard_same (s : State) (v : Board) : (s.setBoard n v).board n = v := Tab.get_set_same _ _ _ _
@[simp] theorem State.setBoard_core (s : State) (v : Board) : (s.setBoard n v).core = s.core := rfl
@[simp] theorem State.setBoard_out (s : State) (v : Board) : (s.setBoard n v).boards.out = s.boards.out := rfl
@[simp] theorem State.setBoard_boardRx (s : State) (v : Board) : (s.setBoard n v).boardRx m = s.boardRx m := rfl
@[simp] theorem State.setBoard_boardTx (s : State) (v : Board) : (s.setBoard n v).boardTx m = s.boardTx m := rfl

/-! ### The causes of a blank -/

@[simp] theorem Head.setCause_span (u : Head) (k : Nat) (on : Bool) : (u.setCause k on).span = u.span := by
  unfold Head.setCause; split <;> rfl
@[simp] theorem Head.setCause_wantDerate (u : Head) (k : Nat) (on : Bool) : (u.setCause k on).wantDerate = u.wantDerate := by
  unfold Head.setCause; split <;> rfl

/-! ### The flash -/

@[simp] theorem Core.setFw_fw (c : Core) (f : Fw) : (c.setFw f).ump.fw = f := rfl
@[simp] theorem Core.setFw_regs (c : Core) (f : Fw) : (c.setFw f).regs = c.regs := rfl
@[simp] theorem Core.setFw_setFw (c : Core) (f g : Fw) : (c.setFw f).setFw g = c.setFw g := rfl
@[simp] theorem Core.setFw_self (c : Core) : c.setFw c.ump.fw = c := rfl

/-- Erasing changes the flash and what its controller says, and nothing else. -/
theorem Core.flashErase_fw (c : Core) (a n : Nat) : c.flashErase a n = c.setFw (c.flashErase a n).ump.fw := rfl

/-- So does programming. -/
theorem Core.flashProgram_fw (c : Core) (a : Nat) (l : List Byte) :
    c.flashProgram a l = c.setFw (c.flashProgram a l).ump.fw := rfl

/-- So does a write of the boot table. -/
theorem Core.setBootTab_fw (c : Core) (t : BootTab) : c.setBootTab t = c.setFw (c.setBootTab t).ump.fw := rfl

/-- So does a write of an image's entry. -/
theorem Core.setFlash_fw (c : Core) (i : Nat) (e : FlashImg) : c.setFlash i e = c.setFw (c.setFlash i e).ump.fw := by
  unfold Core.setFlash
  split
  · exact Core.setBootTab_fw c _
  · exact Core.setBootTab_fw c _
  · rfl

/-- So does the write of a whole image. -/
theorem Core.flashStage_fw (c : Core) (i : Nat) (l : List Byte) : c.flashStage i l = c.setFw (c.flashStage i l).ump.fw := by
  have h (d e : Core) (he : d = c.setFw d.ump.fw) (hd : e = d.setFw e.ump.fw) : e = c.setFw e.ump.fw := by
    rw [he] at hd
    exact hd
  unfold Core.flashStage
  exact h _ _ (h _ _ (h _ _ (h c _ rfl rfl) (Core.flashErase_fw _ _ _)) (Core.flashProgram_fw _ _ _)) (Core.setFlash_fw _ _ _)

end Sys2Proof.Machine
end

