-- ==== Sys2Proof/Machine/PciCfg.lean ====
section
/-!
DEFINITION. What the configuration space of the PCIe function shows (spec/21_register_map.md R548, spec/13_host_and_command_protocol.md
R348). The offsets of the header's words are those of PCI (PRESUMED, log entry 75).
-/

namespace Sys2Proof.Machine

/-- A capability of the function (R548): Power Management with the states that it has besides D0; MSI-X with its vectors, and BAR and
offset of its table and of its pending bits; PCI Express, an endpoint; Advanced Error Reporting; the Device Serial Number. -/
inductive PciCap where
  | powerManagement (d3hot : Bool)
  | msix (vectors tableBar table pbaBar pba : Nat)
  | pciExpress (endpoint : Bool)
  | advancedErrors
  | serialNumber (v : Nat)
  deriving DecidableEq, Repr

/-- The capabilities, in the order of R548. -/
def Core.pciCaps (c : Core) : List PciCap :=
  [.powerManagement true, .msix 64 0 0x12000 0 0x13000, .pciExpress true, .advancedErrors, .serialNumber (c.n64 R.DEV_UID_LO)]

def pciVendor : Nat := 0x1F2C
def pciDevice : Nat := 0x2208
def pciClass : Nat := 0x118000
def pciSubVendor : Nat := 0x1F2C
def pciSubsystem : Nat := 0x0001

/-- The identity words of the header, at their offsets: IDs, revision and class code, subsystem. -/
def Core.pciWord (c : Core) (off : Nat) : Option Nat :=
  match off with
  | 0x00 => some (pciDevice * 2 ^ 16 + pciVendor)
  | 0x08 => some (pciClass * 2 ^ 8 + c.f F.DEV_IDENT_STEPPING)
  | 0x2C => some (pciSubsystem * 2 ^ 16 + pciSubVendor)
  | _ => none

end Sys2Proof.Machine
end

