-- ==== Sys2Proof/Safety.lean ====
section
/-!
DEFINITION. Safe runs: a step that answers a next state.
-/

namespace Sys2Proof

/-- The state takes a step that neither faults nor is refused. -/
def Runs (s : Machine.State) : Prop := ∃ t, Machine.step s = .next t

end Sys2Proof
end

