-- ==== Sys2Proof/Tests/Slice0.lean ====
section
/-!
SUPPORT. The model's own tests: the well-formedness smoke test, values that the spec states (its check values, its reset values
and single commands), and states that meet the hypotheses of statements in Certificates/Slice0/Obligations.lean.
-/

/- The kernel's evaluations run one after another: each that waits for another holds a thread and its stack. -/
set_option Elab.async false

namespace Sys2Proof.Tests

open Sys2Proof Sys2Proof.Machine

/-! ### Helpers -/

/-- The reset state with its core changed. -/
def core (f : Core → Core) : State := { State.reset with core := f State.reset.core }

/-- The reset state taken to a device state (R368), with its core changed. -/
def inState (st : Nat) (f : Core → Core) : State := core fun c => f (c.setF F.DEV_STATE_STATE st)

/-- A number read from the next state; none where there is none. -/
def after (o : Host.Outcome State Fault Refusal) (f : State → Nat) : Option Nat :=
  match o with
  | .next t => some (f t)
  | _ => none

/-- A packet with its parameter bytes. -/
def packet (n : Nat) : Packet := ⟨0, 0, 0, 0, 0, 0, List.replicate n 0, false⟩

/-! ### Well-formedness -/

theorem test_packet_wf : (packet 56).wf = true := by decide

theorem test_packet_short_refused : (packet 55).wf = false := by decide

/-! ### Values of the spec -/

/-- The check value of R134: CRC-32C of the bytes "123456789". -/
theorem test_crc32c : crc32c [0x31, 0x32, 0x33, 0x34, 0x35, 0x36, 0x37, 0x38, 0x39] = 0xE3069283 := by decide +kernel

/-- MULTIPLY with t = 0 leaves b unchanged (R116). -/
theorem test_multiply_keeps_b : blend 1 0 12345 255 0 = 12345 := by decide

/-- OVER with full coverage is the layer's tone, without coverage the value below (R116). -/
theorem test_over_ends : blend 0 40000 12345 255 0 = 40000 ∧ blend 0 40000 12345 0 0 = 12345 := by decide

/-- The nozzle entries at reset are 0xC000_0000 (R163). -/
theorem test_reset_nozzle : Tab.get nzReset State.reset.core.job.shadow.nz 7 = 0xC0000000#32 := by decide

/-- FIRE_WIDTH is 160 at reset and the watchdog's LIMIT 200, 8 µs (R85, R100). -/
theorem test_reset_fire : State.reset.core.f (F.FIRE_WIDTH_WIDTH 5) = 160 ∧ State.reset.core.wdLimit 5 = 8 * usec := by decide

/-! ### Single commands -/

/-- An access violation is counted once (R5). -/
theorem test_violation_counted :
    after (exec (.accessViolation .bar0 0x44 false) State.reset) (·.core.n R.DEV_VIOL_CNT) = some 1 := by decide

/-- An axis port enabled, at levels 00. -/
def axis : State := inState stIdle fun c => c.setB (F.ENC_CFG_EN 2) true

/-- A leads B: 00 to 10 counts up; B leads A: 00 to 01 counts down (R39). -/
theorem test_quadrature_signs :
    after (exec (.encCount 2 true false) axis) (fun t => ((t.core.enc 2).count + 5).toNat) = some 6 ∧
    after (exec (.encCount 2 false true) axis) (fun t => ((t.core.enc 2).count + 5).toNat) = some 4 := by
  decide +kernel

/-- A and B changing together count nothing but the illegal transition (R41). -/
theorem test_illegal_transition :
    after (exec (.encCount 2 true true) axis) (fun t => (t.core.enc 2).count.natAbs + 2 * t.core.n (R.ENC_ILLEGAL_CNT 2)) =
      some 2 := by decide

/-- Requests are counted up to 16 per line (R430). -/
theorem test_requests_saturate :
    after (exec (.dmaRequest 3) { State.reset with reqs := [(3, 16)] }) (fun t => Tab.get (fun _ => 0) t.reqs 3) = some 16 := by
  decide

/-- A write of DMA_SWREQ in BOOT reaches no block (R549). -/
theorem test_swreq_in_boot :
    after (exec (.dmaSwreqWrite 1) State.reset) (fun t => Tab.get (fun _ => 0) t.reqs 0) = some 0 := by decide

/-- TRST_N resets the TAP alone (R531). -/
theorem test_trst :
    after (exec .trstNReset { axis with tap := { instr := .clamp } })
      (fun t => b2n (t.tap.instr == .idcode) + 2 * b2n (t.core.regs == axis.core.regs)) = some 3 := by decide

/-- A step takes the front command alone and leaves the queue's rest. -/
theorem test_step_front :
    after (step { State.reset with pending := [.dmaRequest 3, .trstNReset] }) (fun t => t.pending.length) = some 1 := by decide

/-- The tick on an empty queue is 2.5 ns, two units of 1.25 ns (log entry 1). -/
theorem test_idle_tick : after (step State.reset) (·.core.now) = some 2 := by decide

/-- The identity that R548 gives the PCIe function. -/
theorem test_pciIdentity :
    let c := State.reset.core
    c.pciWord 0 = some 0x22081F2C ∧ (c.pciWord 8).map (· / 256) = some 0x118000 ∧ c.pciWord 0x2C = some 0x00011F2C ∧
      c.pciCaps.length = 5 ∧ c.pciCaps.contains (.serialNumber (c.n64 R.DEV_UID_LO)) = true := by decide +kernel

/-! ### States that meet the hypotheses of statements -/

/-- O1: a queue with a front. -/
theorem wit_stepRunsFront : ({ State.reset with pending := [.trstNReset] } : State).pending = .trstNReset :: [] := by decide

/-- O2: the tick of a device that is held, and of one that is not. -/
theorem wit_idleTick :
    (core fun c => { c with pwr := { c.pwr with held := 1 } }).core.pwr.held ≠ 0 ∧ State.reset.pending = [] ∧
      State.reset.core.pwr.held = 0 ∧ State.reset.core.fb F.CREW_STAT_FLYWHEEL = false ∧
      State.reset.core.fb F.LG_STAT_OWNER = false ∧ State.reset.core.mem.held = [] ∧
      (List.range 8).all (fun n => State.reset.leg.fifo n == []) = true := by decide

/-- O5: a state within the bounds, with a request made, a word in a FIFO and a board in MIRROR, whose step answers a next state. -/
theorem wit_bounded :
    let s : State := { State.reset with
      reqs := [(3, 2)], leg := { fifos := [(2, [7])] }, boards := { tab := [(5, { mode := 1 })] }, pending := [.lspFramingReset] }
    (∀ l, Tab.get (fun _ => 0) s.reqs l ≤ 16) ∧ Tab.wf (fun _ => 0) s.reqs ∧ (∀ n, (s.leg.fifo n).length ≤ 512) ∧
      Tab.wf (fun _ => []) s.leg.fifos ∧ (∀ g, (s.board g).mode ≤ 2) ∧ Tab.wf (fun _ => ({} : Board)) s.boards.tab ∧
      ∃ t, step s = .next t := by
  refine ⟨fun l => ?_, by decide, fun n => ?_, by decide, fun g => ?_, by decide, _, rfl⟩
  · simp only [Tab.get]; split <;> decide
  · simp only [LegPorts.fifo, Tab.get]; split <;> decide
  · simp only [State.board, Tab.get]; split <;> decide

/-- O6: a register that the host may write, from IDLE. -/
theorem wit_registerWritten :
    let c := (inState stIdle id).core
    c.pwr.held = 0 ∧ c.blockAnswers 0x40000 = true ∧
      ((List.range 64).any fun i => let o := 0x40000 + 4 * i
        (regRow o).any RegRow.writes && !isLo o && !isLo (o - 4)) = true := by decide

/-- O6: a _LO word and its _HI word in a block without effects of its own. -/
theorem wit_wideRegisterWritten :
    let c := (inState stIdle id).core
    c.pwr.held = 0 ∧ c.blockAnswers (R.NZ_TSET_BASE_LO 0) = true ∧ isLo (R.NZ_TSET_BASE_LO 0) = true := by decide

/-- O8: BOOT, not held, at reset. -/
theorem wit_bootBlocks : State.reset.core.st = stBoot ∧ State.reset.core.pwr.held = 0 := by decide

/-- O9: table windows with VIEW clear and set, and memory ready for an access of one burst through the aperture. -/
theorem wit_tablesReached :
    let c := (inState stIdle id).core
    let v := (inState stIdle fun c => c.setB F.NZ_CFG_VIEW true).core
    let m := (inState stIdle fun c => (c.setF F.MEM_STAT_INIT 2).setF F.MEM_SIZE_GIB 4).core
    c.st ≠ stBoot ∧ c.fb F.NZ_CFG_VIEW = false ∧ v.fb F.NZ_CFG_VIEW = true ∧
      (m.n64 R.HI_APERTURE_LO / 2 ^ 20 * 2 ^ 20) % 64 = 0 ∧ m.mayReach (m.n64 R.HI_APERTURE_LO / 2 ^ 20 * 2 ^ 20) 64 = true ∧
      (m.rd (m.n64 R.HI_APERTURE_LO / 2 ^ 20 * 2 ^ 20) 64).isSome = true := by decide +kernel

/-- O10: an axis port that counts up, down, or not at all. -/
theorem wit_encoderCounts :
    axis.core.encOn 2 = true ∧ (quad true false + 4 - quad (axis.core.enc 2).a (axis.core.enc 2).b) % 4 = 1 ∧
      (quad false true + 4 - quad (axis.core.enc 2).a (axis.core.enc 2).b) % 4 = 3 ∧
      (quad true true + 4 - quad (axis.core.enc 2).a (axis.core.enc 2).b) % 4 = 2 ∧ State.reset.core.encOn 2 = false := by decide

/-- O11: ENC0 counts for the web, nothing else hanging on it. -/
theorem wit_webFollowsSource :
    let c := (inState stIdle fun c => (c.setB (F.ENC_CFG_EN 0) true).setB F.WEB_CTRL_ENC1_TRACK_EN false).core
    c.encOn 0 = true ∧ (quad true false + 4 - quad (c.enc 0).a (c.enc 0).b) % 4 = 1 ∧ c.f F.WEB_SRC_ACTIVE = 0 ∧
      c.fb F.WEB_SRC_LOST = false ∧ c.fb F.CREW_STAT_FORMED = false ∧ c.fb F.WEB_CTRL_ENC1_TRACK_EN = false ∧
      c.web.switchBack = false ∧ (c.enc 0).lastCount = none ∧ c.web.pitch = 0 ∧
      (List.range 16).all (fun m => !c.fb (F.CMP_CFG_EN m) && (c.bar m).pend == []) = true := by decide +kernel

/-- O12: an index due: none seen before, an interval to check that is wrong, and one missing. -/
theorem wit_encoderFaults :
    let c := (inState stIdle fun c => ((((c.setB (F.ENC_CFG_EN 2) true).setB (F.ENC_CFG_Z_EN 2) true).setF (F.ENC_CFG_Z_GATE 2) 0).setN
      (R.ENC_INDEX_EXP 2) 5000).setF (F.ENC_CFG_MODE 2) 1).core
    let d := c.setEnc 2 { idxValid := true, sinceIdx := 9000, monotone := 7500 }
    c.encOn 2 = true ∧ c.fb (F.ENC_CFG_Z_EN 2) = true ∧ c.f (F.ENC_CFG_Z_GATE 2) = 0 ∧ (c.enc 2).idxValid = false ∧
      (d.enc 2).idxValid = true ∧ (d.enc 2).idxTurn = false ∧ d.n (R.ENC_INDEX_EXP 2) ≠ 0 ∧
      d.f (F.ENC_INDEX_TOL_TOL 2) < 4000 ∧ d.fb (F.ENC_CFG_IDX_FAULT 2) = false ∧ (d.enc 2).missed = false ∧
      3 * d.n (R.ENC_INDEX_EXP 2) ≤ 2 * (d.enc 2).monotone ∧ d.fb (F.ENC_STATUS_LOS 2) = false ∧
      d.f (F.ENC_CFG_MODE 2) = 1 ∧ d.fb (F.ENC_STATUS_AMP_FAULT 2) = false ∧
      0 < d.f (F.ENC_AMP_AMP_LO 2) ∧ (d.setB (F.ENC_STATUS_LOS 2) true).fb (F.ENC_STATUS_LOS 2) = true ∧
      (d.setB (F.ENC_STATUS_AMP_FAULT 2) true).fb (F.ENC_STATUS_AMP_FAULT 2) = true := by decide +kernel

/-- O14: ENC0 alone enabled, and a port whose last count lies back. -/
theorem wit_webStops :
    let c := (inState stPrinting fun c => { (c.setB (F.ENC_CFG_EN 0) true).setB (F.ENC_STATUS_STANDSTILL 0) false with now := 10 ^ 12 }).core
    let d := (c.setEnc 0 { lastCount := some 0, scale := 2 ^ 32 }).setN (R.ENC_SPEED 0) 100000
    c.f F.WEB_SRC_ACTIVE = 0 ∧ c.ownWeb = true ∧ c.fb F.WEB_SRC_LOST = false ∧ c.encOn 0 = true ∧
      c.fb (F.ENC_STATUS_LOS 0) = false ∧ c.fb (F.ENC_STATUS_FAULTED 0) = false ∧ c.web.tracking = false ∧ c.st ≠ stBoot ∧
      (d.enc 0).lastCount = some 0 ∧ 0 < d.now ∧ (d.enc 0).scale * 4 / (5 * 65536 * d.now) < (d.i (R.ENC_SPEED 0)).natAbs ∧
      max 10 (min 10000000 (d.f (F.ENC_STANDSTILL_TIMEOUT 0))) * usec ≤ d.now ∧
      d.fb (F.ENC_STATUS_STANDSTILL 0) = false ∧ d.isSource 0 = true := by decide +kernel

/-- O16: a full FIFO, a crossing predicted and due, and a pulse at its end. -/
theorem wit_compareChannels :
    let c := (inState stIdle fun c => c.setCmp 4 { queue := List.replicate 16 0, predicted := some 7, pulseEnd := 8 }).core
    let d := { c with now := 9 }
    c.f (F.CMP_CFG_SRC 4) ≠ 3 ∧ (c.setF (F.CMP_CFG_MODE 4) 2).f (F.CMP_CFG_MODE 4) = 2 ∧ 16 ≤ (c.cmp 4).queue.length ∧
      c.fb (F.CMP_CFG_EN 4) = false ∧ (d.cmp 4).predicted = some 7 ∧ 7 ≤ d.now ∧ d.f (F.CMP_CFG_MODE 4) = 0 ∧
      d.st ≠ stSafe ∧ d.muted = false ∧ d.fb (F.CMP_STATUS_ACTIVE 4) = false ∧
      (d.setB (F.CMP_STATUS_ACTIVE 4) true).fb (F.CMP_STATUS_ACTIVE 4) = true ∧ (d.cmp 4).pulseEnd ≤ d.now := by decide +kernel

/-- O20: trims that wait, and a spit with lines left and at its last, one of no lines, and one asked to stop. -/
theorem wit_trimsAndTests :
    let t : TestRun := { mode := 2, bars := 1, period := 1000, lines := 2, surf := 0, code := 3 }
    let c := (inState stService fun c => { c with groups := [(9, { want := [0, 4] })], test := some t }).core
    (c.group 9).want = 0 :: [4] ∧ c.bankFree 9 = true ∧ c.test = some t ∧ t.mode ≠ 1 ∧ t.next ≤ c.now ∧
      c.lg.spit = none ∧ t.stop = false ∧ t.lines ≠ 0 ∧ t.fired + 1 < t.lines ∧ t.lines ≤ { t with fired := 1 }.fired + 1 ∧
      c.muted = false ∧ c.pulseNear 0 = false ∧ { t with lines := 0 }.lines = 0 ∧
      { t with stop := true }.stop = true := by decide +kernel

/-- O13: ENC0 is the source at reset, and ENC1 has not faulted; the port enabled has its signal. -/
theorem wit_standbyLost :
    let c := (inState stIdle fun c => c.setB (F.ENC_CFG_EN 1) true).core
    c.f F.WEB_SRC_ACTIVE = 0 ∧ c.ownWeb = true ∧ c.fb (F.ENC_STATUS_FAULTED 1) = false ∧ c.encOn 1 = true ∧
      c.fb (F.ENC_STATUS_LOS 1) = false := by decide

/-- O15: an interval of 0 with a source whose scale is 1. -/
theorem wit_shortInterval :
    let c := (inState stIdle fun c => (c.setF (F.CMP_CFG_MODE 4) 1).each 4 fun n c => c.setEnc n { scale := 1 }).core
    c.pwr.held = 0 ∧ c.blockAnswers (R.CMP_TARGET_HI 4) = true ∧ c.f (F.CMP_CFG_MODE 4) = 1 ∧ c.f (F.CMP_CFG_SRC 4) ≠ 3 ∧
      c.n (R.CMP_INTERVAL 4) * 2 ^ 32 < 2 * (c.enc (c.cmpPort 4)).scale := by decide

/-- O18, O19: in PRINTING with an output active for its limit. -/
theorem wit_watchdog :
    let c := (inState stPrinting fun c => { c.setBar 3 { active := true } with now := 6400 }).core
    [stArmed, stPrinting, stHold, stReplay].contains c.devState = true ∧ (c.bar 3).active = true ∧
      (c.bar 3).activeSince + c.wdLimit 3 ≤ c.now ∧ c.blockAnswers (R.FIRE_WD 3) = true := by decide

/-- O17: a line whose edge is due while the watchdog is not latched. -/
theorem wit_fireEdges :
    let p : PendLine := { line := 5, s := 9, x := 0, pred := some 7 }
    let c := (inState stPrinting fun c =>
      { c.setBar 3 { pend := [p], fresh := true } with now := 8, job := { c.job with tof := true } }).core
    (c.bar 3).pend = [p] ∧ c.printing = true ∧ c.latched 3 = false ∧ c.muted = false ∧ (c.bar 3).fresh = true := by decide

/-- O21: nib 16 is a hot spare at reset (R208), and a spare starting for slice 4. -/
theorem wit_sparesUsed :
    State.reset.core.nibState 16 = 0 ∧
      let c := (core fun c => { c with ump := { c.ump with starting := [(16, 4, 2)] } }).core
      c.ump.starting.find? (fun x => x.1 = 16) = some (16, 4, 2) := by decide

/-- O23: the active cox fails with no standby ready, and with one, which finds a command begun and not effected. -/
theorem wit_coxSwitchOver :
    let j : JEntry := { sq := 2, seq := 7, op := 0x30, effected := false, reply := [], posted := false }
    let e := (inState stReady fun c => { c.setB F.COX_EPOCH_SWITCHING true with hi := { c.hi with journal := [j] } }).core
    let c := (inState stIdle fun c => c.setB F.UMP_STAT_STBY_READY true).core
    let d := (inState stIdle fun c => c.setB F.UMP_STAT_STBY_READY false).core
    let k : Core := { c with now := msec, ump := { c.ump with nibImage := true } }
    k.ump.nibImage = true ∧ k.ump.ckptAt + msec ≤ k.now ∧ c.now < c.ump.ckptAt + msec ∧ c.st ≠ stBoot ∧ c.fb F.UMP_STAT_STBY_READY = true ∧ c.fb F.COX_EPOCH_SWITCHING = false ∧
      d.fb F.UMP_STAT_STBY_READY = false ∧ e.fb F.COX_EPOCH_SWITCHING = true ∧ e.ump.drain = none ∧ e.ump.planned = false ∧
      (e.hi.journal.filter fun j => !j.effected) = [j] ∧ j.sq < 8 := by decide

/-- O26: a live port without a frame, running free and triggered in its window; then with a frame open. -/
theorem wit_cameraFrames :
    let c := (inState stIdle fun c => c.setB (F.CAM_CFG_EN 1) true).core
    let d := (c.setB (F.CAM_CFG_TRIGGERED 1) true)
    c.camLive 1 = true ∧ (c.cam 1).opened = none ∧ c.fb (F.CAM_CFG_TRIGGERED 1) = false ∧
      d.fb (F.CAM_CFG_TRIGGERED 1) = true ∧ (c.cam 1).closed = [] := by decide +kernel

/-- O28: an input that converts, a head silent beyond QL_TEMP_TO, and values off their medians for 2 s and within for 10 s. -/
theorem wit_temperatures :
    let c := (inState stIdle fun c => { (c.setB (F.TS_CFG_EN 2) true).setB (F.HH_THETA_STALE 5) false with now := 20 * sec }).core
    let d := (c.setHead 5 { delivered := some 0 })
    c.fb (F.TS_CFG_EN 2) = true ∧ Tab.get (fun _ => 0) c.ticks.inputs 2 ≤ c.now ∧ d.tsOf 5 = none ∧ (d.head 5).delivered = some 0 ∧
      d.f F.QL_TEMP_TO_TO * usec ≤ d.now ∧ d.fb (F.HH_THETA_STALE 5) = false := by decide +kernel

/-- Heads 4, 5 and 6 of one bar, of which 4 and 6 are at 20 degrees, and inputs 2, 3 and 4, of which 3 and 4 are: head 5 and input 2
are at `t` 64ths of a degree, off their neighbours and within since `from_`. -/
def neighbours (t : Int) (from_ : Nat) : Core :=
  let run (k : Nat) : MapRun := { start := k, cstep2 := false, count := 0, idir := false, hg := 0, iStart := 0, head := k, rsv := false }
  let g : Gen := { tabs := { map := [run 4, run 5, run 6] } }
  let c := (inState stIdle fun c => { (c.setB F.HH_CFG_NBR_EN true).setN (R.TS_NBR 2) 0x1413 with
    now := 20 * sec, job := { c.job with force := g } }).core
  let c := [4, 6].foldl (fun c h => (c.setHead h { own := 1280 }).setB (F.HH_THETA_STALE h) false) c
  let c := [3, 4].foldl (fun c n => c.setTs n { own := 1280, validAt := some c.now }) c
  let since := (some from_, some from_)
  ((c.setHead 5 { own := t, devFrom := since.1, okFrom := since.2 }).setTs 2 { own := t, devFrom := since.1, okFrom := since.2 })

/-- O28: values off their medians for 2 s, and SUSPECT ones within for 10 s, of a head and of an input. -/
theorem wit_suspects :
    let c := neighbours 6400 (18 * sec)
    let d := (neighbours 1280 (10 * sec)).setB (F.HH_THETA_SUSPECT 5) true |>.setB (F.TS_STAT_SUSPECT 2) true
    ((c.nbrCheck 5).head 5).devFrom = some (18 * sec) ∧ 18 * sec + 2 * sec ≤ c.now ∧ c.fb (F.HH_THETA_SUSPECT 5) = false ∧
      ((d.nbrCheck 5).head 5).okFrom = some (10 * sec) ∧ 10 * sec + 10 * sec ≤ d.now ∧ d.fb (F.HH_THETA_SUSPECT 5) = true ∧
      ((c.tsCheck 2).tsIn 2).devFrom = some (18 * sec) ∧ c.fb (F.TS_STAT_SUSPECT 2) = false ∧
      ((d.tsCheck 2).tsIn 2).okFrom = some (10 * sec) ∧ d.fb (F.TS_STAT_SUSPECT 2) = true := by decide +kernel

/-- O29: a head whose value was held for 1 s while PRINTING, a WARM one that has cooled, and no job (R178). -/
theorem wit_headsKept :
    let c := (inState stPrinting fun c => { (c.setHead 5 { heldFrom := some 0, coolFrom := some 0 }).setB (F.HH_THETA_WARM 5) true
      with now := sec }).core
    c.st = stPrinting ∧ (c.head 5).heldFrom = some 0 ∧ sec ≤ c.now ∧ (c.head 5).blankTemp = false ∧
      (c.head 5).span = none ∧ c.fb (F.HH_THETA_WARM 5) = true ∧ (c.head 5).coolFrom = some 0 ∧ c.job.tof = false ∧
      c.ticks.limit ≤ c.now ∧ c.ticks.temp ≤ c.now ∧ c.now < { c.ticks with limit := sec + 1 }.limit := by decide +kernel

/-- A clean codeword that holds marker 13 of lane 7, sent upstream, in slot 75 and zeros in most of its rest (R269, R270). -/
def marked : List (BitVec 10) := (List.replicate 462 0 ++
  [896, 1, 0, 0, 960, 0, 480, 0, 480, 0, 0, 0, 136, 30, 120, 0, 68, 15, 542, 999, 353, 171, 485, 300, 240, 570, 7] ++
  List.replicate 25 0 ++ [697, 686, 361, 366, 150, 345, 487, 397, 811, 156, 440, 518, 750, 385]).map (BitVec.ofNat 10)

/-- O30: the third good marker of a receiver out of lock, which a receiver in lock keeps, and the third missing marker of one
in lock. -/
theorem wit_upstreamReceiver :
    let w := (List.range 528).map fun i => (marked.getD i 0).toNat
    let u : LaneRx := { pos := some 4800, amRun := 2 }
    let v : LaneRx := { pos := some 4800, lock := true, missRun := 2 }
    let o := u.decode 7 true w
    u.lock = false ∧ 2 ≤ u.amRun ∧ o.am = some true ∧ o.cw ≠ .uncorrectable ∧ v.lock = true ∧ 2 ≤ v.missRun ∧
      (v.decode 7 true (List.replicate 528 0)).am = some false ∧ (State.reset.boardTx 7).since < 3 ∧ (State.reset.board 7).loop ≠ 3 ∧
      3 ≤ (({ State.reset with boards := { tx := [(7, { since := 3 })] } } : State).boardTx 7).since := by decide +kernel

/-- O31: a lane in DETECT, in TRAIN, in LOCK, in DOWN, in FAILED and in TEST. -/
theorem wit_lanes :
    let c (st : Nat) := (inState stIdle fun c => { (c.setF (F.QLN_STATE_STATE 7) st).setLane 7 { uncAt := [0] } with now := sec }).core
    (c 1).f (F.QLN_STATE_STATE 7) = 1 ∧ (c 2).f (F.QLN_STATE_STATE 7) = 2 ∧ (c 3).f (F.QLN_STATE_STATE 7) = 3 ∧
      (c 5).f (F.QLN_STATE_STATE 7) = 5 ∧ (c 6).f (F.QLN_STATE_STATE 7) = 6 ∧ (c 4).laneActive 7 = true ∧
      (c 7).f (F.QLN_STATE_STATE 7) = 7 ∧ (c 0).laneIdle 7 = true ∧ ((c 1).lane 7).since + 20 * msec ≤ (c 1).now ∧
      max ((c 3).lane 7).since (((c 3).lane 7).uncAt.headD 0) + msec ≤ (c 3).now ∧
      (c 1).fb (F.QLN_CFG_EN 7) = false ∧ (c 1).blockAnswers (R.QLN_CFG 7) = true ∧
      (((c 1).lane 7).uncAt.filter fun t => decide ((c 1).now < t + sec)).length < (c 1).f F.QL_FEC_LIMIT_LIMIT := by
  decide +kernel

/-- O32: a LOOP, a SELECT and a REC_WRITE that await their ACKs on an ACTIVE lane, and a message sent eight times; a LINK with its
primary input in lock. -/
theorem wit_boardsSaid :
    let u : Lane := { mgmt := [{ op := 5, arg := 0 }, { op := 4, arg := 7 * 2 ^ 42 }, { op := 6, arg := 5 * 2 ^ 38 },
      { op := 2, arg := 0, tries := 8 }] }
    let c := (inState stIdle fun c => ((c.setF (F.QLN_STATE_STATE 7) 4).setLane 7 u).setHead 5 { writing := some [1] }).core
    let link := 2 ^ 39 + 2 ^ 38
    (c.lane 7).mgmt.find? (fun m => m.op = 5) = some { op := 5, arg := 0 } ∧ c.laneActive 7 = true ∧
      (c.lane 7).mgmt.find? (fun m => m.op = 4) = some { op := 4, arg := 7 * 2 ^ 42 } ∧
      (c.lane 7).mgmt.find? (fun m => m.op = 6) = some { op := 6, arg := 5 * 2 ^ 38 } ∧ (c.head 5).writing = some [1] ∧
      (c.lane 7).mgmt.find? (fun m => m.op = 1) = none ∧ bit link 38 = true ∧ bits link 30 8 = 0 ∧ bit link 39 = true ∧
      ((c.lane 7).mgmt.any fun m => decide (8 ≤ m.tries)) = true ∧ c.pairBit R.QL_MIRRONLY_LO 7 = false ∧
      c.replay = false ∧ c.tsOf 5 = none ∧ c.dramTop < 0 + [(1 : Byte)].length ∧ (c.head 5).valid = false ∧
      (let d := c.setHead 5 { valid := true, uid := 3 }; (d.head 5).valid = true ∧ (d.head 5).uid = 3) := by decide +kernel

/-- O33, O34, O35: a board with a line that awaits its edge, in each mode; at reset none waits and no request was made. -/
theorem wit_boards :
    let l : BoardLine := { s16 := 9, recip := 0, p := true }
    let s (m : Nat) : State := { State.reset with boards := { tab := [(7, { mode := m, await := some l, delivered := true, recv := [l] })] } }
    ((s 0).board 7).await = some l ∧ ((s 0).board 7).badLoad = [] ∧ ((s 0).board 7).delivered = true ∧ ((s 0).board 7).mode = 0 ∧
      ((s 2).board 7).mode = 2 ∧ ((s 0).board 7).recv = [l] ∧ (State.reset.board 7).await = none ∧
      (State.reset.board 7).delivered = false ∧ (State.reset.board 7).tapAt = none := by decide

/-- O35: inputs out of lock for 1 µs and in lock for 1 ms, or not; a MODE of R278 and one that it does not list. -/
theorem wit_boardInputs :
    let s (lock : Bool) (now : Nat) : State := { core (fun c => { c with now := now }) with boards := { rx := [(7, { lock := lock })] } }
    (s false usec).inputHeld 7 false usec = true ∧ (s true usec).inputHeld 7 false usec = false ∧
      (s true msec).inputHeld 7 true msec = true ∧ (s true usec).inputHeld 7 true msec = false ∧ bits (2 ^ 40) 40 2 ≤ 1 ∧
      1 < bits (2 ^ 41) 40 2 := by decide

/-- O36: 4 GiB of memory with a byte in it, ranks that serve, and refreshes postponed or not. -/
theorem wit_memoryUsed :
    let c := (inState stIdle fun c => ((c.setF F.MEM_STAT_INIT 2).setF F.MEM_SIZE_GIB 4).setF (F.MEMR_STAT_STATE 0) 1).core
    (c.rd 64 4).isSome = true ∧ 64 + 4 ≤ c.dramTop ∧ c.logging = false ∧ c.dramTop < 2 ^ 38 + 4 ∧ c.rankState 0 = 1 ∧
      Tab.get (fun _ => 0) c.mem.postponed 0 < 3 ∧
      3 ≤ Tab.get (fun _ => 0) { c.mem with postponed := [(0, 3)] }.postponed 0 ∧ c.mem.held = [] ∧ c.selfRefresh = false ∧
      Tab.get (fun _ => 0) c.mem.refAt 0 ≤ c.now ∧ c.mem.mr4At ≤ c.now ∧ c.scrubDue 0 = true ∧ c.mem.todo = [] ∧
      c.inSlice 0 = false ∧ c.bgMay 0 = true ∧ c.bgHeld 0 0 = false := by decide +kernel

/-- O36: an access that goes on, and one that waits for a refresh of its bank; work of the memory that is not due. -/
theorem wit_memoryWaits :
    let w : MemAccess := { req := 1, pa := 64, n := 4 }
    let c := (inState stIdle fun c => { ((c.setF F.MEM_STAT_INIT 2).setF F.MEM_SIZE_GIB 4).setF (F.MEMR_STAT_STATE 0) 1 with
      mem := { c.mem with mr4At := 9, refAt := [(0, 9)], scrubAt := [(0, 9)] } }).core
    let d := { c with mem := { c.mem with busy := [(0, 9), (1, 9), (2, 9), (3, 9)] } }
    c.mem.held = [] ∧ c.releaseHeld.mem = c.mem ∧ c.accessWaits w = false ∧ d.accessWaits w = true ∧ bursts 64 4 ≠ [] ∧
      d.accessGoes w d.mem.held = 0 ∧ c.dramTop - 4 < c.dramTop ∧ c.dramTop < c.dramTop - 4 + 64 ∧
      c.accessWaits { w with pa := c.dramTop - 64, n := 100 } = false ∧ c.accessWaits { w with pa := c.dramTop } = false ∧ c.now < c.mem.mr4At ∧
      c.now < Tab.get (fun _ => 0) c.mem.refAt 0 ∧ c.scrubDue 0 = false ∧ State.reset.core.selfRefresh = true := by decide +kernel

/-- O37: a migration whose next block is due; a rank in service whose drift is checked, whose retraining waits and whose is
running. -/
theorem wit_ranksWork :
    let m : Mig := { rank := 0, spare := 3, ptr := 0 }
    let c := (inState stIdle fun c => { ((((c.setF F.MEM_STAT_INIT 2).setF F.MEM_SIZE_GIB 4).setF (F.MEMR_STAT_STATE 0) 1).setF
      (F.MEMR_STAT_STATE 8) 1).setN R.MEM_DRIFT 100 with mem := { c.mem with migs := [m] } }).core
    let d (v : Retrain) : Core := { c with mem := { c.mem with migs := [], retrain := [(0, v)], cfg := [(R.MEM_MIR_SIZE, 1)] } }
    c.mem.migs.find? (fun m => m.rank / 4 = 0) = some m ∧ c.bgMay 0 = true ∧ c.memPa 0 < c.mirTop + 2 ^ 40 ∧
      c.bgMay (c.partnerRank 0 / 4) = true ∧ { c with mem := { c.mem with bgAt := [(0, 9)] } }.bgMay 0 = false ∧
      (m.ptr + 1) * 4096 < memRankBytes c.mem.cfg ∧ m.spare < 16 ∧ m.spare ≠ m.rank ∧ c.rankState 0 = 1 ∧
      c.selfRefresh = false ∧ Tab.get (fun _ => 0) c.mem.driftAt 0 ≤ c.now ∧ (d { waiting := true }).mayRetrain 0 = true ∧
      ((d { waiting := true }).retrainOf 0).waiting = true ∧ ((d { running := true }).retrainOf 0).running = true ∧
      ((d { running := true }).retrainOf 0).lastSlice = none ∧ c.mayRetrain 0 = false := by decide +kernel

/-- O37: a rank under test, a training under way, and a retraining that waits. -/
theorem wit_ranksServed :
    let a : Async := { op := 0x70, sq := 1, seq := 2 }
    let c := (inState stIdle fun c => { c.setF (F.MEMR_STAT_STATE 6) 6 with
      mem := { c.mem with testing := [6] }, hi := { c.hi with async := [a] } }).core
    c.mem.testing.contains 6 = true ∧ c.rankState 6 = 6 ∧ c.asyncOf 0x70 = some a ∧
      c.blockAnswers R.MEM_LOOP = true ∧ c.pwr.held = 0 := by decide +kernel

/-- O38: queues not enabled and enabled, and doorbells in and out of range. -/
theorem wit_queuesServed :
    let c := (inState stIdle fun c => (c.setB (F.CQ_CFG_EN 1) true).setF (F.SQ_CFG_SIZE_M1 2) 15).core
    c.fb (F.SQ_CFG_EN 2) = false ∧ c.fb (F.CQ_CFG_EN 1) = true ∧ c.fb (F.CQ_CFG_EN 3) = false ∧
      (c.setB (F.SQ_CFG_EN 2) true).fb (F.SQ_CFG_EN 2) = true ∧ 5 < c.sqSize 2 ∧ c.sqSize 2 ≤ 4095 ∧
      (c.cq 1).held = [] ∧ c.blockAnswers (R.SQ_TAIL 2) = true ∧ c.blockAnswers R.EV_HEAD = true := by decide +kernel

/-- O39: an enabled queue whose turn it is, with a NOP as its packet (R355: the length in byte 5). -/
theorem wit_hostServed :
    let s := inState stIdle fun c =>
      let c := ((c.setB (F.CQ_CFG_EN 0) true).setB (F.SQ_CFG_EN 0) true).setF (F.SQ_CFG_SIZE_M1 0) 15
      (c.setSq 0 { tail := 1 }).wrHost 0 [0, 0, 0, 0, BitVec.ofNat 8 (c.f F.COX_EPOCH_EPOCH), 8]
    let c := s.core
    let l := c.rdHost (c.n64 (R.SQ_BASE_LO 0) + 64 * c.f (F.SQ_HEAD_HEAD 0)) 64
    let d := c.setCq 0 { held := [([], false)] }
    s.reqs = [] ∧ c.pwr.held = 0 ∧ c.coxRuns = true ∧ c.nextSq = some 0 ∧ le l 0 1 = 0 ∧
      c.header 0 (packetOf (Fin.ofNat 8 0) l) = none ∧ c.mayStart (le l 1 1) = true ∧ d.mayStart 1 = false ∧
      c.vecMasked 5 = true ∧ (c.setN (R.MSIX_CTRL 5) 0).vecMasked 5 = false := by decide +kernel

/-- O40: a NOP of the kind that the cox accepts. -/
theorem wit_accepted :
    let c := (inState stIdle id).core
    let p : Packet := { packet 56 with plen := 8, epoch := BitVec.ofNat 8 (c.f F.COX_EPOCH_EPOCH) }
    c.mayStart p.flags.toNat = true ∧ c.refusal 0x00 p = none := by decide +kernel

/-! #### Units -/

/-- O22: an ink-line under way in a slice that is one column wide, of a line that ink 0 prints; and a nib at the last ink-line of an
audit. -/
theorem wit_inkLineStored :
    let g : Gen := { regs := Tab.set regReset [] R.JOB_CFG 0x100 }
    let c := (inState stPrinting fun c => (({ c with job := { c.job with tof := true, force := g } }).setNib 0
      { cur := some (5, 0, 0) }).setNib 1 { aud := some 6 }).core
    let a : Audit := { stroke := 6, slice := 0, nib := 0, auditor := 1, third := 2, left := 1 }
    let d : Core := { c with ump := { c.ump with audits := [a] } }
    c.nibState 0 = 2 ∧ (c.nib 0).aud = none ∧ (c.nib 0).cur = some (5, 0, 0) ∧ c.lineDue 5 0 = some 5 ∧
      d.nibState 1 = 2 ∧ (d.nib 1).aud = some 6 ∧ d.ump.audits.find? (fun a => a.worker == 1 && a.stroke == 6) = some a ∧
      a.left ≤ 1 ∧ a.majority = false ∧ a.nib < 18 := by decide +kernel

/-- The balls that R560 and R561 work out: MC2_B_DQS3_C is AL47, FIRE5N J32 and ENC2 ZP M22. -/
theorem test_balls :
    ballName 30 47 = "AL47" ∧ ballAt 30 47 = .ddr 2 true (.dqsC 3) ∧ ballName 9 32 = "J32" ∧ ballAt 9 32 = .fire 5 false ∧
      ballName 12 22 = "M22" ∧ ballAt 12 22 = .enc 2 2 true := by decide +kernel

/-- The balls of each supply outside the DDR5 blocks and in them, as R562 counts them. -/
theorem test_supplies :
    let count (v : Supply) := ((List.range 54).map fun r => (List.range 54).countP fun k => ballAt (r + 1) (k + 1) == .supply v).sum
    [count .vdd, count .vddq, count .vddaSer, count .vddhSer, count .vddio18, count .vdda33, count .vddu] =
      [197, 168, 32 + 9, 32, 18, 6, 3] := by decide +kernel

/-- O24: a standby that is tested, a masked lane, an oscillator that is off, and returns under way. -/
theorem wit_umpireWorks :
    let c := (inState stIdle fun c => { (c.setB F.UMP_STAT_STBY_READY true).setF F.UMP_CFG_STBY_TEST 1 with
      ump := { c.ump with returning := [(0, 16), (1, 1)], nibImage := true, fwTodo := [0, 1] },
      hi := { c.hi with async := [{ op := 0x04, sq := 1, seq := 2, a := 0, b := 256 }] }, now := 60 * sec }).core
    let d := ((c.setF F.MEM_STAT_INIT 2).setF F.MEM_SIZE_GIB 4).setF F.UMP_FW_STAT_STATE 1
    c.f F.UMP_CFG_STBY_TEST ≠ 0 ∧ c.ticks.stby + c.f F.UMP_CFG_STBY_TEST * 60 * sec ≤ c.now ∧ c.ticks.osc ≤ c.now ∧
      c.st ≠ stSafe ∧ c.pwr.held = 0 ∧ { c with now := sec }.now < c.ticks.stby + c.f F.UMP_CFG_STBY_TEST * 60 * sec ∧ c.fb F.UMP_STAT_STBY_READY = true ∧ c.fb F.COX_EPOCH_SWITCHING = false ∧ c.ump.tmr = none ∧
      { c.ump with tmr := some 1 }.tmr = some 1 ∧ c.st ≠ stBoot ∧ c.fb F.UMP_STAT_OSC_FAULT = false ∧
      c.ump.returning.contains (0, 16) = true ∧ c.ump.returning.contains (1, 1) = true ∧
      d.asyncOf 0x04 = some { op := 0x04, sq := 1, seq := 2, a := 0, b := 256 } ∧ (d.rd 0 256).isSome = true ∧
      d.mayReach 0 256 = true ∧ c.mayReach 0 256 = false ∧
      d.f F.UMP_FW_STAT_STATE = 1 ∧ d.ump.fwTodo = 0 :: [1] ∧ (List.range 18).find? (fun m => d.nibState m = 0) = some 16 ∧
      d.ump.fwHand = none ∧ d.printing = false ∧ d.places 0 = 0 ∧ (c.setF (F.NIBN_STAT_STATE 16) 1).nibState 16 = 1 ∧
      { d.setF F.DEV_STATE_STATE stPrinting with job := { d.job with tof := true } }.printing = true := by
  decide +kernel

/-- A frame of one line of two pixels. -/
def frame : CamFrame :=
  { fn := 0, sof := 0, start := 0, trig := 0, mid := 0, pos := 0, axis := 0, expset := 0, state := 0, width := 2, height := 1
    rx := 1, lines := [[0, 0]] }

/-- O25: a frame in the feed of an enabled camera, usable or not, and one that is too much for its engine; a dwell, and a head and a
bin older than PF_STALE_LEN. -/
theorem wit_proofWorks :
    let f := frame
    let c := (inState stPrinting fun c => { (((c.setB F.PF_CFG_EN true).setB (F.PF_CAM_CFG_EN 1) true).setB
      (F.PF_CAM_CFG_TYPE 1) true).setCam 1 { feed := [f] } with pf := { c.pf with dwell := [(1, [99])], travel := 2 ^ 80 } }).core
    (c.cam 1).feed = [f] ∧ c.fb F.PF_CFG_EN = true ∧ c.fb (F.PF_CAM_CFG_EN 1) = true ∧ c.replay = false ∧ c.st = stPrinting ∧
      f.flags % 16 = 0 ∧ f.state % 4 = 0 ∧ ((c.engLoad 0).map (·.2)).sum + f.width * f.height ≤ 400000000 ∧
      400000000 < { f with width := 400000001 }.width * f.height ∧ { f with noFs := true }.flags % 16 ≠ 0 ∧
      c.inRing 1 f = true ∧ c.ringFail 1 f = none ∧ (c.corrAt 1 f none (c.corrPeak 1 f none)).value < 256 * c.f (F.PF_CAM_CFG_MINCORR 1) ∧
      (let z := c.setF (F.PF_CAM_CFG_MINCORR 1) 0
       256 * (z.f (F.PF_CAM_CFG_MINCORR 1) : Int) ≤ (z.corrAt 1 f none (z.corrPeak 1 f none)).value) ∧
      c.fb (F.PF_CAM_CFG_TYPE 1) = true ∧ c.dwells 1 99 = true ∧ c.inWindow 1 99 = false ∧ c.dwells 1 4 = false ∧ bit (c.n (R.PF_STALE 0)) 5 = false ∧
      c.f F.PF_STALE_LEN_LEN ≤ c.ageM (Tab.get (fun _ => 0) c.pf.ages 5) ∧
      Tab.get (fun _ => false) c.pf.binStale 9 = false := by decide +kernel

/-- O27: a trigger that waits past its window, a frame closed, and a select with a write. -/
theorem wit_cameraAfterwork :
    let t : CamTrig := { fn := 3, pos := 0, speed := 0, axisPos := 0, axisSpeed := 0, t32 := 0, taken := 0 }
    let c := (inState stIdle fun c => { (c.setF (F.CAM_TRIG_WIN_WIN 1) 1).setCam 1
      { trigs := [t], closed := [frame], selects := [2], sets := [(2, { expNs := 1, writes := [(7, 8)] })] } with now := sec }).core
    (c.cam 1).trigs = t :: [] ∧ t.taken + c.f (F.CAM_TRIG_WIN_WIN 1) * usec < c.now ∧ (c.cam 1).closed = frame :: [] ∧
      (c.cam 1).selects = 2 :: [] ∧ ((c.cam 1).set 2).writes[0]? = some (7, 8) := by decide +kernel

/-! #### Commands -/

/-- A command with its parameter bytes, of the epoch in force, is accepted by the cox: the hypothesis `Accepts` of O40 to O46. -/
def accepted (c : Core) (op : Nat) (par : List Byte) : Bool :=
  let len := ((opRow op).getD (0, 0)).1
  let p : Packet := { packet 0 with plen := BitVec.ofNat 8 len, epoch := BitVec.ofNat 8 (c.f F.COX_EPOCH_EPOCH), par := par ++ List.replicate (56 - par.length) 0 }
  c.mayStart 0 && (c.refusal op p).isNone

/-- O40 to O46, O50, O52, O55: commands accepted in IDLE. -/
theorem wit_acceptedIdle :
    [0x00, 0x01, 0x02, 0x04, 0x05, 0x10, 0x11, 0x12, 0x20, 0x22, 0x23, 0x24, 0x30, 0x40, 0x41, 0x46, 0x47, 0x48, 0x49, 0x50, 0x51,
      0x60, 0x61, 0x62, 0x63, 0x64, 0x70, 0x71, 0x72, 0x73, 0x74, 0x75, 0x80, 0x81, 0x90, 0x91, 0x92, 0x94, 0xA0, 0xA1, 0xA2, 0xB0,
      0xB1, 0xF0, 0xF1, 0xF2].all (fun op => accepted (inState stIdle id).core op []) = true := by decide +kernel

/-- O40 to O43, O55: commands accepted in the other states. -/
theorem wit_acceptedElse :
    accepted (inState stReady id).core 0x21 [] = true ∧ accepted (inState stReady id).core 0x25 [] = true ∧
      accepted (inState stReady id).core 0x31 [] = true ∧ accepted (inState stArmed id).core 0x32 [] = true ∧
      accepted (inState stArmed id).core 0x33 [] = true ∧ [stArmed, stPrinting, stHold].all (fun st =>
        accepted (inState st id).core 0x34 []) = true ∧
      [0x42, 0x43, 0x44, 0x45].all (fun op => accepted (inState stService id).core op []) = true ∧
      accepted (inState stSafe id).core 0x03 [] = true ∧
      accepted (inState stReplay fun c => { c with log := { c.log with replay := true } }).core 0x93 [] = true := by decide +kernel

/-- O40: FW_STAGE of one burst, an update with a spare and a standby, and SAFE with its cause cleared or not. -/
theorem wit_deviceCommands :
    let c := (inState stIdle fun c => { ((c.setF F.MEM_STAT_INIT 2).setF F.MEM_SIZE_GIB 4).setB F.UMP_STAT_STBY_READY true with
      ump := { c.ump with fw := { c.ump.fw with staged := some (1, 2) } } }).core
    c.asyncOf 0x04 = none ∧ c.mayReach 0 64 = true ∧ (c.setF F.NIB_STAT_SPARES 2).f F.NIB_STAT_SPARES ≠ 0 ∧ c.fb F.UMP_STAT_STBY_READY = true ∧
      c.asyncOf 0x05 = none ∧ c.ump.fw.staged = some (1, 2) ∧ c.st ≠ stArmed ∧ c.running = false ∧ c.asyncOf 0xA1 = none ∧
      c.f F.UMP_FW_STAT_STATE ≠ 2 ∧ (inState stSafe fun c => c.setF F.UMP_STAT_SAFE_CAUSE 7).core.safeCleared = true ∧
      (inState stSafe id).core.safeCleared = false := by decide +kernel

/-- O41: a screen of 8 x 8, a run of the head map, and a surface registered, being read and resident. -/
theorem wit_contentCommands :
    let c := (inState stIdle fun c => ((c.setF F.MEM_STAT_INIT 2).setF F.MEM_SIZE_GIB 4).setSurf 5 { state := 1 }).core
    let d := { c.setSurf 5 { state := 1, digesting := true } with
      hi := { c.hi with async := [{ op := 0x23, sq := 0, seq := 0, a := 5 }, { op := 0x12, sq := 0, seq := 0 }] } }
    c.mayReach 0 82720 = true ∧ c.mayReach (2 ^ 40) 82720 = false ∧ 2 ^ 40 % 64 = 0 ∧ c.mayReach 0 (8 * 8 * 2) = true ∧ c.mayReach 0 16 = true ∧ (c.rd 0 16).isSome = true ∧
      c.asyncOf 0x12 = none ∧ (c.surf 5).digesting = false ∧ (c.surf 5).state = 1 ∧ (c.surf 5).tiled = false ∧
      d.hi.async.find? (fun a => a.op = 0x23 ∧ a.a = 5) = some { op := 0x23, sq := 0, seq := 0, a := 5 } ∧
      (d.surfBytes (d.surf 5)).2.isSome = true ∧ d.asyncOf 0x12 = some { op := 0x12, sq := 0, seq := 0 } ∧
      c.surfNamed 5 = false := by decide +kernel

/-- O42: a job with a pitch, and a COMMIT judged DONE. -/
theorem wit_jobCommands :
    let g : Gen := { regs := Tab.set regReset [] R.WEB_PITCH_LO 42333 }
    let c := (inState stReady fun c => { c with job := { c.job with isOpen := true, committed := true, gens := [g] } }).core
    c.formed = false ∧ c.job.aborting = false ∧ { c with job := { c.job with aborting := true } }.job.aborting = true ∧
      c.job.committed = true ∧ c.newest.n64 R.WEB_PITCH_LO ≠ 0 ∧
      ((inState stIdle id).core.commitJudge (inState stIdle id).core.shadowGen 0 0 0 false).1 = rDone := by decide +kernel

/-- O43: a spit and a pattern begin, a verdict is applied, a blank is cleared, and a record read anew. -/
theorem wit_serviceCommands :
    let c := (inState stService fun c => (c.setHead 3 { blankTemp := true })).core
    c.test = none ∧ (c.head 3).blankTemp = true ∧ (c.head 4).blankTemp = false ∧ (c.bar 0).genStuck = false ∧
      c.asyncOf 0x49 = none ∧ bit 0 5 = false := by decide +kernel

/-- O44: an exposure set that is in no use, memory it can be read from, and a PF_CLEAR under way. -/
theorem wit_cameraCommands :
    let a : Async := { op := 0x50, sq := 1, seq := 2 }
    let c := (inState stIdle fun c => (c.setF F.MEM_STAT_INIT 2).setF F.MEM_SIZE_GIB 4).core
    c.asyncOf 0x50 = none ∧ { c with hi := { c.hi with async := [a] } }.asyncOf 0x50 = some a ∧ c.f (F.CAM_STATUS_EXPSET 0) ≠ 1 ∧
      (c.cam 0).selects = [] ∧ (c.cam 0).sched = [] ∧ c.mayReach 0 64 = true ∧ (c.rd 0 64).isSome = true ∧
      c.mayReach 0 6600 = true ∧ (c.rd 0 6600).isSome = true := by decide +kernel

/-- O45: no surface, a rank that serves, spared ones and isolated units, a lane that runs on its mirror, failed-over encoders, a ring of
the logbook, and an export and a self test under way. -/
theorem wit_systemCommands :
    let a : Async := { op := 0x91, sq := 1, seq := 2, a := 0, b := 0, c := 64 }
    let b : Async := { op := 0x94, sq := 1, seq := 3, a := 0, b := 16 }
    let c := (inState stIdle fun c =>
      let c := ((c.setF F.MEM_STAT_INIT 2).setF F.MEM_SIZE_GIB 4).setF (F.MEMR_STAT_STATE 0) 1
      let c := ((c.setF (F.MEMR_STAT_STATE 6) 4).setF F.UMP_ISOL_NIB_NIB 1).setF (F.QLN_STATE_STATE 7) 4
      let c := ((c.setF (F.QLN_STATE_MODE 7) 1).setB F.WEB_SRC_FAILED_OVER true).setF F.LOG_SIZE_MIB 16
      { c.setB F.LOG_CFG_RUN true with now := 2 * sec, hi := { c.hi with async := [a, b] } }).core
    c.job.surfs = [] ∧ c.asyncOf 0x70 = none ∧ c.rankState 0 = 1 ∧ (c.retrainOf 0).running = false ∧ (c.retrainOf 0).waiting = false ∧
      c.formed = false ∧ c.f F.LOG_SIZE_MIB = 16 ∧ c.mayReach (c.n64 R.LOG_BASE_LO) (16 * 2 ^ 20) = true ∧
      c.asyncOf 0x91 = some a ∧ (c.rd (c.n64 R.LOG_BASE_LO) 64).isSome = true ∧ c.fb F.EV_CFG_EN = false ∧ c.asyncOf 0x94 = some b ∧
      b.a < 3 ∧ c.isOpenUnit 0 0 = true ∧ c.ump.returning.contains (0, 0) = false ∧ c.rankState 6 = 4 ∧ unitRange 2 1 2 = false ∧
      c.f (F.QLN_STATE_MODE 7) = 1 ∧ c.laneActive 7 = true ∧ c.laneClean 7 = true ∧ c.fb F.WEB_SRC_FAILED_OVER = true ∧
      c.encClean = true ∧ c.selfTesting 0 17 0 = false ∧ c.nibState 17 ≠ 1 ∧ c.nibState 17 ≠ 2 ∧ c.selfTesting 0 16 0 = true ∧
      c.selfTesting 0 0 0 = false ∧ c.ump.returning.contains (0, 17) = false ∧
      (c.setF (F.MEMR_STAT_STATE 6) 6).rankState 6 = 6 := by decide +kernel

/-! #### DMA and the bridge -/

/-- O46, O47: a chain of one transfer between areas of DRAM that are apart, free-running and waiting for a request. -/
theorem wit_dma :
    let x : DmaDesc := { src := 4096, dst := 8192, srcLen := 128, dstLen := 128, last := true }
    let y : DmaDesc := { x with reqEn := true, req := 3 }
    let job : EvzJob := { dec := true, inCh := 0, outCh := 1, result := 4096, ended := some (0, 0, 0) }
    let c := (inState stIdle fun c => ((c.setF F.MEM_STAT_INIT 2).setF F.MEM_SIZE_GIB 4).setF (F.DMAN_STATE_STATE 2) dRunning).core
    let d := c.setDch 2 { desc := some x, remain := 128 }
    let e := c.setDch 2 { desc := some y, remain := 128 }
    State.reset.reqs = [] ∧ (List.range 32).all (fun k => (d.taker k).isNone) = true ∧ e.taker 3 = some 2 ∧ (e.dch 2).desc = some y ∧
      y.overlaps = false ∧ c.mayReach y.src y.total = true ∧ c.mayReach y.dst y.total = true ∧ 0 + y.burst < y.total ∧
      (e.rd 4096 64).isSome = true ∧ d.dmaSt 2 = dRunning ∧ (d.dch 2).acked = 0 ∧ (d.dch 2).half = false ∧ d.dma.job = none ∧
      (d.dch 2).append = none ∧ (d.rd 4096 128).isSome = true ∧ d.dmaSt 5 ≠ dRunning ∧ d.dmaSt 5 ≠ dPaused ∧ d.dmaSt 5 ≠ dStopped ∧
      d.dmaBound 5 = false ∧ d.blockAnswers R.DMA_SWREQ = true ∧ d.blockAnswers (R.DMAN_APPEND_HI 2) = true ∧
      (d.setJob job).dma.job = some job ∧ job.result + 64 ≤ d.dramTop := by decide +kernel

/-- O46: a first descriptor in DRAM that can be read, one that cannot, and one on a host link that fails; a channel that was stopped
after a burst of a request was lost. -/
theorem wit_dmaStopped :
    let x : DmaDesc := { src := 4096, dst := 8192, srcLen := 128, dstLen := 128, reqEn := true }
    let c := (inState stIdle fun c => ((c.setF F.MEM_STAT_INIT 2).setF F.MEM_SIZE_GIB 4).setF (F.DMAN_STATE_STATE 2) dStopped).core
    let d := c.setDch 2 { desc := some x, remain := 128, owed := 64 }
    (c.descRead 5 4096 false).2.isSome = true ∧ (c.descRead 5 (2 ^ 40) false).2 = none ∧ (c.descRead 5 4097 true).2 = none ∧
      d.dmaSt 2 = dStopped ∧ (d.dch 2).paused = false ∧ (d.dch 2).owed = x.burst ∧ 0 + x.burst < x.total ∧
      (c.dch 2).owed = 0 ∧ (d.rd 4096 64).isSome = true := by decide +kernel

/-- An LSP packet to personality 2 with a checksum that is right: LH_STATUS. -/
def lsp : LspPacket := { lp := 2, bytes := [0xA5, 0x20, 0, 0, 0, 0, 0, 0x3B] }

/-- The bridge runs, with personality 2 on. -/
def bridged (f : Core → Core) : State :=
  inState stIdle fun c => f (((c.setB F.LG_STAT_RUNNING true).setB (F.LG_LP_MAP_EN 2) true).setF (F.LG_LP_MAP_INK_MAP 2) 0x3210)

/-- O48, O49: a packet heard, of a personality that is idle, and of one with a band loaded. -/
theorem wit_heard :
    let c := (bridged id).core
    let d := (bridged fun c => ((c.setF (F.LG_LP_STAT_STATE 2) lpLoaded).setF F.LG_CFG_POOL 2).setB F.LG_STAT_OWNER true).core
    c.fb F.LG_STAT_RUNNING = true ∧ c.lpOn lsp.lp = true ∧ pb lsp.bytes 0 = 0xA5 ∧ pb lsp.bytes 1 / 16 = 2 ∧
      ((List.range 8).map (pb lsp.bytes)).sum % 256 = 0 ∧ c.st ≠ stSafe ∧ c.lpSt 2 ≤ 1 ∧ (c.lpInk 2 0).isSome = true ∧
      c.fb F.LG_CFG_APPLY_OFS = false ∧ c.fb F.LG_STAT_OWNER = false ∧ c.lpSt 2 = lpIdle ∧ c.lg.spit = none ∧ c.lg.queue = [] ∧
      c.fb F.COX_EPOCH_SWITCHING = false ∧ c.lpHeads 2 0 = [] ∧ d.lpSt 2 = lpLoaded ∧ d.lpFree 2 = some 0 ∧ d.running = false ∧
      (bridged id).leg.skip = false ∧ pb lsp.bytes 1 % 16 = 0 ∧ d.lg.pitch = (0, 0) ∧ (d.pers 2).opened = none ∧ (d.pers 2).bands = [] ∧ d.lg.ending = false := by decide +kernel

/-- O50: a reply that waits, a band open for data, a start window that has passed, and a native command that waits for the cox. -/
theorem wit_legacyPorts :
    let q : NatCmd := { op := 0x44, par := [], lsp := [], owners := [2], busyAt := some 0, tried := 0 }
    let s := bridged fun c => { (c.setB F.COX_EPOCH_SWITCHING true).setLg { c.lg with
      window := some 0, queue := [q], pers := [(2, { opened := some { num := 3, q := 0 } })] } with now := 20 * msec }
    let t := { s with leg := { s.leg with ldadr := 2, reply := some [0, 1, 2, 3], readyAt := 5 } }
    t.leg.reply = some [0, 1, 2, 3] ∧ t.leg.readyAt ≤ t.core.now ∧ t.core.lpOn t.leg.ldadr = true ∧
      (t.core.pers t.leg.ldadr).opened = some { num := 3, q := 0 } ∧ (t.leg.fifo 2).length < 512 ∧ t.core.lg.window = some 0 ∧
      0 + t.core.f F.LG_START_WIN_US * usec ≤ t.core.now ∧ t.core.lg.queue = q :: [] ∧ q.tried + msec ≤ t.core.now ∧
      q.busyAt = some 0 ∧ t.core.now < 0 + sec ∧ t.core.fb F.COX_EPOCH_SWITCHING = true ∧ t.core.lpOn 3 = false ∧
      (bridged id).core.fb F.LG_STAT_OWNER = false ∧ s.leg.skip = false ∧
      ({ s with leg := { s.leg with skip := true } } : State).leg.skip = true := by decide +kernel

/-! #### The clock and the crew -/

/-- O51: a port in PTP with its master and a Sync taken, one that is itself the master, and HOLDOVER. -/
theorem wit_clockKept :
    let u : PtpPort := { master := some (5, [1]), sync := some (7, 100, 0), ms := some 0, req := some (9, 50), heard := 0 }
    let c := (inState stIdle fun c => { (((c.setB (F.ETH_CFG_EN 0) true).setB (F.ETH_STAT_LINK 0) true).setF F.PTP_CFG_MODE 2).setF
      F.TIME_STAT_STATE tHoldover with clk := { c.clk with ptp := [(0, u)], reacqFrom := some 0 }, now := 100 * sec }).core
    let d := c.setF (F.ETH_STAT_PORT_STATE 0) 6
    c.ptpOn 0 = true ∧ c.ptpOn 1 = false ∧ (c.ptp 0).master = some (5, [1]) ∧ (c.ptp 0).sync = some (7, 100, 0) ∧
      (c.ptp 0).req = some (9, 50) ∧ (c.ptp 0).ms = some 0 ∧ c.f F.PTP_DS_DOMAIN = 0 ∧ d.f (F.ETH_STAT_PORT_STATE 0) = 6 ∧
      (c.ptp 0).sentAt.1 + logInterval (sext 8 (c.f (F.ETH_LOG_INT_SYNC 0))) ≤ c.now ∧
      u.heard + c.f (F.ETH_LOG_INT_TIMEOUT 0) * logInterval (sext 8 (c.f (F.ETH_LOG_INT_ANNOUNCE 0))) ≤ c.now ∧
      c.timeState = tHoldover ∧ c.clk.reacqFrom = some 0 ∧ 0 + c.f F.TIME_REACQ_MS * msec ≤ c.now ∧ c.clk.refLost = false ∧
      (c.setF (F.ETH_STAT_PORT_STATE 0) psSlave).f (F.ETH_STAT_PORT_STATE 0) = psSlave ∧ c.heardSet 1 = none ∧
      c.f (F.ETH_STAT_PORT_STATE 1) ≠ psSlave := by decide +kernel

/-- O51: a port of a boundary clock that listens and has no master; this device may be master or may not. -/
theorem wit_clockAlone :
    let c := (inState stIdle fun c => { ((((c.setB (F.ETH_CFG_EN 0) true).setB (F.ETH_STAT_LINK 0) true).setF F.PTP_CFG_MODE 2).setF
      (F.ETH_STAT_PORT_STATE 0) psListening) with now := 100 * sec }).core
    let d := c.setB F.PTP_CFG_SLAVE_ONLY true |>.setF F.PTP_CFG_MODE 1
    c.ptpOn 0 = true ∧ (c.ptp 0).master = none ∧ c.mayMaster = true ∧ better c.ownRank [255] = true ∧ d.mayMaster = false ∧
      c.f (F.ETH_STAT_PORT_STATE 0) = psListening ∧ c.heardSet 1 = none ∧ c.f (F.ETH_STAT_PORT_STATE 1) ≠ psSlave ∧
      better [0] [1] = true ∧ { c.clk with refLost := true }.refLost = true := by decide +kernel

/-- A crew of two that is formed: this device has seat `seat`, and leads where that is 0. -/
def crewed (seat : Nat) (f : Core → Core) : State := inState stReady fun c =>
  let c := ((c.setB F.CREW_STAT_FORMED true).setB F.CREW_STAT_LEAD (seat == 0)).setF F.CREW_CFG_SIZE 2
  f { (c.setF F.CREW_CFG_SEAT seat).setF (F.CP_STAT_STATE (1 - seat)) cpUp with now := sec }

/-- O52: a lead whose link to its peer is up and due for a re-skew; a crew being formed, whose time has run out; no crew. -/
theorem wit_crewFormed :
    let a : Async := { op := 0xB0, sq := 1, seq := 2 }
    let c := (crewed 0 id).core
    let d := (inState stIdle fun c => { c.setF (F.CP_STAT_STATE 1) cpTraining with
      crew := { c.crew with forming := some (2, 0) }, hi := { c.hi with async := [a] }, now := sec }).core
    c.formed = true ∧ c.isLead = true ∧ c.peers = [1] ∧ c.crew.exch = none ∧ c.crew.decided = none ∧ (c.crewPort 1).since = none ∧
      (c.crewPort 1).due ≤ c.now ∧ c.f (F.CP_STAT_STATE 1) = cpUp ∧ c.job.isOpen = false ∧
      c.fb F.CREW_CFG_SAFE_ALL = true ∧ (c.setB F.CREW_CFG_SAFE_ALL false).fb F.CREW_CFG_SAFE_ALL = false ∧
      d.formed = false ∧ d.crew.forming = some (2, 0) ∧ d.asyncOf 0xB0 = some a ∧ d.formStatus 2 0 false = some rHwFault ∧
      bit 2 1 = true ∧ d.f (F.CP_STAT_STATE 1) = cpTraining := by decide +kernel

/-- O53: a member that has heard no POS, one whose POS waits and one that flies on it, and a lead with a POS to repeat. -/
theorem wit_crewFollows :
    let m : PosMsg := { t := 0, pos := 5, speed := 1, still := false, neg := false, lost := false }
    let c := (crewed 1 fun c => { c with crew := { c.crew with queue := [m], sent := some m } }).core
    let d := (crewed 0 fun c => { c with crew := { c.crew with sent := some m } }).core
    c.crewMember = true ∧ c.fb F.WEB_SRC_LOST = false ∧ c.crew.queue = m :: [] ∧ m.t + c.crewLat ≤ c.now ∧ c.isLead = false ∧
      (List.range 16).all (fun m => !c.fb (F.CMP_CFG_EN m)) = true ∧ (List.range 16).all (fun m => (c.bar m).pend = []) = true ∧
      c.web.pitch = 0 ∧ c.crew.sent = some m ∧ c.crew.rxAt + 100 * usec ≤ c.now ∧ (crewed 1 id).core.crew.sent = none ∧
      d.formed = true ∧ d.isLead = true ∧ d.crew.sent = some m ∧ d.crew.sentAt + usec ≤ d.now ∧ d.seat = 0 ∧
      d.crew.timeAt + msec ≤ d.now ∧ d.crew.umpAt + 10 * usec ≤ d.now ∧ d.peers.contains 1 = true ∧
      bit (d.crewPort 1).ump 0 = false ∧ d.printing = false := by decide +kernel

/-- O54: a lead with an exchange that lacks one vote, a lead without one, a member that prepares, and a decision that is due. -/
theorem wit_crewDecides :
    let v : CrewVote := { status := BitVec.ofNat 8 rDone, left := none, u0 := 0, u16 := 0, u0Range := none, minB := 0 }
    let e : Exch := { id := 3, seat := 1, req := .job 0x31 0 false 0, sentAt := 0, votes := [(0, v)] }
    let y : Dec := ⟨0, { status := BitVec.ofNat 8 rBusy, le := 0, gen := 0, ta := 0, u0 := none, minB := 0 }⟩
    let pr : Prep := { id := 3, seat := 1, req := .commit 0 0 0 false, gen := {}, status := rDone }
    let pj : Prep := { pr with req := .job 0x31 0 false 0 }
    let own : List (CrewReq × Option DerateOut) := [(pj.req, none)]
    let c := (crewed 0 fun c => { c with crew := { c.crew with exch := some e } }).core
    let d := (crewed 1 fun c => { c with crew := { c.crew with decided := some y, prep := some pr } }).core
    c.formed = true ∧ c.isLead = true ∧ c.peers.contains 1 = true ∧ c.crew.exch = some e ∧ (e.votes.all fun w => w.1 != 1) = true ∧
      e.sentAt + 15 * usec ≤ c.now ∧ c.f F.CREW_CFG_SIZE ≤ (e.votes ++ [(1, v)]).length ∧ (crewed 0 id).core.crew.exch = none ∧
      (crewed 0 id).core.crew.decided = none ∧ d.formed = true ∧ d.isLead = false ∧ d.coxHere = true ∧ (d.crewPort 0).since = none ∧
      { d.crew with own := own, prep := some pj }.own = [(pj.req, none)] ∧ pj.seat = d.seat ∧
      d.crew.decided = some y ∧ y.at_ ≤ d.now ∧ d.crew.own = [] ∧ d.crew.prep = some pr ∧ reqGen pr.req = true := by decide +kernel

/-! #### The logbook, test, power and boot -/

/-- O55: a block open for 10 ms, and a replay with a record that is due. -/
theorem wit_logAndReplay :
    let x : RplRec := { ty := 0x1C, due := 0, body := [] }
    let c := (inState stIdle fun c => { c.setB F.LOG_CFG_RUN true with log := { c.log with blk := [1] }, now := sec }).core
    let d := (inState stReplay fun c => { c with log := { c.log with replay := true }, rpl := { c.rpl with recs := [x] } }).core
    c.logging = true ∧ c.log.blk ≠ [] ∧ c.log.blkStart + 10 * msec ≤ c.now ∧ c.replay = false ∧ d.replay = true ∧
      d.rpl.recs = x :: [] ∧ x.due ≤ d.now ∧ x.ty = 0x1C ∧ d.printing = false ∧ d.heads = [] ∧
      (d.setB (F.HH_THETA_WARM 5) true).fb (F.HH_THETA_WARM 5) = true ∧ (inState stReplay id).core.rpl.recs = [] := by decide +kernel

/-- O56: the registers of tests answer, and a test of an interface is allowed. -/
theorem wit_testPort :
    let c := (inState stService id).core
    c.pwr.held = 0 ∧ c.blockAnswers R.PERF_SNAP = true ∧ c.blockAnswers R.TST_CTRL = true ∧ c.f F.TST_CTRL_IF = 0 ∧
      (List.range 15).any (fun i => c.testAllowed (i + 1) 0) = true ∧ (c.setF F.TST_CTRL_IF 2).f F.TST_CTRL_IF ≠ 0 ∧
      c.testAllowed 2 15 = false := by decide +kernel

/-- O57: a device at rest, one tripped and still too hot, one without REFCLK, and a warm reset due. -/
theorem wit_resetsTaken :
    let a : Async := { op := 0x02, sq := 1, seq := 2, a := 0 }
    let c := (inState stIdle fun c => { c with hi := { c.hi with async := [a] }, now := sec }).core
    let d := { c with pwr := { c.pwr with held := 2, latch := true, dts := [(0, 7000)] } }
    c.pwr.latch = false ∧ c.pwr.held = 0 ∧ c.asyncOf 0x02 = some a ∧ a.a + 100 * usec ≤ c.now ∧ d.pwr.latch = true ∧ d.tooHot = true ∧
      d.fb F.CLK_STAT_REFCLK_OK = true ∧ d.pwr.held ≠ 3 ∧ (c.setB F.CLK_STAT_REFCLK_OK false).fb F.CLK_STAT_REFCLK_OK = false := by decide +kernel

/-- O58: in BOOT with all units good, image A good and image B blank, good and newer, or an image downloaded. -/
theorem wit_bootTaken :
    let a : FlashImg := { state := 3, ver := 5, len := 512 }
    let c := (core fun c => c.setFlash 0 a).core
    let d := { c with pwr := { c.pwr with loaded := some (3, 5, 1) } }
    let e := c.setFlash 1 { a with state := 1 }
    e.bootTab.1 = 1 ∧ e.bootTab.2.seq = 2 ∧ (e.flash 1).state = 1 ∧ (e.flash 0).state = 3 ∧ c.bootTab.2.seq + 2 < 2 ^ 32 ∧
      c.pwr.stopped = false ∧ c.pwr.download = false ∧ { c.pwr with stopped := true }.stopped = true ∧
    c.st = stBoot ∧ c.pwr.held = 0 ∧ (List.range 18).all (fun n => c.nibState n == if n < 16 then 2 else 0) = true ∧
      (List.range 16).all (fun n => c.f (F.NIBN_STAT_SLICE n) == n) = true ∧ c.f F.UMP_ISOL_COX_COX = 0 ∧ c.pwr.loaded = none ∧
      c.fb F.PWR_RST_CAUSE_WARM = false ∧ (c.setB F.PWR_RST_CAUSE_WARM true).fb F.PWR_RST_CAUSE_WARM = true ∧
      c.pwr.mode = 0 ∧ (c.flash 0).state = 3 ∧ (c.flash 1).state ≠ 1 ∧ (c.flash 1).state ≠ 3 ∧ c.imagePasses (c.flashImage 0) false = false ∧ c.f F.PWR_BOOT_STAT_FAIL = 0 ∧
      d.pwr.loaded = some (3, 5, 1) ∧ c.blockAnswers R.PWR_BOOT_GO = true ∧ c.f F.PWR_BOOT_LEN_LEN ≤ 2 ^ 24 := by decide +kernel

/-- An image of one payload byte under KEY 0, whose public key hashes to that key's fuse. -/
def smallImage : List Byte :=
  recImageBytes { key := 0, payload := [7], sha := sha256 [7], pub := List.replicate 64 3, sigOk := true } 0x10000 1

/-- O58, O19: fuses with whose key an image passes, and one with its KEY revoked or its payload changed that does not (R536). -/
theorem wit_imagePasses :
    let c := (core fun c => { c with pwr := { c.pwr with fuses := { keyHash := [sha256 (List.replicate 64 3)], rootKey := [] } } }).core
    c.imagePasses smallImage true = true ∧ c.imagePasses smallImage false = false ∧
      (c.setF F.FUSE_STAT_REVOKED 1).imagePasses smallImage true = false ∧
      c.imagePasses (smallImage.dropLast ++ [8]) true = false := by decide +kernel

/-- O59: AVS at work within its limits and with its bus failed, a PLL on its first reference, a sensor off its partner for 1 s, and a
hot one. -/
theorem wit_powerWatched :
    let c := (inState stIdle fun c => { c.setB F.AVS_CFG_EN true with
      pwr := { c.pwr with dts := [(0, 7000)], dtsDiff := [(1, some 0)] }, now := sec }).core
    let d : Core := { c with ticks := { c.ticks with avs := sec + 1, avsRetry := sec + 1, dts := sec + 1 } }
    c.ticks.avs ≤ c.now ∧ c.ticks.avsRetry ≤ c.now ∧ c.ticks.dts ≤ c.now ∧ d.now < d.ticks.avs ∧ d.now < d.ticks.avsRetry ∧
      d.now < d.ticks.dts ∧ d.pwr.busFails = 0 ∧ { d.pwr with busFails := 1 }.busFails ≠ 0 ∧
      c.fb F.AVS_CFG_EN = true ∧ c.fb F.AVS_STAT_BUS_FAIL = false ∧ c.pwr.held = 0 ∧
      c.f F.AVS_CFG_VMIN * 5 ≤ c.f F.AVS_STAT_VOUT ∧ c.f F.AVS_STAT_VOUT ≤ c.f F.AVS_CFG_VMAX * 5 ∧ c.f F.AVS_CFG_VMAX * 5 < 1024 ∧
      (c.setB F.AVS_STAT_BUS_FAIL true).fb F.AVS_STAT_BUS_FAIL = true ∧ bit (c.f F.CLK_STAT_FAILED) 3 = false ∧
      bit (c.f F.CLK_STAT_ON_B) 3 = false ∧ c.f F.THERM_STAT_FAILED = 0 ∧ c.pwr.latch = false ∧
      Tab.get (fun _ => none) c.pwr.dtsDiff 1 = some 0 ∧ 0 + sec ≤ c.now ∧ c.dtsFailed 1 = false ∧ c.pwr.hotAt + sec ≤ c.now ∧
      c.dtsFailed 0 = false ∧ 6720 < c.dts 0 := by decide +kernel

/-! #### Premises of the clauses that the reviews added -/

/-- O2: a tick with nothing that waits: no member of a crew, no native command, no test and no burst of the memory. -/
theorem wit_idleTickAlone :
    let c := State.reset.core
    c.crewMember = false ∧ c.lg.queue = [] ∧ c.f F.TST_CTRL_IF = 0 ∧ c.mem.todo = [] := by decide +kernel

/-- O6, O7, O9: windows whose requester is on the fabric, and the cox's while its switch is open. -/
theorem wit_windowsCut :
    let c := (inState stIdle id).core
    let d := (inState stIdle fun c => c.setF F.UMP_ISOL_COX_COX 1).core
    c.winCut .host0 = false ∧ c.winCut .cox = false ∧ d.winCut .cox = true ∧ d.winCut .host0 = false ∧
      (c.readable .host0 R.DEV_VIOL_CNT).isSome = true := by decide +kernel

/-- O36: a nib and a cox that are cut off the DRAM, and units that are not; an access that reaches across C - M, on a device whose
lanes send. -/
theorem wit_requestersCut :
    let c := (inState stIdle fun c => ((c.setF F.MEM_STAT_INIT 2).setF F.MEM_SIZE_GIB 4).setF (F.MEMR_STAT_STATE 0) 1).core
    let d := (c.setF F.UMP_ISOL_NIB_NIB 8).setF F.UMP_ISOL_COX_COX 2
    c.reqCut 3 = false ∧ d.reqCut 3 = true ∧ d.reqCut 51 = true ∧ d.reqCut 50 = false ∧ d.reqCut 56 = false ∧ c.muted = false ∧
      c.dramTop - 4 < c.dramTop ∧ c.dramTop < c.dramTop - 4 + 8 ∧ c.accessWaits { req := 1, pa := c.dramTop - 4, n := 8 } = false ∧
      c.accessWaits { req := 1, pa := c.dramTop, n := 8 } = false := by decide +kernel

/-- O40, O45, O24: nothing staged or updated, a standby cox and a spare nib under no self-test; ranks that no command holds, and one
that its retraining does; a nib and the standby that a self-test isolates. -/
theorem wit_unitsFree :
    let c := (inState stIdle fun c => c.setF (F.MEMR_STAT_STATE 0) 1).core
    let d := { c with mem := { c.mem with retrain := [(0, { asked := true, running := true })] } }
    let t (cls idx : Nat) : Async := { op := 0x94, sq := 0, seq := 0, a := cls, b := idx }
    c.asyncOf 0x04 = none ∧ c.asyncOf 0x05 = none ∧ c.selfTesting 1 (1 - c.activeCox) 0 = false ∧ c.nibState 16 = 0 ∧
      c.selfTesting 0 16 0 = false ∧ (List.range 16).all (fun i => !c.rankTaken i) = true ∧ d.rankTaken 0 = true ∧
      { c with hi := { c.hi with async := [t 0 16] } }.asyncOf 0x94 = some (t 0 16) ∧
      { c with hi := { c.hi with async := [t 1 1] } }.asyncOf 0x94 = some (t 1 1) ∧ 1 = 1 - c.activeCox ∧
      bit (c.f F.UMP_ISOL_COX_COX) 1 = false ∧ (c.setF F.UMP_ISOL_COX_COX 2).f F.UMP_ISOL_COX_COX = 2 := by decide +kernel

/-- O46, O47: no burst owed, an address appended to a channel that has one or none, and the result's address within reach. -/
theorem wit_dmaAppends :
    let c := (inState stIdle fun c => ((c.setF F.MEM_STAT_INIT 2).setF F.MEM_SIZE_GIB 4).setF (F.DMAN_STATE_STATE 2) dRunning).core
    let d := c.setF (F.DMAN_STATE_STATE 2) dPaused
    (List.range 16).all (fun m => (c.dch m).owed == 0) = true ∧ (c.dch 2).append = none ∧ d.dmaSt 2 = dPaused ∧
      ((c.setDch 2 { append := some 64 }).dch 2).append.isSome = true ∧ c.dma.job = none ∧ c.mayReach 4096 64 = true := by
  decide +kernel

/-- O50: a native command that has not been asked and has heard nothing. -/
theorem wit_bridgeWaits :
    let q : NatCmd := { op := 0x44, par := [], lsp := [], owners := [2], busyAt := some 0, tried := 0 }
    q.asked = false ∧ q.heard = none := by decide

/-- O52: lanes of a link that relock after a re-skew, that are both in lock and of which one is not, a lock that a third missing marker
takes; a BULK message to send again; a member of a crew whose peers are its own. -/
theorem wit_crewRelocks :
    let u : CrewPort := { relock := some 5, rx0 := { lock := true }, rx1 := { lock := true } }
    let v : LaneRx := { lock := true, missRun := 2 }
    let o (x : Option Bool) : RxOut := { (v.decode 0 false (rsSymbols 514 [] ++ rsSymbols 14 [])) with am := x, cw := .clean }
    let c := (crewed 0 fun c => c.setCrewPort 1 { bulk := some [7] }).core
    u.unlocked = 0 ∧ { u with rx1 := {} }.unlocked = 2 ∧ (v.step (o (some false))).lock = false ∧ (v.step (o none)).lock = true ∧
      c.formed = true ∧ c.peers.contains 1 = true ∧ (c.crewPort 1).since = none ∧ (c.crewPort 1).bulk = some [7] ∧
      ({ u with since := some 0 } : CrewPort).since = some 0 ∧ 0 + 12 * usec ≤ c.now ∧
      (c.setF (F.CP_STAT_STATE 1) cpSkew).f (F.CP_STAT_STATE 1) = cpSkew ∧ cpSkew ≠ cpOff ∧ cpSkew ≠ cpDown := by decide +kernel

/-- O53: a member between two POS, one at a standstill, one to be stepped to the lead's time, and a lead that has sent none. -/
theorem wit_crewCoasts :
    let m : PosMsg := { t := 0, pos := 5, speed := 1, still := false, neg := false, lost := false }
    let c := (crewed 1 fun c => { c with crew := { c.crew with sent := some m, got := true, rxAt := sec - 2 * usec } }).core
    let d := (crewed 1 fun c => { c with crew := { c.crew with still := true, forming := some (1, 0) } }).core
    let e := (crewed 0 id).core
    c.crewMember = true ∧ c.crew.sent = some m ∧ c.crew.still = false ∧ m.speed ≠ 0 ∧ m.t < c.now - c.crewLat ∧ c.crew.got = true ∧
      c.crew.seq = 0 ∧ c.crew.rxAt + 2 * usec ≤ c.now ∧ c.fb F.WEB_SRC_LOST = false ∧ c.coxHere = true ∧ c.jobWaits = false ∧ d.crew.still = true ∧
      d.crew.forming.isSome = true ∧ d.crew.stepped = false ∧ (crewed 1 id).core.crew.got = false ∧ e.crew.sent = none ∧
      e.crew.sentAt + usec ≤ e.now := by decide +kernel

/-- O54: a member where a command may run in its state and where it may not, and a decision of a loop generation. -/
theorem wit_crewJudges :
    let c := (crewed 1 id).core
    let d := (inState stSafe id).core
    c.opLegal 0x30 = true ∧ d.opLegal 0x30 = false ∧ c.st ≠ stPrinting ∧ reqGen (.loops 9) = true ∧ c.st = stReady ∧
      (crewed 1 fun c => c.setF F.DEV_STATE_STATE stPrinting).core.webStands = false := by decide +kernel

/-- O55: WEB entries gathered 10 ms ago, a logbook whose buffer is full, records lost since the last 0x0A22, and a replay with nothing
of its own in front. -/
theorem wit_logFull :
    let c := (inState stIdle fun c => { c.setB F.LOG_CFG_RUN true with
      log := { c.log with full := true, lostDue := true, lostAt := [(0, 3)] }, now := sec }).core
    let d := { c with log := { c.log with web := [1], webAt := 0 } }
    c.logging = true ∧ c.log.full = true ∧ c.log.snapDue = false ∧ c.log.web = [] ∧ c.log.lostDue = true ∧
      Tab.get (fun _ => 0) c.hi.lastPost (0x0A22 * 65536 + 31) = 0 ∧ c.log.own = [] ∧ c.log.blk = [] ∧ d.log.web ≠ [] ∧
      d.log.webAt + 10 * msec ≤ d.now := by decide +kernel

/-- O56: a test under way that is written again, the test port of a device in BOOT, and balls of its chain. -/
theorem wit_testAgain :
    let c := (inState stService fun c => c.setF F.TST_CTRL_IF 2).core
    c.f F.TST_CTRL_IF = 2 ∧ c.f F.TST_CTRL_INDEX = 0 ∧ c.testAllowed 2 0 = true ∧ State.reset.core.st = stBoot ∧
      (Ball.fire 5 false).inChain = true ∧ (Ball.fire 5 false).dir = .output := by decide +kernel

/-- O59: a sensor whose failure leaves a pair of one that was hot twice, an AVSBus that has failed twice, and the supply at its
limit. -/
theorem wit_sensorTrips :
    let c := (inState stIdle fun c => { c with
      pwr := { c.pwr with dtsHot := [(1, true)], dtsWas := [(1, true)], dtsDiff := [(0, some 0)], busFails := 2 }, now := sec }).core
    Tab.get (fun _ => none) c.pwr.dtsDiff 0 = some 0 ∧ 0 + sec ≤ c.now ∧ c.dtsFailed 0 = false ∧ c.pwr.latch = false ∧
      c.pwr.held ≠ 3 ∧ c.dtsFailed (0 ^^^ 1) = false ∧ Tab.get (fun _ => false) c.pwr.dtsHot (0 ^^^ 1) = true ∧
      Tab.get (fun _ => false) c.pwr.dtsWas (0 ^^^ 1) = true ∧ 2 ≤ c.pwr.busFails ∧ State.reset.core.pwr.dtsHot = [] := by
  decide +kernel

end Sys2Proof.Tests
end

section
/-!
SUPPORT. The queue of waiting commands: no operation on the state touches it. Whatever a command does to the core, the head boards, the
legacy ports, the request lines and the test access port, the commands behind it stay as they were.
-/

namespace Sys2Proof.Machine

/-- A choice between two states that keep the queue keeps it. -/
theorem State.pending_ite {p : Prop} [Decidable p] {s t u : State} (ht : t.pending = s.pending) (hu : u.pending = s.pending) :
    (if p then t else u).pending = s.pending := by split <;> assumption

/-- A fold of operations that keep the queue keeps it. -/
theorem State.pending_foldl {α : Type} (f : State → α → State) (h : ∀ s a, (f s a).pending = s.pending) (l : List α) :
    ∀ s : State, (l.foldl f s).pending = s.pending := by
  induction l with
  | nil => intro s; rfl
  | cons a l ih => intro s; rw [List.foldl_cons, ih, h]

variable (s : State) (g n : Nat)

/-! ### Head boards -/

@[simp] theorem State.pending_up (b : Blk) : (s.up n b).pending = s.pending := rfl

/-- Blocks sent one after another. -/
theorem State.pending_ups (l : List Blk) : (l.foldl (fun s b => s.up n b) s).pending = s.pending :=
  State.pending_foldl _ (fun s b => State.pending_up s n b) l s

@[simp] theorem State.pending_upWord : (s.upWord n).pending = s.pending := by
  unfold State.upWord
  extract_lets
  split <;> rfl

@[simp] theorem State.pending_link : (s.link g).pending = s.pending :=
  State.pending_foldl _ (fun s m => State.pending_up s m _) _ _

@[simp] theorem State.pending_completeLines : (s.completeLines g).pending = s.pending := rfl

@[simp] theorem State.pending_boardMode (mode : Nat) : (s.boardMode g mode).pending = s.pending :=
  State.pending_ite rfl ((State.pending_completeLines ..).trans (State.pending_link ..))

@[simp] theorem State.pending_lineStart (mirror : Bool) (f : Nat) : (s.lineStart g mirror f).pending = s.pending :=
  State.pending_ite rfl rfl

@[simp] theorem State.pending_frameIn (mirror : Bool) (fh : Nat) (words : List (BitVec 64)) (good : Bool) (l : BoardLine) :
    (s.frameIn g mirror fh words good l).pending = s.pending :=
  State.pending_ite rfl ((State.pending_completeLines ..).trans (State.pending_ite (State.pending_link ..) rfl))

@[simp] theorem State.pending_boardFrame (mirror : Bool) (fh : Nat) (words : List (BitVec 64)) (crc high : Nat) (bad : Bool) :
    (s.boardFrame g mirror fh words crc high bad).pending = s.pending := by
  unfold State.boardFrame
  extract_lets
  refine State.pending_ite rfl ?_
  split
  · exact State.pending_ite (State.pending_link ..) rfl
  · exact State.pending_ite rfl (State.pending_frameIn ..)

@[simp] theorem State.pending_codewordDown (sym : List Nat) : (s.codewordDown n sym).pending = s.pending := by
  unfold State.codewordDown
  extract_lets _ _ _ _ _ _ _ _ _ u
  refine (State.pending_upWord ..).trans ?_
  unfold u
  split
  · exact State.pending_ite (State.pending_foldl _ (fun t (x : Blk × Nat) => State.pending_up t n x.1) _ _) rfl
  · rfl

/-! ### Requests, legacy ports, resets and registers -/

@[simp] theorem State.pending_dmaSwreq (w : Win) (v : Word) : (s.dmaSwreq w v).pending = s.pending := State.pending_ite rfl rfl

@[simp] theorem State.pending_tripJudge : s.tripJudge.pending = s.pending := by
  unfold State.tripJudge; split <;> rfl

@[simp] theorem State.pending_regWrite (w : Win) (off : Nat) (v : Word) : (s.regWrite w off v).pending = s.pending := by
  unfold State.regWrite
  extract_lets
  refine State.pending_ite rfl (State.pending_ite rfl (State.pending_ite rfl ?_))
  split
  · rfl
  · exact State.pending_ite (State.pending_dmaSwreq ..) (State.pending_ite rfl (State.pending_ite rfl rfl))

/-! ### Completion -/

/-- An outcome is a next state whose waiting commands are `q`. -/
def Completes (q : List Instr) (o : Host.Outcome State Fault Refusal) : Prop := ∃ t, o = .next t ∧ t.pending = q

/-- What answers a next state that keeps the queue completes. -/
theorem Completes.next {q : List Instr} {t : State} (h : t.pending = q) : Completes q (.next t) := ⟨t, rfl, h⟩

/-- A choice between two outcomes that complete. -/
theorem Completes.ite {p : Prop} [Decidable p] {q : List Instr} {a b : Host.Outcome State Fault Refusal} (ha : Completes q a)
    (hb : Completes q b) : Completes q (if p then a else b) := by split <;> assumption

/-- Every packet at the legacy serial port completes. -/
theorem lh_completes (p : LspPacket) : Completes s.pending (lh p s) :=
  .ite (.next rfl) (.next (State.pending_ite rfl rfl))

theorem execLdpWord_completes (w : BitVec 16) : Completes s.pending (execLdpWord w s) :=
  .ite (.next rfl) (.ite (.next rfl) (.next rfl))

theorem execLspReplyClock_completes : Completes s.pending (execLspReplyClock n s) := by
  unfold execLspReplyClock
  extract_lets
  split
  · exact .next rfl
  · exact .ite (.next rfl) (.next rfl)

theorem execDtsSample_completes (vals : List Int) : Completes s.pending (execDtsSample vals s) :=
  .ite (.next rfl) (.next (State.pending_tripJudge _))

theorem execWarmReset_completes : Completes s.pending (execWarmReset s) := by
  refine .next ?_
  split
  · exact State.pending_ite rfl rfl
  · rfl

end Sys2Proof.Machine

namespace Sys2Proof.Proofs

open Sys2Proof.Machine

/-- Settles O60: a command changes the core alone, or it goes through one of the operations above, which keep the queue. -/
theorem commandsComplete : Obligations.CommandsComplete := by
  intro i s
  show Completes s.pending (exec i s)
  cases i
  case lhStatus p => exact lh_completes s p
  case lhReset p => exact lh_completes s p
  case lhSetEncDiv p => exact lh_completes s p
  case lhSetPitch p => exact lh_completes s p
  case lhLoadBand p => exact lh_completes s p
  case lhStart p => exact lh_completes s p
  case lhStop p => exact lh_completes s p
  case lhSetOffset p => exact lh_completes s p
  case lhSetWave p => exact lh_completes s p
  case lhReadTemp p => exact lh_completes s p
  case lhSpit p => exact lh_completes s p
  case lhMaskNozzle p => exact lh_completes s p
  case lhReadCount p => exact lh_completes s p
  case lhSetMode p => exact lh_completes s p
  case lhEcho p => exact lh_completes s p
  case lhBadOpcode p => exact lh_completes s p
  case ldpWord w => exact execLdpWord_completes s w
  case lspReplyClock n => exact execLspReplyClock_completes s n
  case lspDiscard => exact .next (State.pending_ite rfl rfl)
  case registerWrite w off v => exact .next (State.pending_regWrite ..)
  case dmaSwreqWrite v => exact .next (State.pending_dmaSwreq ..)
  case boardLineStart g mirror f => exact .next (State.pending_lineStart ..)
  case boardFrame g mirror fh words crc high bad => exact .next (State.pending_boardFrame ..)
  case boardRecRead g arg => exact .next (State.pending_ups ..)
  case boardTempReport g temps => exact .next (State.pending_foldl _ (fun t m => State.pending_ups t m _) _ _)
  case boardReset g => refine .next (State.pending_foldl _ ?_ _ _); intros; rfl
  case boardInputLoss g mirror =>
    exact .next (State.pending_ite (State.pending_boardMode ..) (State.pending_ite (State.pending_boardMode ..) rfl))
  case boardMirrorRelock g => exact .next (State.pending_ite (State.pending_boardMode ..) rfl)
  case boardSelect g arg => exact .next (State.pending_ite (State.pending_boardMode ..) rfl)
  case boardTapRequest g arg => exact .next (State.pending_ite rfl rfl)
  case qlCodeword n down msg check => exact .next (State.pending_ite (State.pending_codewordDown ..) rfl)
  case replayRecord => exact .next (State.pending_ite rfl rfl)
  case warmReset => exact execWarmReset_completes s
  case rstNReset => exact .next (State.pending_ite rfl rfl)
  case refclkLoss => exact .next (State.pending_ite rfl rfl)
  case refclkReturn => exact .next (State.pending_ite rfl rfl)
  case dtsSample vals => exact execDtsSample_completes s vals
  case dtsFail j => exact .next (State.pending_ite (State.pending_tripJudge _) rfl)
  all_goals exact .next rfl

end Sys2Proof.Proofs
end

section
/-!
SUPPORT. Frames under the same change on both sides, what a violation writes, and what an answered register write and a register
read come to.
-/

namespace Sys2Proof.Machine

namespace Core.Keeps

variable {k : Nat → Bool} {c d : Core}

/-- The same register written on both sides. -/
theorem setR_both (h : Core.Keeps k c d) (o : Nat) (w : Word) : Core.Keeps k (c.setR o w) (d.setR o w) :=
  { h with
    regs := fun off ho => by
      rw [Core.r_setR, Core.r_setR, h.regs off ho]
    posted := h.posted }

/-- The same word read last on both sides. -/
theorem lastRead_both (h : Core.Keeps k c d) (v : Nat) : Core.Keeps k { c with lastRead := v } { d with lastRead := v } :=
  { h with lastRead := rfl, regs := h.regs, posted := h.posted }

/-- The same low words staged on both sides. -/
theorem wrStage_both (h : Core.Keeps k c d) (t : Tab (Nat × Word)) :
    Core.Keeps k { c with hi := { c.hi with wrStage := t } } { d with hi := { d.hi with wrStage := t } } :=
  { h with
    hi := congrArg (fun u : HostIf => { u with wrStage := t }) h.hi
    regs := h.regs
    posted := h.posted }

theorem wrStage (h : Core.Keeps k c d) : d.hi.wrStage = c.hi.wrStage := by rw [h.hi]

/-- The same low word staged, or used up, on both sides. -/
theorem stage_both (h : Core.Keeps k c d) (w : Win) (lo : Nat) (v : Word) : Core.Keeps k (c.stage w lo v) (d.stage w lo v) := by
  unfold Core.stage
  rw [h.wrStage]
  exact h.wrStage_both _

theorem stageUsed_both (h : Core.Keeps k c d) (w : Win) (lo : Nat) : Core.Keeps k (c.stageUsed w lo) (d.stageUsed w lo) := by
  unfold Core.stageUsed
  rw [h.wrStage]
  extract_lets e
  split
  · exact h.wrStage_both _
  · exact h

/-- The low word of a pair is the same on both sides, where the frame keeps its register. -/
theorem lowOf (h : Core.Keeps k c d) (w : Win) (lo : Nat) (ho : k lo = false) : d.lowOf w lo = c.lowOf w lo := by
  unfold Core.lowOf
  rw [h.wrStage, h.regs lo ho]

end Core.Keeps

open Sys2Proof.Machine.Core (Quiet)

/-! ### Violations -/

section
variable (c : Core) (bar : Bar) (off : Nat) (write : Bool)

/-- A violation counts once in DEV_VIOL_CNT. -/
theorem Core.violate_count : (c.violate bar off write).r R.DEV_VIOL_CNT = c.r R.DEV_VIOL_CNT + 1 := by
  have q := (Core.quiet_perf (c.inc R.DEV_VIOL_CNT) 207 (by decide)).regs R.DEV_VIOL_CNT (by decide)
  have ne : R.DEV_VIOL_CNT ≠ R.HI_VIOL_ADDR := by decide
  show (((c.inc R.DEV_VIOL_CNT).perf 207).setR R.HI_VIOL_ADDR _).r R.DEV_VIOL_CNT = _
  rw [Core.r_setR_ne _ _ ne, q, Core.inc_eq, Core.r_setR_same]

/-- A violation leaves its address, BAR and direction in HI_VIOL_ADDR. -/
theorem Core.violate_address (h : off < 2 ^ 26) :
    (c.violate bar off write).n R.HI_VIOL_ADDR = off + barCode bar * 2 ^ 26 + b2n write * 2 ^ 28 := by
  have hb : barCode bar ≤ 2 := by cases bar <;> decide
  have hw := b2n_le write
  show ((((c.inc R.DEV_VIOL_CNT).perf 207).setR R.HI_VIOL_ADDR _).r R.HI_VIOL_ADDR).toNat = _
  rw [Core.r_setR_same, BitVec.toNat_ofNat]
  omega

/-- What an access that is a violation answers, given the core `d` that has counted it: a read reads 0. -/
theorem Core.violation_read {c d : Core} (only : Core.Only [R.DEV_VIOL_CNT, R.HI_VIOL_ADDR] c d) :
    let e := if write then d else { d with lastRead := 0 }
    e.r R.DEV_VIOL_CNT = d.r R.DEV_VIOL_CNT ∧ e.n R.HI_VIOL_ADDR = d.n R.HI_VIOL_ADDR ∧
      e.lastRead = (if write then c.lastRead else 0) ∧
      Core.Only [R.DEV_VIOL_CNT, R.HI_VIOL_ADDR] { c with lastRead := e.lastRead } e := by
  cases write
  · exact ⟨rfl, rfl, rfl, only.lastRead_both 0⟩
  · exact ⟨rfl, rfl, only.lastRead, only.lastRead_both d.lastRead⟩

/-- A violation in full: counted, its address recorded, a read answered with 0, and nothing else changed. -/
theorem Core.violation_answer :
    let e := if write then c.violate bar off write else { c.violate bar off write with lastRead := 0 }
    e.r R.DEV_VIOL_CNT = c.r R.DEV_VIOL_CNT + 1 ∧ e.n R.HI_VIOL_ADDR = (c.violate bar off write).n R.HI_VIOL_ADDR ∧
      e.lastRead = (if write then c.lastRead else 0) ∧
      Core.Only [R.DEV_VIOL_CNT, R.HI_VIOL_ADDR] { c with lastRead := e.lastRead } e := by
  obtain ⟨count, addr, read, only⟩ := Core.violation_read write (Core.only_violate c bar off write)
  exact ⟨count.trans (Core.violate_count c bar off write), addr, read, only⟩

end

/-! ### Register writes -/

section
variable {c : Core} {off : Nat} {r : RegRow} (v : Nat)

/-- A listed register written plainly takes its row's word. -/
theorem Core.plainWrite_row (h : regRow off = some r) : c.plainWrite off v = c.setN off (r.write (c.n off) v) := by
  simp only [Core.plainWrite, h]

/-- The blocks whose registers have no effect of their own. -/
def plainBlocks : List Nat := [0, 4, 5, 6, 7, 8, 0xB, 0xE, 0x10, 0x11, 0x14]

theorem Core.write32_plain (h : plainBlocks.contains (off / 0x10000) = true) : c.write32 off v = c.plainWrite off v := by
  simp only [plainBlocks, List.contains_iff_mem, List.mem_cons, List.not_mem_nil, or_false] at h
  unfold Core.write32
  rcases h with h | h | h | h | h | h | h | h | h | h | h <;> simp only [h]

/-- No writable register of the blocks without effects is one that recording and reporting write. -/
theorem logOff_plain (h : plainBlocks.contains (off / 0x10000) = true) (hr : regRow off = some r) (hw : r.writes = true) :
    logOff off = false := by
  have ro : ∀ o, (regRow o).all (fun r => !r.writes) = true → off ≠ o := by
    rintro o ho rfl
    simp [hr, hw] at ho
  have h1 : off ≠ R.UMP_EVS_WR := ro _ (by decide)
  have h2 : off ≠ R.UMP_EVS_LOST_CNT := ro _ (by decide)
  simp only [plainBlocks, List.contains_iff_mem, List.mem_cons, List.not_mem_nil, or_false] at h
  simp only [logOff, R.EV_TAIL, R.EV_DROP_CNT, R.EV_DEFECT_DROP_CNT, R.UMP_EVS_WR, R.UMP_EVS_LOST_CNT, Bool.or_eq_false_iff,
    Bool.and_eq_false_iff, decide_eq_false_iff_not, beq_eq_false_iff_ne] at *
  omega

/-- The blocks of the pairs whose high word acts by the rows alone. -/
def pairBlocks : List Nat := [4, 5, 6, 7, 8, 0xB, 0xE, 0x10]

/-- Where the pairs of these blocks lie: the low word may stand at the end of the block before. -/
theorem pairBlocks_range (h : pairBlocks.contains (off / 0x10000) = true) :
    (0x40000 ≤ off ∧ off < 0x90000) ∨ (0xB0000 ≤ off ∧ off < 0xC0000) ∨ (0xE0000 ≤ off ∧ off < 0xF0000) ∨
      (0x100000 ≤ off ∧ off < 0x110000) := by
  simp only [pairBlocks, List.contains_iff_mem, List.mem_cons, List.not_mem_nil, or_false] at h
  omega

theorem logOff_pair (h : 0x3FFFC ≤ off) (h' : off < 0x110000) : logOff off = false := by
  simp only [logOff, R.EV_TAIL, R.EV_DROP_CNT, R.EV_DEFECT_DROP_CNT, R.UMP_EVS_WR, R.UMP_EVS_LOST_CNT, Bool.or_eq_false_iff,
    Bool.and_eq_false_iff, decide_eq_false_iff_not, beq_eq_false_iff_ne]
  omega

@[simp] theorem Core.stageUsed_n (c : Core) (w : Win) (lo o : Nat) : (c.stageUsed w lo).n o = c.n o := by
  unfold Core.stageUsed
  extract_lets
  split <;> rfl

theorem Core.n_setN_ne (c : Core) {o p : Nat} (v : Nat) (h : p ≠ o) : (c.setN o v).n p = c.n p :=
  congrArg BitVec.toNat (Core.r_setR_ne c _ h)

/-- A high word outside the compare and DMA blocks acts with its low word. -/
theorem Core.applyWrite_pair {c : Core} (w : Win) (v : Word) (h4 : 4 ≤ off) (lo : isLo off = false) (lo' : isLo (off - 4) = true)
    (h : ¬ (0x21000 ≤ off ∧ off < 0x21400) ∧ ¬ (0xD0100 ≤ off ∧ off < 0xD0500)) :
    c.applyWrite w off v = (c.stageUsed w (off - 4)).write64 (off - 4) (c.lowOf w (off - 4)).toNat v.toNat := by
  obtain ⟨cmp, dma⟩ := h
  simp only [Core.applyWrite, lo, h4, lo', cmp, dma, and_self, if_true, if_false, Bool.false_eq_true]

/-- A pair outside the queues, the aperture's base and PB0's alignment is written word by word. -/
theorem Core.write64_plain {lo : Nat} (vlo vhi : Nat) (h : 0x3FFFC ≤ lo) :
    c.write64 lo vlo vhi = (c.plainWrite lo vlo).plainWrite (lo + 4) vhi := by
  have q (n : Nat) (hn : n < 0x3FFFC) : lo ≠ n := by omega
  have h1 : lo ≠ R.FIRE_ALIGN_FWD_LO 0 := q _ (by decide)
  have h2 : lo ≠ R.FIRE_ALIGN_REV_LO 0 := q _ (by decide)
  have h3 : lo ≠ R.HI_APERTURE_LO := q _ (by decide)
  have h4 : ¬ lo < 0x10200 := by omega
  have h5 : ¬ lo < 0x10300 := by omega
  simp [Core.write64, h1, h2, h3, h4, h5]

end

section
variable {s : State} {w : Win} {off : Nat} {v : Word} {r : RegRow}

/-- The record of a write that the host makes. -/
theorem Core.quiet_hostNote (c : Core) (w : Win) (off : Nat) (v : Word) : Quiet c (if w = .cox then c else c.logRegw off v) := by
  split
  · exact .refl c
  · exact Core.quiet_logRegw ..

/-- A listed register that may be written and answers takes the write, on a core that differs from the one with the reserved bits
checked by the record of the write alone. -/
theorem State.regWrite_answered (ha : Claims.AnswersBy s.core w off) (hw : w ≠ .host2) (h4 : off % 4 = 0)
    (hr : regRow off = some r) (hrw : r.writes = true) (hs : off ≠ R.DMA_SWREQ) :
    ∃ e, Quiet (s.core.resvNote off v) e ∧ s.regWrite w off v = { s with core := e.applyWrite w off v } := by
  obtain ⟨⟨held, answers⟩, cut⟩ := ha
  refine ⟨_, Core.quiet_hostNote (s.core.resvNote off v) w off v, ?_⟩
  have hh := Core.hostReg_answered s.core off v w (fun c => c.applyWrite w off v) held cut answers
  simp [State.regWrite, held, cut, hw, h4, hr, hs, hrw, hh]

end

/-! ### Register reads -/

/-- A register that a window reads is shown, and `act` takes its effect. -/
theorem Core.readReg_readable {c : Core} {w : Win} {off reg : Nat} (act : Core → Nat → Core) (held : c.pwr.held = 0)
    (cut : c.winCut w = false) (h : c.readable w off = some reg) :
    c.readReg w off act = act { c with lastRead := c.readWord w reg } reg := by
  simp [Core.readReg, held, cut, h]

/-- A _LO word latches the word above it. -/
theorem Core.latch_lo {c : Core} (w : Win) {reg : Nat} (h : isLo reg = true) :
    c.latch w reg = { c with hi := { c.hi with
      rdLatch := Tab.set (fun _ => (0, 0)) c.hi.rdLatch (winIx w) (reg + 4, BitVec.ofNat 32 (c.view (reg + 4))) } } := by
  simp [Core.latch, Core.latches, h]

/-- What a register shows does not depend on what was read last. -/
theorem Core.view_lastRead (c : Core) (v off : Nat) : ({ c with lastRead := v } : Core).view off = c.view off := by
  unfold Core.view
  split <;> rfl

/-- A clear-on-read register is cleared by the host and left by the cox. -/
theorem Core.rcClear_rc {c : Core} (w : Win) {reg : Nat} {r : RegRow} (h : regRow reg = some r)
    (rc : r.flds.any (·.acc == .rc) = true) : c.rcClear w reg = if w = .cox then c else c.setN reg 0 := by
  by_cases hw : w = .cox <;> simp [Core.rcClear, h, rc, hw]

end Sys2Proof.Machine

namespace Sys2Proof.Proofs

open Sys2Proof.Machine Sys2Proof.Claims

/-- Settles O7, by what a violation counts, records and answers. -/
theorem violationCounted : Obligations.ViolationCounted := by
  intro bar off write s
  have answer := Core.violation_answer s.core bar off.toNat write
  have address := Core.violate_address s.core bar off.toNat write (by omega)
  obtain ⟨count, addr, read, only⟩ := answer
  exact ⟨_, rfl, count, addr.trans address, read, only⟩

/-- A write by access type, in the blocks without effects of their own (R4). -/
theorem registerWritten : RegisterWritten := by
  intro w off v s r ha hw h4 hr hrw hb lo lo' c
  have hs : off.toNat ≠ R.DMA_SWREQ := by
    intro e
    rw [e] at hb
    revert hb
    decide
  obtain ⟨e, q, he⟩ := State.regWrite_answered (v := v) ha hw h4 hr hrw hs
  refine ⟨_, congrArg Host.Outcome.next he, ?_⟩
  have ho : logOff off.toNat = false := logOff_plain hb hr hrw
  have plain : e.applyWrite w off.toNat v = e.setN off.toNat (r.write (e.n off.toNat) v.toNat) := by
    rw [← Core.plainWrite_row _ hr, ← Core.write32_plain _ hb]
    simp [Core.applyWrite, lo, lo']
  rw [plain, q.n _ ho]
  exact q.setR_both _ _

/-- A pair: its low word is staged, its high word acts with it (R3, R550). -/
theorem wideRegisterWritten : WideRegisterWritten := by
  intro w off v s r rl ha hw h4 hr hrw c
  refine ⟨fun lo => ?_, fun hb hge lo lo' hrl => ?_⟩
  · have hs : off.toNat ≠ R.DMA_SWREQ := by
      intro e
      rw [e] at lo
      revert lo
      decide
    obtain ⟨e, q, he⟩ := State.regWrite_answered (v := v) ha hw h4 hr hrw hs
    refine ⟨_, congrArg Host.Outcome.next he, ?_⟩
    have staged : e.applyWrite w off.toNat v = e.stage w off.toNat v := by simp [Core.applyWrite, lo]
    rw [staged]
    exact q.stage_both ..
  · have range := pairBlocks_range hb
    have hs : off.toNat ≠ R.DMA_SWREQ := by unfold R.DMA_SWREQ; omega
    obtain ⟨e, q, he⟩ := State.regWrite_answered (v := v) ha hw h4 hr hrw hs
    refine ⟨_, congrArg Host.Outcome.next he, ?_⟩
    have h1 : logOff (off.toNat - 4) = false := logOff_pair (by omega) (by omega)
    have h2 : logOff off.toNat = false := logOff_pair (by omega) (by omega)
    have ne : off.toNat ≠ off.toNat - 4 := by omega
    have both : e.applyWrite w off.toNat v = ((e.stageUsed w (off.toNat - 4)).setN (off.toNat - 4)
        (rl.write (e.n (off.toNat - 4)) (e.lowOf w (off.toNat - 4)).toNat)).setN off.toNat (r.write (e.n off.toNat) v.toNat) := by
      rw [Core.applyWrite_pair w v hge lo lo' (by omega), Core.write64_plain _ _ (by omega), Core.plainWrite_row _ hrl,
        Nat.sub_add_cancel hge, Core.plainWrite_row _ hr, Core.n_setN_ne _ _ ne,
        Core.stageUsed_n, Core.stageUsed_n]
    rw [both, q.n _ h1, q.n _ h2, q.lowOf w _ h1]
    exact ((q.stageUsed_both w _).setR_both _ _).setR_both _ _

/-- A _LO word latches, a clear-on-read register clears (R550, R551). -/
theorem registerRead : RegisterRead := by
  intro w off s reg held cut hread
  refine ⟨fun lo => ⟨_, rfl, ?_⟩, fun r hr rc => ⟨_, rfl, ?_⟩⟩
  · rw [Core.readReg_readable _ held cut hread, Core.latch_lo _ lo, Core.view_lastRead]
    rfl
  · rw [Core.readReg_readable _ held cut hread, Core.rcClear_rc _ hr rc]
    by_cases hw : w = .cox
    · rw [if_pos hw, if_pos hw]
      exact ⟨rfl, rfl, .refl _⟩
    · rw [if_neg hw, if_neg hw]
      refine ⟨rfl, ?_, (Core.Keeps.refl _).setR _ _ (by simp)⟩
      unfold Core.n
      rw [Core.setN_eq, Core.r_setR_same]
      rfl

/-- Settles O6, clause by clause. -/
theorem registersAccessed : Obligations.RegistersAccessed := ⟨registerWritten, wideRegisterWritten, registerRead⟩

end Sys2Proof.Proofs
end

section
/-!
SUPPORT. The windows of BAR4: a word of the tables set, a whole burst written to DRAM and read back, and which part of BAR4 an access
reaches.
-/

namespace Sys2Proof.Machine

open Sys2Proof.Machine.Core (Quiet)

/-! ### Runs of a sparse table -/

theorem Tab.getList_eq_map {α : Type} (d : Nat → α) (t : Tab α) (n : Nat) :
    ∀ k, Tab.getList d t k n = (List.range n).map fun i => Tab.get d t (k + i) := by
  induction n with
  | zero => intro k; rfl
  | succ n ih =>
    intro k
    rw [Tab.getList, ih, List.range_succ_eq_map, List.map_cons, List.map_map]
    congr 1
    refine List.map_congr_left fun i _ => ?_
    rw [Function.comp_apply, Nat.succ_eq_add_one]
    congr 1
    omega

/-- A run of values written reads back. -/
theorem Tab.getList_setList {α : Type} [DecidableEq α] (d : Nat → α) (t : Tab α) (k : Nat) (l : List α) :
    Tab.getList d (Tab.setList d t k l) k l.length = l := by
  rw [Tab.getList_eq_map]
  refine List.ext_getElem (by simp) fun i h1 h2 => ?_
  rw [List.getElem_map, List.getElem_range, Tab.get_setList, dif_pos ⟨by omega, by omega⟩]
  congr 1
  omega

/-! ### The nozzle and segment tables (R184) -/

/-- The tables with the word at an offset of the windows set. -/
def Tables.setWord (t : Tables) (off : Nat) (w : Word) : Tables :=
  if off < 0x800000 then { t with nz := Tab.set nzReset t.nz (off / 4) w }
  else { t with seg := Tab.set (fun _ => 0) t.seg ((off - 0x800000) / 4) w }

section
variable (t : Tables) {off : Nat} (w : Word) (h4 : off % 4 = 0)
include h4

theorem Tables.setWord_nz (n : Nat) : Tab.get nzReset (t.setWord off w).nz n =
    if n * 4 = off ∧ off < 0x800000 then w else Tab.get nzReset t.nz n := by
  unfold Tables.setWord
  by_cases h : off < 0x800000
  · have e : n = off / 4 ↔ n * 4 = off := by omega
    simp [h, Tab.get_set, e]
  · simp [h]

theorem Tables.setWord_seg (j : Nat) : Tab.get (fun _ => (0 : Word)) (t.setWord off w).seg j =
    if 0x800000 + j * 4 = off then w else Tab.get (fun _ => 0) t.seg j := by
  unfold Tables.setWord
  by_cases h : off < 0x800000
  · have e : 0x800000 + j * 4 ≠ off := by omega
    simp [h, e]
  · have e : j = (off - 0x800000) / 4 ↔ 0x800000 + j * 4 = off := by omega
    simp [h, Tab.get_set, e]

end

/-- A word of the windows sets the nozzle and segment tables alone. -/
theorem Tables.setWord_rest (t : Tables) (off : Nat) (w : Word) :
    { t with nz := (t.setWord off w).nz, seg := (t.setWord off w).seg } = t.setWord off w := by
  unfold Tables.setWord
  split <;> rfl

/-- A word written while VIEW is set is a violation. -/
theorem Core.tableWrite_view {c : Core} (off v : Nat) (h : c.fb F.NZ_CFG_VIEW = true) :
    c.tableWrite off [v] = c.violate .bar4 off true := by
  simp [Core.tableWrite, h]

/-- The check of the reserved bits of a table entry. -/
def Core.entryNote (c : Core) (off v : Nat) : Core := if v % 4 = 0 then c else c.violate .bar4 off true

theorem Core.entryNote_job (c : Core) (off v : Nat) : (c.entryNote off v).job = c.job := by
  unfold Core.entryNote
  split
  · rfl
  · exact (Core.only_violate c .bar4 off true).job

/-- A word written while VIEW is clear sets the shadow, and is recorded. -/
theorem Core.tableWrite_shadow {c : Core} (off v : Nat) (h : c.fb F.NZ_CFG_VIEW = false) :
    ∃ l, c.tableWrite off [v] =
      ((c.entryNote off v).setShadow (c.job.shadow.setWord off (BitVec.ofNat 32 (v / 4 * 4)))).logRec 8 l := by
  refine ⟨leBytes 4 (off / 4) ++ leBytes 4 1 ++ leBytes 4 v, ?_⟩
  rw [← Core.entryNote_job c off v]
  simp [Core.tableWrite, h, Core.entryNote, Tables.setWord]

/-- What a word written while VIEW is clear comes to: `c` is the core with the reserved bits checked, and `d` the one that has recorded
the write. -/
theorem shadowWord_set (b c : Core) {d : Core} {off : Nat} (w : Word) (h4 : off % 4 = 0) (hj : c.job = b.job)
    (q : Quiet (c.setShadow (b.job.shadow.setWord off w)) d) :
    (∀ n, Tab.get nzReset d.job.shadow.nz n =
      if n * 4 = off ∧ off < 0x800000 then w else Tab.get nzReset b.job.shadow.nz n) ∧
    (∀ j, Tab.get (fun _ => (0 : Word)) d.job.shadow.seg j =
      if 0x800000 + j * 4 = off then w else Tab.get (fun _ => 0) b.job.shadow.seg j) ∧
    Quiet { c with job := { b.job with shadow := { b.job.shadow with nz := d.job.shadow.nz, seg := d.job.shadow.seg } } } d := by
  have hd : d.job.shadow = b.job.shadow.setWord off w := congrArg Job.shadow q.job
  rw [hd]
  refine ⟨Tables.setWord_nz _ w h4, Tables.setWord_seg _ w h4, ?_⟩
  rw [Tables.setWord_rest]
  have shadow : c.setShadow (b.job.shadow.setWord off w) =
      { c with job := { b.job with shadow := b.job.shadow.setWord off w } } := by rw [Core.setShadow, hj]
  exact shadow ▸ q

/-! ### DRAM through the aperture (R351) -/

/-- The host is a requester of class BE (R325). -/
theorem Core.memClass_host (c : Core) : c.memClass 56 = .be := by simp [Core.memClass]

section
variable {c : Core} {pa : Nat} {l : List Byte}

theorem Core.mayReach_top {n : Nat} (h : c.mayReach pa n = true) : pa + n ≤ c.dramTop := by
  simp only [Core.mayReach, Bool.and_eq_true, decide_eq_true_eq] at h
  exact h.1

/-- A run of bytes below C - M is written whole. -/
theorem Core.wr_dram (h : pa + l.length ≤ c.dramTop) :
    (c.wr pa l).mem = { c.mem with dram := Tab.setList (fun _ => 0) c.mem.dram pa l, poison := clearPoison c.mem.poison pa l.length } := by
  have e : l.take (c.dramTop - pa) = l := List.take_of_length_le (by omega)
  simp only [Core.wr, e]

/-- Bytes outside a run that is written stay. -/
theorem Core.wr_other (h : pa + l.length ≤ c.dramTop) {a : Nat} (ha : a < pa ∨ pa + l.length ≤ a) :
    Tab.get (fun _ => (0 : Byte)) (c.wr pa l).mem.dram a = Tab.get (fun _ => 0) c.mem.dram a := by
  rw [Core.wr_dram h, Tab.get_setList, dif_neg (by omega)]

/-- A whole burst that is written is poisoned no more (R574). -/
theorem Core.goodRange_wr (h : pa + l.length ≤ c.dramTop) (ha : pa % 64 = 0) (hl : l.length = 64) :
    (c.wr pa l).goodRange pa 64 = true := by
  have top : (c.wr pa l).dramTop = c.dramTop := rfl
  rw [hl] at h
  simp only [Core.goodRange, top, Core.wr_dram (hl ▸ h), hl, clearPoison, Bool.and_eq_true, decide_eq_true_eq]
  refine ⟨h, List.all_eq_true.mpr fun q hq => ?_⟩
  have out := (List.mem_filter.mp hq).2
  simp only [Bool.not_eq_true', Bool.and_eq_false_iff, decide_eq_false_iff_not] at out ⊢
  omega

/-- A whole burst that is written reads back. -/
theorem Core.rd_wr (h : pa + l.length ≤ c.dramTop) (ha : pa % 64 = 0) (hl : l.length = 64) : (c.wr pa l).rd pa 64 = some l := by
  rw [Core.rd, if_pos (Core.goodRange_wr h ha hl), Core.wr_dram h, ← hl]
  exact congrArg some (Tab.getList_setList ..)

/-- Bytes that a requester may reach, and that are not poisoned, are fetched. -/
theorem Core.fetch_good {n : Nat} (hm : c.mayReach pa n = true) (hr : c.rd pa n = some l) :
    c.fetch pa n = (c.touch pa n false, some l) := by
  simp [Core.fetch, hm, hr]

/-- A whole burst through the aperture is written as it is. -/
theorem Core.apertureWrite_burst (f : Nat) (hm : c.mayReach pa 64 = true) (ha : pa % 64 = 0) (hl : l.length = 64) :
    Core.apertureWrite (f + 2) c pa (l.map some) = (c.wr pa l).touch pa 64 true := by
  have base : pa / 64 * 64 = pa := by omega
  have ne : l ≠ [] := by rintro rfl; simp at hl
  have some_getD : (l.map some).map (·.getD 0) = l := by simp [List.map_map, Function.comp_def]
  have burst : c.burstWrite pa (l.map some) = (c.wr pa l).touch pa 64 true := by
    simp [Core.burstWrite, base, hm, ha, hl, Function.comp_def]
  have take : (l.map some).take 64 = l.map some := List.take_of_length_le (by simp [hl])
  have drop : (l.map some).drop 64 = [] := List.drop_eq_nil_of_le (by simp [hl])
  simp [Core.apertureWrite, ne, ha, take, drop, burst]

/-- The host's access as its requester makes it. -/
theorem Core.byReq_host (c : Core) : c.byReq 56 = { c with mem := { c.mem with last := some (56, .be) } } := by
  rw [Core.byReq, Core.memClass_host]

/-- Who asks changes no register, no byte and no limit. -/
theorem Core.byReq_n64 (r lo : Nat) : (c.byReq r).n64 lo = c.n64 lo := rfl
theorem Core.byReq_mayReach (r a n : Nat) : (c.byReq r).mayReach a n = c.mayReach a n := rfl
theorem Core.byReq_rd (r a n : Nat) : (c.byReq r).rd a n = c.rd a n := rfl
theorem Core.touch_rd (a n b m : Nat) (w : Bool) : (c.touch a n w).rd b m = c.rd b m := rfl

/-- A whole burst written through the aperture, and a good read of it, at the address that the offset `x` names. -/
theorem Core.dramAccess_burst {x : Nat} (hx : c.n64 R.HI_APERTURE_LO / 2 ^ 20 * 2 ^ 20 + x = pa) (hm : c.mayReach pa 64 = true)
    (ha : pa % 64 = 0) (hl : l.length = 64) :
    c.dramAccess x true (l.map some) = ((c.byReq 56).wr pa l).touch pa 64 true := by
  have blocks : (l.map some).length / 64 = 1 := by rw [List.length_map, hl]
  have whole := Core.apertureWrite_burst (c := c.byReq 56) 1 ((Core.byReq_mayReach ..).trans hm) ha hl
  simp only [Core.dramAccess, Core.byReq_n64, hx, if_true, blocks]
  exact whole

theorem Core.dramAccess_read {x : Nat} {data : List (Option Byte)} (hx : c.n64 R.HI_APERTURE_LO / 2 ^ 20 * 2 ^ 20 + x = pa)
    (hm : c.mayReach pa data.length = true) (hr : c.rd pa data.length = some l) :
    c.dramAccess x false data = { (c.byReq 56).touch pa data.length false with
      lastRead := ofLe l, hi := { c.hi with ep := false } } := by
  have fetched := Core.fetch_good ((Core.byReq_mayReach (c := c) 56 ..).trans hm) ((Core.byReq_rd ..).trans hr)
  simp only [Core.dramAccess, Core.byReq_n64, hx, Bool.false_eq_true, if_false, fetched]
  rfl

/-- What the host's burst leaves: it reads back, and beside it the requester's trace alone has changed. -/
theorem Core.burst_effect (h : pa + 64 ≤ c.dramTop) (ha : pa % 64 = 0) (hl : l.length = 64) :
    let d := ((c.byReq 56).wr pa l).touch pa 64 true
    d.rd pa 64 = some l ∧
      (∀ a, a < pa ∨ pa + 64 ≤ a → Tab.get (fun _ => (0 : Byte)) d.mem.dram a = Tab.get (fun _ => 0) c.mem.dram a) ∧
      d = { c with mem := { c.mem with dram := d.mem.dram, poison := d.mem.poison, last := some (56, .be), todo := d.mem.todo } } := by
  have top : pa + l.length ≤ (c.byReq 56).dramTop := hl ▸ h
  refine ⟨?_, fun a out => Core.wr_other top (hl ▸ out), ?_⟩
  · rw [Core.touch_rd]
    exact Core.rd_wr top ha hl
  · rw [Core.byReq_host]
    rfl

/-- What the host's read leaves: the bytes, unmarked, and the requester's trace. -/
theorem Core.read_effect (n v : Nat) :
    let d : Core := { (c.byReq 56).touch pa n false with lastRead := v, hi := { c.hi with ep := false } }
    d = { c with lastRead := v, mem := { c.mem with last := some (56, .be), todo := d.mem.todo }, hi := { c.hi with ep := false } } := by
  rw [Core.byReq_host]
  rfl

end

/-! ### The parts of BAR4 -/

/-- Bytes in little-endian order are a number of as many bytes. -/
theorem ofLe_lt (l : List Byte) : ofLe l < 256 ^ l.length := by
  induction l with
  | nil => decide
  | cons b l ih =>
    have hb := b.isLt
    rw [ofLe, List.length_cons, Nat.pow_succ]
    omega

theorem oneDword_aligned {off : Nat} {data : List (Option Byte)} (h : oneDword off data = true) :
    off % 4 = 0 ∧ data.length = 4 := by
  simp only [oneDword, Bool.and_eq_true, beq_iff_eq] at h
  exact h.1

/-- An aligned word of the windows is served from IDLE on. -/
theorem execTableWrite_served {s : State} {off : BitVec 26} (v : Word) (hb : s.core.st ≠ stBoot) (h4 : off.toNat % 4 = 0)
    (h : off.toNat < 0x820000) : execTableWrite off v s = .next { s with core := s.core.tableWrite off.toNat [v.toNat] } := by
  simp [execTableWrite, hb, h4, h]

section
variable {s : State} (off : BitVec 26) (write : Bool) (data : List (Option Byte)) (hb : s.core.st ≠ stBoot)
include hb

theorem execApertureAccess_dram (h : 0x2000000 ≤ off.toNat) : execApertureAccess off write data s =
    .next { s with core := s.core.dramAccess (off.toNat - 0x2000000) write data } := by
  simp [execApertureAccess, hb, h]

theorem execApertureAccess_lineStore (h : 0x1000000 ≤ off.toNat) (h' : off.toNat < 0x2000000) :
    execApertureAccess off false data s = .next { s with core := { s.core with
      lastRead := ofLe ((List.range data.length).map fun i => s.core.lineStoreByte (off.toNat - 0x1000000 + i)) } } := by
  simp [execApertureAccess, hb, h, Nat.not_le.mpr h']

theorem execApertureAccess_table (h : off.toNat < 0x820000) (hd : oneDword off.toNat data = true) :
    execApertureAccess off write data s = .next { s with core := (if write
      then s.core.tableWrite off.toNat [ofLe (data.map (·.getD 0))] else { s.core with lastRead := s.core.tableRead off.toNat }) } := by
  have h1 : ¬ 0x2000000 ≤ off.toNat := by omega
  have h2 : ¬ 0x1000000 ≤ off.toNat := by omega
  simp [execApertureAccess, hb, h, h1, h2, hd]

theorem execApertureAccess_violation (h : off.toNat < 0x2000000) (h1 : ¬ (0x1000000 ≤ off.toNat ∧ ¬ write))
    (h2 : ¬ (off.toNat < 0x820000 ∧ oneDword off.toNat data = true)) :
    execApertureAccess off write data s = .next { s with core := s.core.bar4Violation off.toNat write } := by
  unfold execApertureAccess
  simp only [hb, Nat.not_le.mpr h, h1, h2, if_false]

end

end Sys2Proof.Machine

namespace Sys2Proof.Proofs

open Sys2Proof.Machine Sys2Proof.Claims

/-- A word through the table windows (R184). -/
theorem tableWritten : TableWritten := by
  intro off v s hb h4 hlt
  have served := execTableWrite_served v hb h4 hlt
  refine ⟨fun view => ⟨_, served, ?_⟩, fun view => ⟨_, served, ?_⟩⟩
  · obtain ⟨l, hl⟩ := Core.tableWrite_shadow off.toNat v.toNat view
    rw [hl]
    exact shadowWord_set _ _ _ h4 (Core.entryNote_job ..) (Core.quiet_logRec ..)
  · rw [Core.tableWrite_view _ _ view]
    exact ⟨Core.violate_count .., Core.only_violate ..⟩

/-- A burst written and bytes read through the aperture (R351). -/
theorem apertureReached : ApertureReached := by
  intro off data s pa hlo hb hm
  refine ⟨fun ha hl => ⟨_, execApertureAccess_dram off true _ hb hlo, ?_⟩,
    fun l hr => ⟨_, execApertureAccess_dram off false _ hb hlo, ?_⟩⟩
  · rw [Core.dramAccess_burst (pa := pa) rfl (hl ▸ hm) ha hl]
    exact Core.burst_effect (hl ▸ Core.mayReach_top hm) ha hl
  · have len : (data.map some).length = data.length := List.length_map _
    rw [Core.dramAccess_read (pa := pa) rfl (len ▸ hm) (len ▸ hr)]
    exact Core.read_effect ..

/-- The parts of BAR4 below the aperture (R24, R350). -/
theorem windowsReached : WindowsReached := by
  intro off data s hb
  refine ⟨fun hlo hhi => ⟨?_, ?_⟩, fun hlt hd => ⟨?_, ?_⟩, fun hlt hn write => ?_⟩
  · exact ⟨_, execApertureAccess_lineStore off data hb hlo hhi, rfl⟩
  · refine ⟨_, execApertureAccess_violation off true data hb hhi (by simp) (by omega), ?_⟩
    exact ⟨Core.violate_count .., Core.only_violate ..⟩
  · exact ⟨_, execApertureAccess_table off false data hb hlt hd, rfl⟩
  · obtain ⟨h4, hlen⟩ := oneDword_aligned hd
    have lt : ofLe (data.map (·.getD 0)) < 2 ^ 32 := by
      have := ofLe_lt (data.map (·.getD 0))
      rwa [List.length_map, hlen] at this
    refine (execApertureAccess_table off true data hb hlt hd).trans (.trans ?_ (execTableWrite_served _ hb h4 hlt).symm)
    rw [BitVec.toNat_ofNat, Nat.mod_eq_of_lt lt, if_pos rfl]
  · refine ⟨_, execApertureAccess_violation off write data hb (by omega) (by omega) hn, ?_⟩
    obtain ⟨count, -, read, only⟩ := Core.violation_answer s.core .bar4 off.toNat write
    exact ⟨count, read, only⟩

/-- Settles O9, window by window. -/
theorem tablesReached : Obligations.TablesReached := ⟨tableWritten, apertureReached, windowsReached⟩

end Sys2Proof.Proofs
end

section
/-!
SUPPORT. The comparison of the heads with their LIMIT (spec/11_head_health.md R304) in a state whose head map names a head number beyond
the 1,024 of R299: its HH_THETA offset is then that of a register which the device writes for another purpose.
-/

namespace Sys2Proof.Machine

/-- A HEAD_LIMIT_TICK that is due compares every head of the map. -/
theorem exec_headLimitTick_due {s : State} (h : s.core.ticks.limit ≤ s.core.now) :
    exec .headLimitTick s = .next { s with core := s.core.limitCheckAll (s.core.web.s + 2) } := by
  show execHeadLimitTick s = _
  rw [execHeadLimitTick, if_pos h]

/-- The head number whose HH_THETA would lie at the counter of posted events, PERF counter 201. -/
def overlapHead : Nat := (R.PERF_CNT 201 - R.HH_THETA 0) / 4

/-- A run of the head map with one nozzle of ink 0, on a head. -/
def oneNozzleRun (h : Nat) : MapRun :=
  { start := 0, cstep2 := false, count := 1, idir := false, hg := 0, iStart := 0, head := h, rsv := false }

/-- The reset state with a LIMIT of 0 on bar 0, so that head 0 at temperature 0 stands at it, the counter of posted events at 0xFFFF, and
a map that names head 0 and `overlapHead`, which therefore reads -1. -/
def overlapState : State :=
  { State.reset with core := { (State.reset.core.setF (F.HH_BAR_TEMP_LIMIT 0) 0).setN (R.PERF_CNT 201) 0xFFFF with
      job := { State.reset.core.job with
        force := { tabs := { map := [oneNozzleRun 0, oneNozzleRun overlapHead] } } } } }

/-- The comparison is due. -/
theorem overlapState_due : overlapState.core.ticks.limit ≤ overlapState.core.now := by decide

/-- The map names `overlapHead`, on bar 0. -/
theorem overlapState_head :
    overlapHead ∈ overlapState.core.newest.heads ∧ overlapState.core.newest.headBar overlapHead = some 0 := by decide +kernel

/-- Before the comparison the head is below its LIMIT, and not blanked. -/
theorem overlapState_below : overlapState.core.theta overlapHead < overlapState.core.fs (F.HH_BAR_TEMP_LIMIT 0) ∧
    (overlapState.core.head overlapHead).blankTemp = false := by decide +kernel

/-- The 0x0802 of head 0 counts in PERF counter 201, so the head is no longer below its LIMIT when its turn comes: it is blanked. -/
theorem overlapState_blanked :
    ((overlapState.core.limitCheckAll (overlapState.core.web.s + 2)).head overlapHead).blankTemp = true := by decide +kernel

end Sys2Proof.Machine

namespace Sys2Proof.Proofs

open Sys2Proof.Machine Sys2Proof.Claims

/-- What is claimed of a command that changes the core alone holds of the core that `exec` answers. -/
theorem runs_core {i : Instr} {s : State} {P : Core → Prop} {c : Core} (h : Claims.Runs i s P)
    (e : exec i s = .next { s with core := c }) : P c := by
  obtain ⟨d, hd, hP⟩ := h
  have same : c = d := congrArg State.core (Host.Outcome.next.inj (e.symm.trans hd))
  exact same ▸ hP

/-- Settles O3: the units are read off the reset state, and no register or table has been written. -/
theorem resetState : Obligations.ResetState := by
  unfold Obligations.ResetState
  have fields : State.reset.core.st = stBoot ∧ State.reset.core.timeState = 0 ∧ State.reset.core.timeInc = 10 * 2 ^ 32 ∧
      ∀ n, n < 8 → State.reset.core.fb (F.SQ_CFG_EN n) = false := by decide
  obtain ⟨boot, free, inc, disabled⟩ := fields
  exact ⟨boot, rfl, free, inc, fun _ => rfl, fun _ => rfl, disabled, rfl, rfl, rfl, rfl⟩

/-- Refutes O29: the clause of HEAD_LIMIT_TICK compares each head's temperature before the command, for every head number of the map, but
`MapRun.head` is unbounded. In `overlapState` the map names a head whose HH_THETA would be PERF counter 201: it is below its LIMIT
before the command, and blanked by it, because the blank of head 0 posts an event. (NOZZLE_MAP_LOAD decodes numbers below 1,024 alone,
R164; the clause lacks that premise.) -/
theorem not_headsKept : ¬ Obligations.HeadsKept := by
  unfold Obligations.HeadsKept
  rintro ⟨blanked, -⟩
  obtain ⟨-, tick, -⟩ := blanked overlapState
  obtain ⟨-, -, -, heads⟩ := runs_core (tick overlapState_due) (exec_headLimitTick_due overlapState_due)
  obtain ⟨named, onBar⟩ := overlapState_head
  obtain ⟨below, clear⟩ := overlapState_below
  have kept := (heads overlapHead 0 named onBar).2 below
  rw [overlapState_blanked, clear] at kept
  exact Bool.noConfusion kept

end Sys2Proof.Proofs
end

section
/-!
SUPPORT. The frame of a nib's work (spec/07_run_ahead_pipeline.md): what the bookkeeping of the nibs, of the ink-lines under way and of the
defect records leaves as it was.
-/

namespace Sys2Proof.Machine

/-! ### Events only ever grow -/

/-- The events posted before stand, with new ones on top. -/
def Core.Grows (c d : Core) : Prop := ∃ l, d.posted = l ++ c.posted

namespace Core.Grows

variable {b c d : Core}

theorem same (h : d.posted = c.posted) : Core.Grows c d := ⟨[], h⟩

theorem refl (c : Core) : Core.Grows c c := same rfl

theorem trans (h : Core.Grows b c) (g : Core.Grows c d) : Core.Grows b d := by
  obtain ⟨l, hl⟩ := h
  obtain ⟨m, hm⟩ := g
  exact ⟨m ++ l, by rw [hm, hl, List.append_assoc]⟩

theorem post (c : Core) (code src data : Nat) : Core.Grows c (c.post code src data) := (Core.quiet_post c code src data).posted

theorem eachOf {α : Type} {op : α → Core → Core} (l : List α) (h : ∀ a d, Core.Grows d (op a d)) :
    ∀ c, Core.Grows c (c.eachOf l op) := by
  induction l with
  | nil => exact refl
  | cons a l ih => exact fun c => (h a c).trans (ih _)

theorem each {op : Nat → Core → Core} (n : Nat) (h : ∀ i d, Core.Grows d (op i d)) (c : Core) : Core.Grows c (c.each n op) :=
  eachOf (List.range n) h c

end Core.Grows

/-- An event posted between two cores. -/
theorem posts_of_post {b c d : Core} {code src data : Nat} (h : Core.Grows b c) (g : Core.Grows (c.post code src data) d) :
    Claims.Posts b d code src data := by
  obtain ⟨m, hm⟩ := h
  obtain ⟨l, hl⟩ := g
  obtain ⟨k, hk⟩ := Core.posted_postRec c ⟨c.t32, c.web.s % 2 ^ 48, noLine, c.webPos, code, src, data % 2 ^ 32⟩
  exact ⟨l ++ k, _, m, by rw [hl, Core.post, Core.postAt, hk, hm, List.append_assoc], rfl, rfl, rfl⟩

/-- What is posted in between is posted. -/
theorem posts_within {a b c d : Core} {code src data : Nat} (h : Core.Grows a b) (p : Claims.Posts b c code src data)
    (g : Core.Grows c d) : Claims.Posts a d code src data := by
  obtain ⟨k, hk⟩ := h
  obtain ⟨l, e, m, hp, is⟩ := p
  obtain ⟨n, hn⟩ := g
  exact ⟨n ++ l, e, m ++ k, by rw [hn, hp, hk]; simp only [List.append_assoc], is⟩

/-! ### The frame -/

/-- The registers that a nib's work and its bookkeeping may write whole: those of recording and reporting, of the comparators, the
pixel path's counters, the cameras and the memory, the totals of the nibs, UMP_STAT, the count of abandoned audits and NIBn_DONE. -/
def sideOff (o : Nat) : Bool :=
  logOff o || [2, 5, 6, 9, 0xC].contains (o / 0x10000) || [R.NIB_STAT, R.UMP_STAT, R.UMP_AUDIT_ABANDON_CNT].contains o ||
    (decide (0x70404 ≤ o) && decide (o < 0x70644) && o % 0x20 == 4)

/-- The fields that this work leaves: those of the other registers, of NIBn_STAT those below INFLIGHT. -/
def steady (x : Fld) : Bool :=
  !sideOff x.off && (decide (x.lo + x.wid ≤ 16) || !(decide (0x70400 ≤ x.off) && decide (x.off < 0x70640)))

/-- `d` differs from `c` by a nib's work and its bookkeeping alone, and by the registers of a list: web, bars, heads, job, completion
bits and lost slices are as they were. -/
structure Core.Beside (l : List Nat) (c d : Core) : Prop where
  web : d.web = c.web
  bars : d.bars = c.bars
  heads : d.heads = c.heads
  job : d.job = c.job
  done : d.pipe.done = c.pipe.done
  lost : d.ump.lost = c.ump.lost
  flds : ∀ x, steady x = true → x.off ∉ l → d.f x = c.f x
  posted : Core.Grows c d

theorem sideOff_nibDone {n : Nat} (h : n < 18) : sideOff (R.NIBN_DONE n) = true := by
  have range : 0x70404 ≤ R.NIBN_DONE n ∧ R.NIBN_DONE n < 0x70644 ∧ R.NIBN_DONE n % 0x20 = 4 := by
    unfold R.NIBN_DONE; omega
  simp [sideOff, range]

theorem sideOff_block {o b : Nat} (h : o / 0x10000 = b) (hb : [2, 5, 6, 9, 0xC].contains b = true) : sideOff o = true := by
  simp only [sideOff, h, hb, Bool.or_true, Bool.true_or]

theorem sideOff_cmpPulses {m : Nat} (h : m < 16) : sideOff (R.CMP_PULSES m) = true :=
  sideOff_block (b := 2) (by unfold R.CMP_PULSES; omega) rfl

theorem sideOff_cmpStatus {m : Nat} (h : m < 16) : sideOff (R.CMP_STATUS m) = true :=
  sideOff_block (b := 2) (by unfold R.CMP_STATUS; omega) rfl

theorem sideOff_cmpLastT32 {m : Nat} (h : m < 16) : sideOff (R.CMP_LAST_T32 m) = true :=
  sideOff_block (b := 2) (by unfold R.CMP_LAST_T32; omega) rfl

theorem sideOff_camFn {n : Nat} (h : n < 4) : sideOff (R.CAM_FN n) = true :=
  sideOff_block (b := 9) (by unfold R.CAM_FN; omega) rfl

/-- STATE and SLICE of a nib are steady. -/
theorem steady_nibStat {n lo wid : Nat} (h : n < 18) (hw : lo + wid ≤ 16) : steady ⟨R.NIBN_STAT n, lo, wid⟩ = true := by
  have range : 0x70400 ≤ R.NIBN_STAT n ∧ R.NIBN_STAT n < 0x70640 ∧ R.NIBN_STAT n % 0x20 = 0 := by unfold R.NIBN_STAT; omega
  have side : sideOff (R.NIBN_STAT n) = false := by
    generalize R.NIBN_STAT n = o at range
    simp [sideOff, logOff, R.EV_TAIL, R.EV_DROP_CNT, R.EV_DEFECT_DROP_CNT, R.UMP_EVS_LOST_CNT, R.UMP_EVS_WR, R.NIB_STAT,
      R.UMP_STAT, R.UMP_AUDIT_ABANDON_CNT]
    omega
  simp only [steady, side, hw, decide_true, Bool.not_false, Bool.true_or, Bool.and_self]

namespace Core.Beside

variable {l : List Nat} {b c d : Core}

theorem refl (l : List Nat) (c : Core) : Core.Beside l c c := ⟨rfl, rfl, rfl, rfl, rfl, rfl, fun _ _ _ => rfl, .refl c⟩

theorem trans (h : Core.Beside l b c) (g : Core.Beside l c d) : Core.Beside l b d where
  web := g.web.trans h.web
  bars := g.bars.trans h.bars
  heads := g.heads.trans h.heads
  job := g.job.trans h.job
  done := g.done.trans h.done
  lost := g.lost.trans h.lost
  flds := fun x hs hx => (g.flds x hs hx).trans (h.flds x hs hx)
  posted := h.posted.trans g.posted

/-- What admits more registers is met by what admits fewer. -/
theorem more {l' : List Nat} (h : Core.Beside l c d) (le : l ⊆ l') : Core.Beside l' c d :=
  { h with flds := fun x hs hx => h.flds x hs fun hm => hx (le hm) }

theorem widen (h : Core.Beside [] c d) (l : List Nat) : Core.Beside l c d := h.more (List.nil_subset l)

/-- State outside the frame changes, and no register. -/
theorem state (same : (d.regs, d.web, d.bars, d.heads, d.job, d.pipe.done, d.ump.lost, d.posted) =
    (c.regs, c.web, c.bars, c.heads, c.job, c.pipe.done, c.ump.lost, c.posted)) : Core.Beside l c d := by
  simp only [Prod.mk.injEq] at same
  obtain ⟨regs, web, bars, heads, job, done, lost, posted⟩ := same
  exact ⟨web, bars, heads, job, done, lost, fun x _ _ => by unfold Core.f Core.n Core.r; rw [regs], .same posted⟩

/-- Recording and reporting. -/
theorem quiet (h : Core.Quiet c d) : Core.Beside l c d where
  web := h.web
  bars := h.bars
  heads := h.heads
  job := h.job
  done := by rw [h.pipe]
  lost := by rw [h.ump]
  flds := fun x hs _ => h.f x (by
    simp only [steady, sideOff, Bool.and_eq_true, Bool.not_eq_true', Bool.or_eq_false_iff] at hs
    exact hs.1.1.1.1)
  posted := h.posted

/-- A register is written, of which the frame's fields are as they were. -/
theorem write (c : Core) {o : Nat} (w : Word) (kept : ∀ x, steady x = true → x.off ∉ l → (c.setR o w).f x = c.f x) :
    Core.Beside l c (c.setR o w) where
  web := rfl
  bars := rfl
  heads := rfl
  job := rfl
  done := rfl
  lost := rfl
  flds := kept
  posted := .same (Core.setR_posted ..)

/-- A register is written that the frame admits. -/
theorem setR (c : Core) {o : Nat} (w : Word) (ho : sideOff o = true ∨ o ∈ l) : Core.Beside l c (c.setR o w) :=
  write c w fun x hs hx => Core.f_setR_ne c w (by
    rintro rfl
    rcases ho with ho | ho
    · simp [steady, ho] at hs
    · exact hx ho)

theorem side (c : Core) {o : Nat} (w : Word) (ho : sideOff o = true) : Core.Beside l c (c.setR o w) := setR c w (.inl ho)

theorem inc (c : Core) (o : Nat) (ho : sideOff o = true ∨ o ∈ l) : Core.Beside l c (c.inc o) := setR c _ ho

theorem field (c : Core) {x : Fld} (v : Nat) (ho : sideOff x.off = true ∨ x.off ∈ l) : Core.Beside l c (c.setF x v) := setR c _ ho

/-- INFLIGHT of a nib is written. -/
theorem inflight (c : Core) {n : Nat} (v : Nat) (h : n < 18) : Core.Beside l c (c.setF (F.NIBN_STAT_INFLIGHT n) v) :=
  write c _ fun x hs _ => Core.f_setF_other c v (by
    simp only [steady, Bool.and_eq_true, Bool.or_eq_true, Bool.not_eq_true', Bool.and_eq_false_iff, decide_eq_true_eq,
      decide_eq_false_iff_not, F.NIBN_STAT_INFLIGHT, R.NIBN_STAT] at hs ⊢
    omega)

theorem post (c : Core) (code src data : Nat) : Core.Beside l c (c.post code src data) := quiet (Core.quiet_post ..)

theorem perf (c : Core) {i : Nat} (h : i < 256) : Core.Beside l c (c.perf i) := quiet (Core.quiet_perf c i h)

theorem ite {p : Prop} [Decidable p] {d e : Core} (hd : Core.Beside l c d) (he : Core.Beside l c e) :
    Core.Beside l c (if p then d else e) := by split <;> assumption

theorem foldl {α : Type} {f : Core → α → Core} (as : List α) (h : ∀ a ∈ as, ∀ d, Core.Beside l d (f d a)) :
    ∀ c, Core.Beside l c (as.foldl f c) := by
  induction as with
  | nil => exact refl l
  | cons a as ih => exact fun c => (h a List.mem_cons_self c).trans (ih (fun x hx => h x (List.mem_cons_of_mem _ hx)) _)

theorem eachOf {α : Type} {op : α → Core → Core} (as : List α) (h : ∀ a ∈ as, ∀ d, Core.Beside l d (op a d)) (c : Core) :
    Core.Beside l c (c.eachOf as op) := foldl as h c

theorem each {op : Nat → Core → Core} (n : Nat) (h : ∀ i, i < n → ∀ d, Core.Beside l d (op i d)) (c : Core) :
    Core.Beside l c (c.each n op) :=
  eachOf (List.range n) (fun i hi => h i (List.mem_range.mp hi)) c

/-! What the frame says of the device. -/

/-- A register of which the frame keeps the whole. -/
theorem n (h : Core.Beside l c d) (o : Nat) (hs : steady ⟨o, 0, 32⟩ = true) (ho : o ∉ l) : d.n o = c.n o := by
  have whole (e : Core) : e.f ⟨o, 0, 32⟩ = e.n o := by
    simp only [Core.f, bits, Nat.pow_zero, Nat.div_one]
    exact Nat.mod_eq_of_lt (Core.n_lt e o)
  rw [← whole, ← whole]
  exact h.flds _ hs ho

theorem r (h : Core.Beside l c d) (o : Nat) (hs : steady ⟨o, 0, 32⟩ = true) (ho : o ∉ l) : d.r o = c.r o :=
  BitVec.eq_of_toNat_eq (h.n o hs ho)

theorem st (h : Core.Beside l c d) (ho : R.DEV_STATE ∉ l) : d.st = c.st := h.flds F.DEV_STATE_STATE (by decide) ho

theorem nibState (h : Core.Beside l c d) {m : Nat} (hm : m < 18) (ho : R.NIBN_STAT m ∉ l) : d.nibState m = c.nibState m :=
  h.flds (F.NIBN_STAT_STATE m) (steady_nibStat hm (by decide)) ho

theorem isDone (h : Core.Beside l c d) (s part k : Nat) : d.isDone s part k = c.isDone s part k := by
  unfold Core.isDone; rw [h.done]

end Core.Beside

open Sys2Proof.Machine.Core (Beside Grows)

/-! ### What a nib takes next -/

section
variable (c : Core) (n : Nat)

theorem Core.beside_setNib (v : Nib) : Beside [] c (c.setNib n v) := .state (by rfl)

theorem Core.beside_dropAudit (a : Audit) : Beside [] c (c.dropAudit a) := by
  have erased : Beside [] c { c with ump := { c.ump with audits := c.ump.audits.erase a } } := .state (by rfl)
  exact .ite (erased.trans (Core.beside_setNib ..)) erased

theorem Core.beside_abandonAudit (a : Audit) (next : Nat) : Beside [] c (c.abandonAudit a next) := by
  unfold Core.abandonAudit
  refine (Core.beside_dropAudit c a).trans (Beside.trans ?_ (.inc _ _ (.inl (by decide))))
  exact .state (by rfl)

theorem Core.beside_freePlace : Beside [] c (c.freePlace n) := by
  unfold Core.freePlace
  split
  · exact .ite (Core.beside_abandonAudit ..) (.refl _ c)
  · exact .refl _ c

theorem Core.beside_takeInk (s p k : Nat) : Beside [] c (c.takeInk n s p k) := Core.beside_setNib ..

theorem Core.beside_takeAudit (a : Audit) : Beside [] c (c.takeAudit n a) := by
  unfold Core.takeAudit
  refine Beside.trans ?_ (Core.beside_setNib ..)
  exact .state (by rfl)

theorem Core.beside_nibFill : Beside [] c (c.nibFill n) := by
  unfold Core.nibFill
  refine .ite ((Core.beside_freePlace c n).trans ?_) (.refl _ c)
  extract_lets full audit
  split
  · exact .ite (Core.beside_takeInk ..) (Core.beside_takeAudit ..)
  · exact Core.beside_takeInk ..
  · exact Core.beside_takeAudit ..
  · exact Core.beside_takeAudit ..
  · exact Core.beside_setNib ..

theorem Core.beside_nibFillAll : Beside [] c c.nibFillAll := .each 18 (fun i _ d => Core.beside_nibFill d i) c

theorem Core.beside_inflightSync : Beside [] c c.inflightSync :=
  (Beside.each 18 (fun _ hi d => Beside.inflight d _ hi) c).trans (.field _ _ (.inl (by decide)))

theorem Core.beside_spareSync : Beside [] c c.spareSync :=
  (Beside.field c _ (.inl (by decide))).trans (.field _ _ (.inl (by decide)))

theorem Core.beside_health : Beside [] c c.health := by
  unfold Core.health
  exact .ite (.refl _ c) (.ite (.refl _ c) ((Beside.field c _ (.inl (by decide))).trans (.post ..)))

theorem Core.beside_chargeNib (c0 c1 : Nat) : Beside [] c (c.chargeNib n c0 c1) := Core.beside_setNib ..

/-- Every nib leaves its work. -/
theorem Core.beside_nibsStop : Beside [] c c.nibsStop := .each 18 (fun _ _ d => Core.beside_setNib d _ _) c

end

/-! ### Defect records and their marks -/

section
variable (c : Core) {m : Nat} (hm : m < 16)

theorem Core.beside_camTrigger : Beside [] c (c.camTrigger m) := by
  refine .each 4 (fun n hn d => .ite (Beside.trans ?_ (.side _ _ (sideOff_camFn hn))) (.refl _ d)) c
  exact .state (by rfl)

include hm

/-- CMPm_STATUS is written. -/
theorem Core.beside_cmpStatus {x : Fld} (v : Nat) (hx : x.off = R.CMP_STATUS m) : Beside [] c (c.setF x v) :=
  .field c v (.inl (by rw [hx]; exact sideOff_cmpStatus hm))

theorem Core.beside_cmpPulse : Beside [] c (c.cmpPulse m) := by
  unfold Core.cmpPulse
  extract_lets d w v e g
  have counted : Beside [] c d := (Beside.inc c _ (.inl (sideOff_cmpPulses hm))).trans (.perf _ (by decide))
  clear_value d
  have timed : Beside [] d e := .state (by rfl)
  clear_value e
  have driven : Beside [] e g := (Core.beside_cmpStatus e hm _ rfl).trans (.side _ _ (sideOff_cmpLastT32 hm))
  exact counted.trans (.ite (.refl _ d) (.ite (Core.beside_cmpStatus d hm _ rfl)
    ((timed.trans driven).trans (Core.beside_camTrigger g))))

theorem Core.beside_cmpSync : Beside [] c (c.cmpSync m) := by
  have level := Core.beside_cmpStatus c hm (x := F.CMP_STATUS_FIFO_LEVEL m) (c.cmp m).queue.length rfl
  exact .ite (level.trans (Core.beside_cmpStatus _ hm _ rfl)) level

theorem Core.beside_cmpErrSync : Beside [] c (c.cmpErrSync m) := Core.beside_cmpStatus c hm _ rfl

theorem Core.beside_cmpNext (issued : Bool) : Beside [] c (c.cmpNext m issued) := by
  have set (v : Cmp) : Beside [] c (c.setCmp m v) := .state (by rfl)
  have off (v : Cmp) : Beside [] c ((c.setCmp m v).setB (F.CMP_STATUS_ARMED m) false) :=
    (set v).trans (Core.beside_cmpStatus _ hm _ rfl)
  exact .ite ((set _).trans (Core.beside_cmpSync _ hm)) (.ite (.ite (off _) (set _)) (off _))

theorem Core.beside_cmpJudge (k : Nat) : ∀ c : Core, Beside [] c (Core.cmpJudge k c m) := by
  induction k with
  | zero => exact Beside.refl []
  | succ k ih =>
    intro c
    unfold Core.cmpJudge
    split
    · exact .refl _ c
    · refine .ite ?_ (.ite ?_ (.refl _ c))
      · exact ((Core.beside_cmpPulse c hm).trans (Core.beside_cmpNext _ hm _)).trans (ih _)
      · extract_lets low late d
        have judged : Beside [] c d := .ite ((Core.beside_cmpPulse c hm).trans (.post ..))
          (((Core.beside_cmpStatus c hm _ rfl).trans (.perf _ (by decide))).trans (.post ..))
        exact (judged.trans (Core.beside_cmpNext _ hm _)).trans (ih _)

theorem Core.beside_cmpJudgeAll : Beside [] c (c.cmpJudgeAll m) := .ite (Core.beside_cmpJudge hm _ c) (.refl _ c)

theorem Core.beside_cmpArm (t : Int) : Beside [] c (c.cmpArm m t) := by
  have set (v : Cmp) : Beside [] c (c.setCmp m v) := .state (by rfl)
  have queued (v : Cmp) : Beside [] c ((c.setCmp m v).cmpSync m) := (set v).trans (Core.beside_cmpSync _ hm)
  refine .ite (.refl _ c) (.ite (.ite ?_ (.ite ?_ (queued _))) (.ite ?_ ?_))
  · exact (Core.beside_cmpStatus c hm _ rfl).trans (.post ..)
  · exact (queued _).trans (Core.beside_cmpJudgeAll _ hm)
  · exact Core.beside_cmpErrSync c hm
  · exact (((set _).trans (Core.beside_cmpErrSync _ hm)).trans (Core.beside_cmpStatus _ hm _ rfl)).trans
      (Core.beside_cmpJudgeAll _ hm)

end

section
variable (c : Core)

theorem Core.beside_markPush (pos : Int) : Beside [] c (c.markPush pos) :=
  .each 16 (fun _ hm d => .ite (Core.beside_cmpArm d hm _) (.refl _ d)) c

theorem Core.beside_defect (code src line : Nat) (pos : Int) (span : Nat) : Beside [] c (c.defect code src line pos span) := by
  unfold Core.defect
  extract_lets d
  have posted : Beside [] c d := .quiet (Core.quiet_postRec ..)
  split
  · exact .ite (posted.trans (Core.beside_markPush ..)) posted
  · exact posted

theorem Core.beside_unsampled (bar l0 l1 : Nat) : Beside [] c (c.unsampled bar l0 l1) :=
  .ite (.refl _ c) (.each _ (fun _ _ _ => .state (by rfl)) c)

theorem Core.beside_defectLines (code src l0 l1 : Nat) : Beside [] c (c.defectLines code src l0 l1) :=
  Beside.trans (.ite (Core.beside_unsampled ..) (.refl _ c)) (Core.beside_defect ..)

theorem Core.beside_auditSuspect (suspect : Nat) : Beside [] c (c.auditSuspect suspect) :=
  .each 16 (fun _ _ d => .ite (.ite (Core.beside_defectLines ..) (.refl _ d)) (.refl _ d)) c

end

end Sys2Proof.Machine
end

section
/-!
SUPPORT. What the isolation of a hot spare writes, and what it leaves (spec/18_fault_tolerance.md R476).
-/

namespace Sys2Proof.Machine

open Sys2Proof.Machine.Core (Beside Grows)

/-! ### The isolation of a hot spare -/

section
variable (c : Core)

/-- A decision writes its two registers, and reports. -/
theorem Core.beside_isolated (mech cls idx : Nat) :
    Beside [R.UMP_DECISION, R.UMP_DECISION_CNT] c (c.isolated mech cls idx) := by
  unfold Core.isolated
  refine Beside.trans (Beside.trans ?_ (.inc _ _ (.inr (by decide)))) (.post ..)
  exact (Beside.setR c _ (.inr (by decide))).trans (.quiet (Core.quiet_logRec ..))

theorem Core.isolated_count (mech cls idx : Nat) :
    (c.isolated mech cls idx).r R.UMP_DECISION_CNT = c.r R.UMP_DECISION_CNT + 1 := by
  have kept : (c.decision mech cls idx).r R.UMP_DECISION_CNT = c.r R.UMP_DECISION_CNT :=
    (Core.logRec_r _ _ _ _ (by decide)).trans (Core.r_setR_ne c _ (by decide))
  have posted := Core.post_r ((c.decision mech cls idx).inc R.UMP_DECISION_CNT) R.UMP_DECISION_CNT 0x0D01 31
    (mech * 65536 + cls * 256 + idx) (by decide)
  exact posted.trans ((Core.r_setR_same ..).trans (congrArg (· + 1) kept))

theorem Core.isolated_decision (mech cls idx : Nat) :
    (c.isolated mech cls idx).r R.UMP_DECISION = BitVec.ofNat 32 (mech + cls * 256 + idx * 65536) := by
  have noted : (c.decision mech cls idx).r R.UMP_DECISION = BitVec.ofNat 32 (mech + cls * 256 + idx * 65536) :=
    (Core.logRec_r _ _ _ _ (by decide)).trans (Core.r_setR_same ..)
  have posted := Core.post_r ((c.decision mech cls idx).inc R.UMP_DECISION_CNT) R.UMP_DECISION 0x0D01 31
    (mech * 65536 + cls * 256 + idx) (by decide)
  exact posted.trans ((Core.r_setR_ne _ _ (by decide)).trans noted)

theorem Core.isolated_posts (mech cls idx : Nat) :
    Claims.Posts c (c.isolated mech cls idx) 0x0D01 31 (mech * 65536 + cls * 256 + idx) := by
  have decided : Grows c (c.decision mech cls idx) :=
    Grows.trans (.same (Core.setR_posted ..)) (Core.quiet_logRec ..).posted
  exact posts_of_post (c := (c.decision mech cls idx).inc R.UMP_DECISION_CNT) (decided.trans (.same (Core.setR_posted ..)))
    (.refl _)

/-- The isolation switch of a nib opened. -/
def Core.cutNib (n : Nat) : Core := c.setF F.UMP_ISOL_NIB_NIB (setBits (c.f F.UMP_ISOL_NIB_NIB) n 1 1)

/-- A nib set OPEN, with no slice. -/
def Core.openNib (n : Nat) : Core := (c.setF (F.NIBN_STAT_STATE n) 3).setF (F.NIBN_STAT_SLICE n) 31

/-- The isolation of a hot spare: its switch opened and the decision recorded, the records of a failed audit, then the nib OPEN; the
rest is bookkeeping. -/
theorem Core.isolateNib_spare {c : Core} {n : Nat} (mech : Nat) (spare : c.nibState n = 0) :
    ∃ b, Beside [] ((c.cutNib n).isolated mech 0 n) b ∧ Beside [] (b.openNib n) (c.isolateNib n mech) := by
  unfold Core.isolateNib
  extract_lets state slice last suspect c1 c2 bad untrusted final todo c3 c4 c5 c6 c7 c8 ump c9 ump' c10
  have idle : state = 0 := spare
  have c4_eq : c4 = c2 := if_neg (by rw [idle]; decide)
  have c10_eq : c10 = c9 := (if_neg (by rw [idle]; decide)).trans (if_neg (by rw [idle]; decide))
  rw [if_neg (by rw [idle]; decide), c10_eq]
  refine ⟨c5, ?_, ?_⟩
  · show Beside [] c2 c5
    rw [← c4_eq]
    clear_value c4 suspect
    cases suspect with
    | some t => exact Core.beside_auditSuspect c4 t
    | none => exact .refl _ c4
  · clear_value c5
    have dropped : Beside [] (c5.openNib n) c7 := .eachOf _ (fun _ _ d => Core.beside_dropAudit d _) c6
    clear_value c7
    have emptied : Beside [] c7 c8 := Core.beside_setNib ..
    clear_value c8
    have counted : Beside [] c8 c9 := Beside.trans (.state (by rfl)) (Core.beside_spareSync _)
    clear_value c9
    exact (((((dropped.trans emptied).trans counted).trans (Core.beside_nibFillAll _)).trans (Core.beside_inflightSync _)).trans
      (Core.beside_health _))

theorem Core.beside_cutNib (n : Nat) : Beside [R.UMP_ISOL_NIB] c (c.cutNib n) := .field c _ (.inr List.mem_cons_self)

theorem Core.beside_openNib (n : Nat) : Beside [R.NIBN_STAT n] c (c.openNib n) :=
  (Beside.field c (x := F.NIBN_STAT_STATE n) 3 (.inr List.mem_cons_self)).trans
    (.field _ (x := F.NIBN_STAT_SLICE n) 31 (.inr List.mem_cons_self))

/-- The switch that has been opened shows. -/
theorem Core.cutNib_bit {n : Nat} (h : n < 18) : bit ((c.cutNib n).f F.UMP_ISOL_NIB_NIB) n = true := by
  have testBit (v : Nat) : bit v n = v.testBit n := by
    rw [Nat.testBit_eq_decide_div_mod_eq]
    rfl
  rw [Core.cutNib, Core.f_setF_same _ _ (by decide), testBit, Nat.testBit_mod_two_pow, setBits_testBit]
  simp [F.UMP_ISOL_NIB_NIB, h]

theorem Core.openNib_nibState (n : Nat) : (c.openNib n).nibState n = 3 := by
  rw [Core.nibState, Core.openNib, Core.f_setF_other _ _ (.inr (.inl (by decide : 0 + 2 ≤ 8))),
    Core.f_setF_same _ _ (by decide : 0 + 2 ≤ 32)]
  rfl

theorem Core.openNib_slice (n : Nat) : (c.openNib n).f (F.NIBN_STAT_SLICE n) = 31 := by
  rw [Core.openNib, Core.f_setF_same _ _ (by decide : 8 + 5 ≤ 32)]
  rfl

end

theorem exec_nibFault (n : Fin 18) (mech : BitVec 8) (s : State) :
    exec (.nibFault n mech) s = .next { s with core := s.core.isolateNib n mech.toNat } := rfl

/-- A nib's missed heartbeat is its fault with MECH 3. -/
theorem exec_nibHeartbeatMiss_nib (n : Fin 18) (s : State) :
    exec (.nibHeartbeatMiss false n) s = .next { s with core := s.core.isolateNib n (3 : BitVec 8).toNat } := by
  have mech : (3 : BitVec 8).toNat = 3 := rfl
  show execNibHeartbeatMiss false n s = _
  simp only [execNibHeartbeatMiss, Bool.false_eq_true, if_false, mech]

/-- A register outside the nibs' range is no NIBn_STAT. -/
theorem not_nibStat {o n : Nat} (hn : n < 18) (ho : o < 0x70400 ∨ 0x70640 ≤ o) : o ∉ [R.NIBN_STAT n] := by
  rw [List.mem_singleton]
  unfold R.NIBN_STAT
  omega

/-- NIBm_STAT is neither a register beyond the nibs' range nor another nib's. -/
theorem nibStat_notMem {l : List Nat} {m n : Nat} (hm : m < 18) (hl : ∀ o ∈ l, 0x70640 ≤ o) (ne : m ≠ n) :
    R.NIBN_STAT m ∉ l ++ [R.NIBN_STAT n] := by
  rw [List.mem_append, List.mem_singleton]
  rintro (h | h)
  · have := hl _ h
    unfold R.NIBN_STAT at this
    omega
  · unfold R.NIBN_STAT at h
    omega

end Sys2Proof.Machine

namespace Sys2Proof.Proofs

open Sys2Proof.Machine Sys2Proof.Claims
open Sys2Proof.Machine.Core (Beside Grows)

/-- A spare found faulty is isolated (R205, R476). -/
theorem spareIsolated : SpareIsolated := by
  intro n mech s i spare hi
  have runs : exec i s = .next { s with core := s.core.isolateNib n mech.toNat } := by
    rcases hi with rfl | ⟨rfl, rfl⟩
    · exact exec_nibFault ..
    · exact exec_nibHeartbeatMiss_nib ..
  refine ⟨_, runs, ?_⟩
  have hn := n.isLt
  obtain ⟨b, records, rest⟩ := Core.isolateNib_spare mech.toNat spare
  generalize s.core.isolateNib n mech.toNat = d at rest
  have notLater : ∀ o, o < 0x70400 ∨ 0x70640 ≤ o → o ∉ [R.NIBN_STAT n] := fun o ho => not_nibStat hn ho
  have cut := Core.beside_cutNib s.core n
  have decided := Core.beside_isolated (s.core.cutNib n) mech.toNat 0 n
  have opened : Beside [R.NIBN_STAT n] b d := (Core.beside_openNib b n).trans (rest.widen _)
  have later : Beside [R.NIBN_STAT n] ((s.core.cutNib n).isolated mech.toNat 0 n) d := (records.widen _).trans opened
  have whole : Beside ([R.UMP_ISOL_NIB, R.UMP_DECISION, R.UMP_DECISION_CNT] ++ [R.NIBN_STAT n]) s.core d :=
    ((cut.more (by simp)).trans (decided.more (by simp))).trans (later.more (List.subset_append_right ..))
  have count : d.r R.UMP_DECISION_CNT = s.core.r R.UMP_DECISION_CNT + 1 := by
    rw [later.r _ (by decide) (notLater _ (by decide)), Core.isolated_count, cut.r _ (by decide) (by decide)]
  have decision : d.n R.UMP_DECISION = mech.toNat + n * 65536 := by
    have hm := mech.isLt
    rw [later.n _ (by decide) (notLater _ (by decide)), Core.n, Core.isolated_decision, BitVec.toNat_ofNat]
    omega
  have switch : bit (d.f F.UMP_ISOL_NIB_NIB) n = true := by
    rw [later.flds _ (by decide) (notLater _ (by decide)), decided.flds _ (by decide) (by decide)]
    exact Core.cutNib_bit _ hn
  have state : d.nibState n = 3 := (rest.nibState hn List.not_mem_nil).trans (Core.openNib_nibState b n)
  have slice : d.f (F.NIBN_STAT_SLICE n) = 31 :=
    (rest.flds _ (steady_nibStat hn (by decide)) List.not_mem_nil).trans (Core.openNib_slice b n)
  have event : Posts s.core d 0x0D01 31 (mech.toNat * 65536 + n) := by
    have told := Core.isolated_posts (s.core.cutNib n) mech.toNat 0 n
    rw [Nat.zero_mul, Nat.add_zero] at told
    exact posts_within cut.posted told later.posted
  have others : ∀ m, m < 18 → m ≠ n.val → d.nibState m = s.core.nibState m := fun m hm ne =>
    whole.nibState hm (nibStat_notMem hm (by decide) ne)
  have st : d.st = s.core.st := whole.st (by
    rw [List.mem_append, not_or]
    exact ⟨by decide, notLater _ (by decide)⟩)
  exact ⟨state, slice, switch, decision, count, event, others, whole.web, whole.job, whole.heads, whole.bars, st⟩

end Sys2Proof.Proofs
end

section
/-!
SUPPORT. Entry to SAFE and the redistribution of the slices post events and withdraw none (spec/07_run_ahead_pipeline.md R206, R207).
-/

namespace Sys2Proof.Machine

open Sys2Proof.Machine.Core (Beside Grows)

namespace Core.Grows

variable {c d e : Core}

theorem ite {p : Prop} [Decidable p] (hd : Core.Grows c d) (he : Core.Grows c e) : Core.Grows c (if p then d else e) := by
  split <;> assumption

theorem setF (c : Core) (x : Fld) (v : Nat) : Core.Grows c (c.setF x v) := .same (Core.setF_posted ..)

theorem setB (c : Core) (x : Fld) (v : Bool) : Core.Grows c (c.setB x v) := setF ..

theorem addN (c : Core) (o v : Nat) : Core.Grows c (c.addN o v) := .same (Core.setR_posted ..)

theorem put (c : Core) (pa : Nat) (l : List Byte) : Core.Grows c (c.put pa l) := by
  unfold Core.put
  extract_lets d
  have written : Core.Grows c d := .same (by rfl)
  clear_value d
  have counted : Core.Grows d (d.inc R.MEM_DECODE_ERR_CNT) := .same (Core.setR_posted ..)
  exact .ite (.refl c) (.ite written ((written.trans counted).trans (.post ..)))

end Core.Grows

section
variable (c : Core)

/-! ### Tests and legacy ports -/

theorem Core.grows_gateVerdicts (t : TestRun) (g b : Nat) : Grows c (c.gateVerdicts t g b) := by
  unfold Core.gateVerdicts
  extract_lets reps nz res full mp ma verdict base d missing e f
  have byCox : Grows c c.byCox := .same (Core.byReq_posted ..)
  have table : Grows c d := byCox.trans (.eachOf nz (fun _ _ => .put ..) _)
  clear_value d
  exact ((table.trans (.addN ..)).trans (.addN ..)).trans (.post f _ _ _)

theorem Core.grows_testEnd (code : Nat) : Grows c (c.testEnd code) := by
  unfold Core.testEnd
  split
  · exact .refl c
  · next t _ =>
    extract_lets d e f
    have judged : Grows c d := .ite (.eachOf _ (fun _ g => .ite (.refl g) (Core.grows_gateVerdicts g ..)) c) (.refl c)
    clear_value d
    have ended : Grows d e := .same (by rfl)
    clear_value e
    exact ((((judged.trans ended).trans (.setB ..)).trans (.setB ..)).trans (.setF ..)).trans (.post ..)

theorem Core.grows_lpQueued (n : Nat) : Grows c (c.lpQueued n) := by
  unfold Core.lpQueued
  extract_lets k fell d
  have shown : Grows c d := .setF ..
  exact Grows.trans (.ite (shown.trans (.setB ..)) shown) (.setB ..)

theorem Core.grows_lpFault (n cause status : Nat) : Grows c (c.lpFault n cause status) := by
  unfold Core.lpFault
  refine .ite (.refl c) ?_
  extract_lets d e
  have left : Grows c (c.lpGoto n lpFaulted) := .ite (.refl c) (Grows.trans (.setF ..) (.post ..))
  have dropped : Grows (c.lpGoto n lpFaulted) d := Grows.trans (.same (by rfl)) (Core.grows_lpQueued _ n)
  clear_value d
  exact (((((left.trans dropped).trans (.setF ..)).trans (.setB ..)).trans (.setB ..))).trans (.post ..)

theorem Core.grows_lpFaultAll (cause : Nat) : Grows c (c.lpFaultAll cause) :=
  .each 8 (fun _ d => .ite (Core.grows_lpFault ..) (.refl d)) c

/-! ### Device states -/

theorem Core.grows_gotoFrom (old new : Nat) : Grows c (c.gotoFrom old new) := by
  unfold Core.gotoFrom
  extract_lets d
  have moved : Grows c d := Grows.trans (.setF ..) (.setF ..)
  clear_value d
  exact moved.trans (.post ..)

theorem Core.grows_recording (log : Log) (rpl : Replay) : Grows c { c with log := log, rpl := rpl } := .same (by rfl)

theorem Core.grows_replayOver (reason status : Nat) : Grows c (c.replayOver reason status) := by
  have off : Grows c c.firesOff := .each 16 (fun _ _ => .same (Core.setBar_posted ..)) c
  unfold Core.replayOver
  extract_lets d e
  have ended : Grows c.firesOff d := (Grows.trans (.setF ..) (.setF ..)).trans (.setF ..)
  clear_value d
  exact ((off.trans ended).trans (.post ..)).trans (Core.grows_recording e _ _)

theorem Core.grows_goto (new : Nat) : Grows c (c.goto new) :=
  .ite (.ite ((Core.grows_replayOver ..).trans (Core.grows_gotoFrom ..)) (.setF ..)) (Core.grows_gotoFrom ..)

theorem Core.grows_failWaiting (cause : Nat) : Grows c (c.failWaiting cause) := by
  unfold Core.failWaiting
  split
  · next op _ _ _ _ =>
    have answered : Grows c (c.answerWaiting op rHwFault) := by
      unfold Core.answerWaiting
      split
      · exact .ite (Grows.trans (.same (by rfl)) (Core.calm_answer ..).posted) (.refl c)
      · exact .refl c
    have freed : Grows c { c with hi := { c.hi with waiting := none } } := .same (by rfl)
    exact Grows.trans (.ite freed answered) (.same (by rfl))
  · exact .refl c

/-- Entry to SAFE posts, and withdraws nothing. -/
theorem Core.grows_enterSafe (cause : Nat) : Grows c (c.enterSafe cause) := by
  unfold Core.enterSafe
  refine .ite (.refl c) ?_
  extract_lets first c1 c2 c3 c4 c5 ump c6 c7 pos c8
  have tested : Grows c c1 := .ite (Core.grows_testEnd ..) (.refl c)
  clear_value c1
  have fires : Grows c1 c2 := .each 16 (fun _ _ => Grows.trans (.same (Core.setBar_posted ..)) (.setB ..)) c1
  clear_value c2
  have slow : Grows c2 c3 := .setB ..
  clear_value c3
  have marks : Grows c3 c4 := .each 16 (fun _ _ => .setB ..) c3
  clear_value c4
  have stopped : Grows c4 c5 := (Core.beside_nibsStop c4).posted
  clear_value c5
  have faulted : Grows c5 c6 := Grows.trans (.same (by rfl)) (Core.beside_inflightSync _).posted
  clear_value c6
  have safe : Grows c6 c7 := Grows.trans (.setF ..) (Core.grows_goto ..)
  clear_value c7 pos
  have recorded : Grows c7 c8 := (Core.beside_defect ..).posted
  clear_value c8
  have entered : Grows c c8 :=
    ((((((tested.trans fires).trans slow).trans marks).trans stopped).trans faulted).trans safe).trans recorded
  exact ((entered.trans (Core.grows_lpFaultAll ..)).trans (Core.grows_failWaiting ..)).trans (Core.beside_health _).posted

/-! ### The degraded map -/

theorem Core.grows_redistribute (i lost : Nat) : Grows c (c.redistribute i lost) := by
  unfold Core.redistribute
  extract_lets old strokes pipe c1 c2 c3 c4 moved ump
  have mapped : Grows c c1 := .same (by rfl)
  clear_value c1
  have copied : Grows c1 c2 :=
    .eachOf strokes (fun _ d => .each 15 (fun _ d => .each 8 (fun _ d => .ite (.same (by rfl)) (.refl d)) d) d) c1
  clear_value c2
  have renumbered : Grows c2 c3 := .each 18 (fun _ d => .ite (Grows.trans (.setF ..) (.post ..)) (.refl d)) c2
  clear_value c3
  have told : Grows c3 c4 := Grows.trans (.setB ..) (.post ..)
  clear_value c4
  exact ((((mapped.trans copied).trans renumbered).trans told).trans (.same (by rfl))).trans (Core.beside_nibFillAll _).posted

/-- So does the judgement of the slices that no spare can take. -/
theorem Core.grows_lostJudge : Grows c c.lostJudge := by
  unfold Core.lostJudge
  refine .ite (.refl c) ?_
  split
  · exact .refl c
  · exact Grows.trans (.same (by rfl)) (Core.grows_redistribute ..)
  · exact Grows.trans (.same (by rfl)) (Core.grows_enterSafe ..)

end

end Sys2Proof.Machine
end

section
/-!
SUPPORT. The end of a spare's start (spec/18_fault_tolerance.md R480), and O21.
-/

namespace Sys2Proof.Machine

open Sys2Proof.Machine.Core (Beside Grows)

/-! ### A spare that has started -/

/-- A nib set active with a slice, and counted. -/
def Core.ownSlice (c : Core) (n sl : Nat) : Core := ((c.setF (F.NIBN_STAT_STATE n) 2).setF (F.NIBN_STAT_SLICE n) sl).spareSync

theorem Core.beside_ownSlice (c : Core) (n sl : Nat) : Beside [R.NIBN_STAT n] c (c.ownSlice n sl) :=
  ((Beside.field c (x := F.NIBN_STAT_STATE n) 2 (.inr List.mem_cons_self)).trans
    (.field _ (x := F.NIBN_STAT_SLICE n) sl (.inr List.mem_cons_self))).trans ((Core.beside_spareSync _).widen _)

theorem Core.ownSlice_nibState (c : Core) {n : Nat} (hn : n < 18) (sl : Nat) : (c.ownSlice n sl).nibState n = 2 := by
  rw [Core.ownSlice, (Core.beside_spareSync _).nibState hn List.not_mem_nil, Core.nibState,
    Core.f_setF_other _ _ (.inr (.inl (by decide : 0 + 2 ≤ 8))), Core.f_setF_same _ _ (by decide : 0 + 2 ≤ 32)]
  rfl

theorem Core.ownSlice_slice (c : Core) {n sl : Nat} (hn : n < 18) (hs : sl < 32) :
    (c.ownSlice n sl).f (F.NIBN_STAT_SLICE n) = sl := by
  rw [Core.ownSlice, (Core.beside_spareSync _).flds (F.NIBN_STAT_SLICE n) (steady_nibStat hn (by decide)) List.not_mem_nil,
    Core.f_setF_same _ _ (by decide : 8 + 5 ≤ 32)]
  exact Nat.mod_eq_of_lt hs

/-- The two events of a slice taken over. -/
def Core.tellSlice (c : Core) (n sl : Nat) : Core := (c.post 0x0409 n (sl * 256 + n)).post 0x0D02 31 (n * 256 + sl)

theorem Core.beside_tellSlice (c : Core) (n sl : Nat) : Beside [] c (c.tellSlice n sl) := (Beside.post ..).trans (.post ..)

/-- With no slice lost there is nothing to judge. -/
theorem Core.lostJudge_none {c : Core} (h : c.ump.lost = []) : c.lostJudge = c := by
  simp only [Core.lostJudge, h, ite_self]

/-- The end of a spare's start: it owns the slice and the events are told; the judgement of lost slices follows. -/
theorem Core.spareDone_started {c : Core} {n sl lost : Nat} (h : c.ump.starting.find? (fun x => x.1 = n) = some (n, sl, lost)) :
    ∃ a, Beside [] c a ∧ c.spareDone n true = (((a.ownSlice n sl).tellSlice n sl).nibFill n).lostJudge.inflightSync.health := by
  refine ⟨{ c with ump := { c.ump with starting := c.ump.starting.filter fun x => x.1 ≠ n } }, .state (by rfl), ?_⟩
  simp only [Core.spareDone, h, if_true, Core.ownSlice, Core.tellSlice]

end Sys2Proof.Machine

namespace Sys2Proof.Proofs

open Sys2Proof.Machine Sys2Proof.Claims
open Sys2Proof.Machine.Core (Beside Grows)

/-- A spare that has passed its start steps takes the slice (R480). -/
theorem spareTakesSlice : SpareTakesSlice := by
  intro n sl lost s found hs
  refine ⟨s.core.spareDone n true, rfl, ?_⟩
  have hn := n.isLt
  obtain ⟨a, freed, done⟩ := Core.spareDone_started found
  rw [done]
  have owned := Core.beside_ownSlice a n sl
  have told := Core.beside_tellSlice (a.ownSlice n sl) n sl
  have filled := Core.beside_nibFill ((a.ownSlice n sl).tellSlice n sl) n
  have active := Core.ownSlice_nibState a hn sl
  have slice := Core.ownSlice_slice a hn hs
  have before : Grows s.core (a.ownSlice n sl) := freed.posted.trans owned.posted
  generalize a.ownSlice n sl = b at *
  have synced (d : Core) : Beside [] d d.inflightSync.health := (Core.beside_inflightSync d).trans (Core.beside_health _)
  have after : Grows (b.tellSlice n sl) (((b.tellSlice n sl).nibFill n).lostJudge.inflightSync.health) :=
    filled.posted.trans ((Core.grows_lostJudge _).trans (synced _).posted)
  refine ⟨?_, posts_of_post (before.trans (.post ..)) after, fun none => ?_⟩
  · exact posts_of_post before (Grows.trans (.post ..) after)
  · have kept : ((b.tellSlice n sl).nibFill n).ump.lost = [] :=
      (filled.lost.trans (told.lost.trans (owned.lost.trans freed.lost))).trans none
    rw [Core.lostJudge_none kept]
    have rest := (told.trans filled).trans (synced _)
    have whole : Beside ([] ++ [R.NIBN_STAT n]) s.core _ := ((freed.widen _).trans owned).trans (rest.widen _)
    exact ⟨(rest.nibState hn List.not_mem_nil).trans active,
      (rest.flds _ (steady_nibStat hn (by decide)) List.not_mem_nil).trans slice,
      fun m hm ne => whole.nibState hm (nibStat_notMem hm (by simp) ne), whole.web, whole.job, whole.heads, whole.bars⟩

/-- Settles O21: a faulty spare is isolated, and one that has started takes the slice. -/
theorem sparesUsed : Obligations.SparesUsed := ⟨spareIsolated, spareTakesSlice⟩

end Sys2Proof.Proofs
end

section
/-!
SUPPORT. What a nib computes does not depend on who last asked the memory (spec/12_memory.md R325): an ink-line computed after
`Core.byReq` is the one computed before it.
-/

namespace Sys2Proof.Machine

section
variable (c : Core) (r : Nat)

theorem Core.byReq_pixel : (c.byReq r).pixel = c.pixel := rfl
theorem Core.byReq_plan : (c.byReq r).plan = c.plan := rfl

theorem Core.byReq_drawnBefore : (c.byReq r).drawnBefore = c.drawnBefore := by
  funext n f
  induction f with
  | zero => rfl
  | succ f ih =>
    funext l
    unfold Core.drawnBefore
    rw [ih]
    rfl

theorem Core.byReq_decAt : (c.byReq r).decAt = c.decAt := by
  funext n l
  unfold Core.decAt Core.decideNow
  rw [Core.byReq_drawnBefore]
  rfl

theorem Core.byReq_layerPix : (c.byReq r).layerPix = c.layerPix := by
  funext n l x y
  unfold Core.layerPix
  rw [Core.byReq_decAt, Core.byReq_pixel]
  rfl

theorem Core.byReq_compose : (c.byReq r).compose = c.compose := by
  funext l x y ch
  unfold Core.compose Core.layerStack
  rw [Core.byReq_decAt, Core.byReq_layerPix]
  rfl

theorem Core.byReq_scaled : (c.byReq r).scaled = c.scaled := by
  funext g l col ch
  unfold Core.scaled Core.scaleY
  rw [Core.byReq_compose]

theorem Core.byReq_tonePre : (c.byReq r).tonePre = c.tonePre := by
  funext l col k
  unfold Core.tonePre
  rw [Core.byReq_scaled]
  rfl

theorem Core.byReq_tone4 : (c.byReq r).tone4 = c.tone4 := by
  funext l col k
  unfold Core.tone4
  rw [Core.byReq_tonePre, Core.byReq_scaled]
  rfl

theorem Core.byReq_shareIn : (c.byReq r).shareIn = c.shareIn := by
  funext x col
  unfold Core.shareIn Core.shareOf
  rw [Core.byReq_tone4, Core.byReq_plan]
  rfl

theorem Core.byReq_drop4 : (c.byReq r).drop4 = c.drop4 := by
  funext x col
  unfold Core.drop4
  rw [Core.byReq_decAt, Core.byReq_layerPix]
  rfl

theorem Core.byReq_column : (c.byReq r).column = c.column := by
  funext x col
  unfold Core.column
  rw [Core.byReq_plan, Core.byReq_tone4, Core.byReq_drop4, Core.byReq_shareIn]
  rfl

theorem Core.byReq_columns : (c.byReq r).columns = c.columns := by
  funext x c0 n
  induction n generalizing c0 with
  | zero => rfl
  | succ n ih =>
    unfold Core.columns
    rw [Core.byReq_column, ih]

theorem Core.byReq_computeInk : (c.byReq r).computeInk = c.computeInk := by
  funext x c0 c1
  unfold Core.computeInk
  rw [Core.byReq_columns]

/-! ### The counts of earlier lines -/

theorem Core.byReq_each {op : Nat → Core → Core} (h : ∀ i d, op i (d.byReq r) = (op i d).byReq r) (n : Nat) :
    (c.byReq r).each n op = (c.each n op).byReq r :=
  (List.foldl_hom (fun d : Core => d.byReq r) (g₁ := fun d i => op i d) (g₂ := fun d i => op i d) (l := List.range n) (init := c)
    fun d i => h i d)

theorem Core.byReq_writeCov (x : InkCtx) (b0 : Nat) (rs : List ColRes) :
    (c.byReq r).writeCov x b0 rs = (c.writeCov x b0 rs).byReq r :=
  Core.byReq_each c r (fun _ _ => rfl) _

/-- The counts formed for an ink-line are formed for any requester. -/
theorem Core.byReq_fillCov (x : InkCtx) (c0 c1 : Nat) : (c.byReq r).fillCov x c0 c1 = (c.fillCov x c0 c1).byReq r := by
  have on : (c.byReq r).proofOn x.g = c.proofOn x.g := rfl
  unfold Core.fillCov
  rw [on]
  split
  · refine Core.byReq_each c r (fun i d => Core.byReq_each d r (fun j d => ?_) _) _
    have due (e : Core) (a k : Nat) : (e.byReq r).lineDue a k = e.lineDue a k := rfl
    have same (e : Core) : (e.byReq r).pipe = e.pipe := rfl
    have ctx (e : Core) (k l : Nat) : (e.byReq r).inkCtx k l = e.inkCtx k l := rfl
    have stroke (e : Core) (k : Nat) : (e.byReq r).dInk k = e.dInk k := rfl
    rw [Core.byReq_columns]
    simp only [due, same, ctx, stroke, Core.byReq_writeCov]
    split
    · rfl
    · split <;> rfl
  · rfl

end

end Sys2Proof.Machine
end

section
/-!
SUPPORT. What the completion of an ink-line leaves as it was (spec/07_run_ahead_pipeline.md R187, R198, R199), and what a seam message
(spec/17_time_and_crew.md R467) leaves.
-/

namespace Sys2Proof.Machine

open Sys2Proof.Machine.Core (Beside Grows)

/-! ### Codes, counts and predictions -/

section
variable (c : Core) (x : InkCtx)

theorem Core.beside_byReq (r : Nat) : Beside [] c (c.byReq r) := .state (by rfl)

theorem Core.beside_writeCov (b0 : Nat) (rs : List ColRes) : Beside [] c (c.writeCov x b0 rs) :=
  .each _ (fun _ _ _ => .state (by rfl)) c

theorem Core.beside_fillCov (c0 c1 : Nat) : Beside [] c (c.fillCov x c0 c1) := by
  unfold Core.fillCov
  refine .ite (.each _ (fun i _ d => .each _ (fun j _ d => .ite (.refl _ d) ?_) d) c) (.refl _ c)
  extract_lets y
  split
  · exact Core.beside_writeCov ..
  · exact .refl _ d

theorem Core.beside_writeCodes (codes : List (Nat × Nat)) : Beside [] c (c.writeCodes x codes) := by
  refine .foldl codes (fun e _ d => .ite (.state (by rfl)) ?_) c
  split
  · exact .state (by rfl)
  · exact .refl _ d

theorem Core.beside_inkCounters (part : Nat) (rs : List ColRes) : Beside [] c (c.inkCounters x part rs) := by
  unfold Core.inkCounters
  extract_lets c1 c2 c3 lost pipe c4
  have counted : Beside [] c c3 :=
    (((Beside.side c _ (by decide))).trans (.side _ _ (by decide))).trans (.side _ _ (by decide))
  clear_value c3
  have dropped : Beside [] c3 c4 := .state (by rfl)
  exact (counted.trans dropped).trans (.side _ _ (by decide))

theorem Core.beside_lostNote : Beside [] c (c.lostNote x) := by
  unfold Core.lostNote
  extract_lets n
  clear_value n
  exact .ite (.refl _ c) (.quiet (Core.quiet_postLim ..))

theorem Core.beside_unhidden (c0 c1 : Nat) : Beside [] c (c.unhidden x c0 c1) := by
  unfold Core.unhidden
  refine .ite (.refl _ c) (.each _ (fun i _ d => ?_) c)
  extract_lets col stuck key pipe
  refine .ite (Beside.trans ?_ (.post ..)) (.refl _ d)
  exact .state (by rfl)

theorem Core.beside_put (pa : Nat) (l : List Byte) : Beside [] c (c.put pa l) := by
  unfold Core.put
  extract_lets d
  have written : Beside [] c d := (Beside.quiet (Core.quiet_wr ..)).trans (.quiet (Core.quiet_touchAs ..))
  clear_value d
  exact .ite (.refl _ c) (.ite written (written.trans ((Beside.inc d _ (.inl (by decide))).trans (.post ..))))

/-- A fold that carries a value beside the core. -/
theorem Core.Beside.foldlWith {α β : Type} {l : List Nat} {f : β × Core → α → β × Core} (h : ∀ p a, Beside l p.2 (f p a).2)
    (as : List α) : ∀ p, Beside l p.2 (as.foldl f p).2 := by
  induction as with
  | nil => exact fun p => .refl l p.2
  | cons a as ih => exact fun p => (h p a).trans (ih _)

theorem Core.beside_wrFree (pa n : Nat) : Beside [] c (c.wrFree pa n) := by
  unfold Core.wrFree
  refine Beside.trans (Beside.foldlWith ?_ (List.range (ceilDiv n 8)) ([], c)) (Core.beside_put ..)
  intro p _
  exact .state (by rfl)

theorem Core.beside_emitProof (part c0 : Nat) (rs : List ColRes) : Beside [] c (c.emitProof x part c0 rs) := by
  unfold Core.emitProof
  extract_lets ring wins cells key e pf
  refine .ite (Beside.trans ?_ (Core.beside_wrFree ..)) (.refl _ c)
  exact .state (by rfl)

/-! ### The delay line -/

theorem Core.beside_deliverPoison (pa : Nat) : Beside [] c (c.deliverPoison pa) :=
  (Beside.inc c _ (.inl (by decide))).trans (.post ..)

theorem Core.beside_storeDelay (k l : Nat) : Beside [] c (c.storeDelay k l) := by
  unfold Core.storeDelay
  extract_lets key p mem d pipe
  have stored : Beside [] c d := .ite (.refl _ c) (.state (by rfl))
  clear_value d
  refine .ite (stored.trans ?_) (.refl _ c)
  exact .state (by rfl)

theorem Core.beside_readDelay (k l : Nat) : Beside [] c (c.readDelay k l) := by
  unfold Core.readDelay
  extract_lets s2 g p gone
  refine .ite ?_ (.refl _ c)
  split
  · refine Beside.trans ?_ (Core.beside_deliverPoison ..)
    exact .state (by rfl)
  · exact .state (by rfl)

theorem Core.beside_readDelays : Beside [] c c.readDelays :=
  (Beside.eachOf _ (fun _ _ d => Core.beside_storeDelay d _ _) c).trans (.eachOf _ (fun _ _ d => Core.beside_readDelay d _ _) _)

/-! ### Seam messages -/

theorem Core.beside_crewEmit (p type : Nat) (fields : List Int) : Beside [] c (c.crewEmit p type fields) := by
  unfold Core.crewEmit
  extract_lets u held
  split
  · exact .state (by rfl)
  · have counted : Beside [] c (if type = 0xF2 then c.perf 239 else c) := .ite (.perf c (by decide)) (.refl _ c)
    refine counted.trans ?_
    exact .state (by rfl)

theorem Core.beside_seamSend (s : Nat) : Beside [] c (c.seamSend s) := by
  unfold Core.seamSend
  extract_lets g side
  have sent (right : Bool) (on port : Fld) (d : Core) : Beside [] d (side right on port d) :=
    .ite (Core.beside_crewEmit ..) (.refl _ d)
  clear_value side
  exact .ite ((sent ..).trans (sent ..)) (.refl _ c)

end

end Sys2Proof.Machine
end

section
/-!
SUPPORT. An ink-line finished, by how its words read back (spec/07_run_ahead_pipeline.md R198, R199), and an audit whose two signatures
agree (spec/18_fault_tolerance.md R477).
-/

namespace Sys2Proof.Machine

open Sys2Proof.Machine.Core (Beside Grows)

/-! ### The words of an ink-line read back -/

section
variable (c : Core) (s part k : Nat)

/-- The corrected words counted. -/
def Core.countCorrected : LsErr → Core
  | .corrected w => c.addN R.LS_CE_CNT w.toNat
  | _ => c

/-- The words that fail counted and told, each in its turn. -/
def Core.readBacks (gs : List (Fin 64)) : Core :=
  c.eachOf gs fun x c => (c.inc R.LS_UE_CNT).post 0x0407 31 (s % 24 * 65536 + x.val)

theorem Core.beside_countCorrected (e : LsErr) : Beside [R.LS_CE_CNT] c (c.countCorrected e) := by
  cases e with
  | corrected w => exact .setR c _ (.inr List.mem_cons_self)
  | _ => exact .refl _ c

theorem Core.countCorrected_count (w : BitVec 32) : (c.countCorrected (.corrected w)).r R.LS_CE_CNT = c.r R.LS_CE_CNT + w := by
  simp only [Core.countCorrected, Core.addN_eq, Core.r_setR_same, BitVec.ofNat_toNat, BitVec.setWidth_eq]

/-- Words that read back, or fail later, complete the ink-line. -/
theorem Core.lsEffect_good {e : LsErr} (h : ∀ g more, e ≠ .readBack g more) :
    ∃ b, Beside [] c b ∧ c.lsEffect s part k e = (b.countCorrected e, true) := by
  cases e with
  | readBack g more => exact absurd rfl (h g more)
  | _ => exact ⟨_, .state (by rfl), rfl⟩

/-- Words that fail leave it incomplete. -/
theorem Core.lsEffect_bad (g : Fin 64) (more : List (Fin 64)) :
    ∃ b, Beside [] c b ∧ c.lsEffect s part k (.readBack g more) = (b.readBacks s (g :: more), false) := ⟨_, .state (by rfl), rfl⟩

theorem Core.beside_readBacks (gs : List (Fin 64)) : Beside [R.LS_UE_CNT] c (c.readBacks s gs) :=
  .eachOf gs (fun _ _ d => (Beside.inc d _ (.inr List.mem_cons_self)).trans (.post ..)) c

/-- The count goes up by one for each. -/
theorem Core.readBacks_count (gs : List (Fin 64)) :
    ∀ c : Core, (c.readBacks s gs).r R.LS_UE_CNT = c.r R.LS_UE_CNT + BitVec.ofNat 32 gs.length := by
  induction gs with
  | nil => exact fun c => (BitVec.add_zero _).symm
  | cons g gs ih =>
    intro c
    have one : ((c.inc R.LS_UE_CNT).post 0x0407 31 (s % 24 * 65536 + g.val)).r R.LS_UE_CNT = c.r R.LS_UE_CNT + 1 :=
      (Core.post_r _ _ _ _ _ (by decide)).trans (Core.r_setR_same ..)
    refine (ih _).trans ?_
    rw [one, List.length_cons, Nat.add_comm gs.length 1, BitVec.ofNat_add, BitVec.add_assoc]
    rfl

/-- Each is told. -/
theorem Core.readBacks_posts {gs : List (Fin 64)} {x : Fin 64} (hx : x ∈ gs) :
    ∀ c : Core, Claims.Posts c (c.readBacks s gs) 0x0407 31 (s % 24 * 65536 + x.val) := by
  induction gs with
  | nil => exact absurd hx List.not_mem_nil
  | cons g gs ih =>
    intro c
    have later := (Core.beside_readBacks ((c.inc R.LS_UE_CNT).post 0x0407 31 (s % 24 * 65536 + g.val)) s gs).posted
    rcases List.mem_cons.mp hx with rfl | hx
    · exact posts_of_post (Grows.same (Core.setR_posted ..)) later
    · exact posts_within ((Grows.same (Core.setR_posted ..)).trans (.post ..)) (ih hx _) (.refl _)

end

/-! ### An ink-line finished -/

theorem Core.isDone_setDone (c : Core) (s part k : Nat) (v : Bool) : (c.setDone s part k v).isDone s part k = v :=
  Tab.get_set_same ..

/-- An ink-line whose inputs read well is complete as its words read back: beside that, its work is a nib's. -/
theorem Core.finishInk_computed {c : Core} {s part k l : Nat} {p : Part} {n : Nat} (hn : n < 18) (ls : LsErr) (due : c.lineDue s k = some l)
    (mine : (c.parts s).find? (fun q => q.id = part) = some p)
    (good : ((c.fillCov (c.inkCtx k l) p.c0 p.c1).computeInk (c.inkCtx k l) p.c0 p.c1).isSome = true) :
    ∃ b, Beside [] c b ∧
      (∀ d, b.lsEffect s part k ls = (d, true) → Beside [] (d.setDone s part k true) (c.finishInk n s part k ls)) ∧
      ∀ d, b.lsEffect s part k ls = (d, false) → Beside [] d (c.finishInk n s part k ls) := by
  unfold Core.finishInk
  split
  case h_2 other => exact absurd mine (other l p due)
  case h_1 l' p' due' mine' =>
    obtain rfl : l = l' := Option.some.inj (due.symm.trans due')
    obtain rfl : p = p' := Option.some.inj (mine.symm.trans mine')
    extract_lets x c1
    have filled : Beside [] c c1 := (Core.beside_byReq c n).trans (Core.beside_fillCov ..)
    have same : c1.computeInk x p.c0 p.c1 = (c.fillCov x p.c0 p.c1).computeInk x p.c0 p.c1 := by
      show ((c.byReq n).fillCov x p.c0 p.c1).computeInk x p.c0 p.c1 = _
      rw [Core.byReq_fillCov, Core.byReq_computeInk]
    split
    case h_1 poison =>
      rw [← same, poison] at good
      exact absurd good Bool.false_ne_true
    case h_2 b0 rs _ =>
      clear_value c1
      extract_lets cols c2 c3 c4 c5
      have codes : Beside [] c1 c3 := (Core.beside_writeCodes ..).trans (Core.beside_writeCov ..)
      clear_value c3
      have counted : Beside [] c3 c4 :=
        ((Core.beside_inkCounters ..).trans (Core.beside_unhidden ..)).trans (Core.beside_emitProof ..)
      clear_value c4
      have charged : Beside [] c4 c5 := Core.beside_chargeNib ..
      clear_value c5
      refine ⟨c5, ((filled.trans codes).trans counted).trans charged, fun d read => ?_, fun d read => ?_⟩
      · split
        next e ok read' =>
          obtain ⟨rfl, rfl⟩ : e = d ∧ ok = true := Prod.mk.inj (read'.symm.trans read)
          rw [if_pos rfl]
          extract_lets d1 d2 v d3 v' d4 pipe d5
          have noted : Beside [] d1 d2 := .ite (Core.beside_lostNote ..) (.refl _ d1)
          clear_value d2
          have free : Beside [] d2 d3 := Core.beside_setNib ..
          clear_value d3
          have counted : Beside [] d3 d4 := .ite (((Core.beside_setNib ..).trans (.inc _ _ (.inl (sideOff_nibDone hn)))).trans
            (.perf _ (by omega))) (.refl _ d3)
          clear_value d4
          have delayed : Beside [] d4 d5 := .ite (.state (by rfl)) (.refl _ d4)
          clear_value d5
          exact (((noted.trans free).trans counted).trans delayed).trans (Core.beside_readDelays d5)
      · split
        next e ok read' =>
          obtain ⟨rfl, rfl⟩ : e = d ∧ ok = false := Prod.mk.inj (read'.symm.trans read)
          rw [if_neg Bool.false_ne_true]
          exact Core.beside_setNib ..

/-! ### An audit whose signatures agree -/

theorem steady_auditLast {n : Nat} (h : n < 18) : steady ⟨R.UMP_AUDIT_LAST n, 0, 32⟩ = true := by
  have range : 0x110080 ≤ R.UMP_AUDIT_LAST n ∧ R.UMP_AUDIT_LAST n < 0x1100C8 := by unfold R.UMP_AUDIT_LAST; omega
  generalize R.UMP_AUDIT_LAST n = o at range
  simp [steady, sideOff, logOff, R.EV_TAIL, R.EV_DROP_CNT, R.EV_DEFECT_DROP_CNT, R.UMP_EVS_LOST_CNT, R.UMP_EVS_WR, R.NIB_STAT,
    R.UMP_STAT, R.UMP_AUDIT_ABANDON_CNT]
  omega

/-- At the last ink-line of an audit two signatures that agree are recorded and counted; beside that the step is a nib's work. -/
theorem Core.auditStep_agree {c : Core} {n t : Nat} {a : Audit}
    (found : c.ump.audits.find? (fun a => a.worker == n && a.stroke == t) = some a) (last : a.left ≤ 1) (two : a.majority = false) :
    ∃ b, Beside [] c b ∧ c.auditStep n t .agree = ((b.setN (R.UMP_AUDIT_LAST a.nib) a.stroke).inc R.UMP_AUDIT_CNT).perf 79 := by
  unfold Core.auditStep
  extract_lets v c1
  have left : Beside [] c c1 := Core.beside_setNib ..
  have found1 : c1.ump.audits.find? (fun a => a.worker == n && a.stroke == t) = some a := found
  clear_value c1
  split
  case h_1 missing => exact absurd (missing.symm.trans found1) (Option.some_ne_none a).symm
  case h_2 a' found2 =>
    obtain rfl : a' = a := Option.some.inj (found2.symm.trans found1)
    extract_lets c2 put ump c3
    have charged : Beside [] c1 c2 := by
      unfold c2
      split
      · exact Core.beside_chargeNib ..
      · exact .refl _ c1
    clear_value c2
    have closed : Beside [] c2 c3 := .state (by rfl)
    refine ⟨c3, (left.trans charged).trans closed, ?_⟩
    rw [if_neg (Nat.not_lt.mpr last), if_neg (by rw [two]; exact Bool.false_ne_true), if_pos rfl]

/-! ### The command -/

/-- What follows the work of a nib at an INK_LINE_COMPLETE: its next ink-line, and the seam records of a stroke completed. -/
theorem exec_inkLineComplete {n : Fin 18} {s : State} (ls : LsErr) (sig : AuditSig) (active : s.core.nibState n = 2) :
    ∃ d, exec (.inkLineComplete n ls sig) s = .next { s with core := d } ∧ Beside [] (s.core.inkComplete n ls sig) d := by
  refine ⟨_, rfl, ?_⟩
  rw [if_pos active]
  extract_lets st c1
  show Beside [] c1 _
  clear_value st c1
  cases st with
  | none => exact .refl _ c1
  | some t => exact .ite (Core.beside_seamSend ..) (.refl _ c1)

theorem Core.beside_nextInk (c : Core) (n : Nat) : Beside [] c (c.nibFill n).inflightSync :=
  (Core.beside_nibFill c n).trans (Core.beside_inflightSync _)

theorem Core.inkComplete_own {c : Core} {n s part k : Nat} (ls : LsErr) (sig : AuditSig) (none : (c.nib n).aud = none)
    (cur : (c.nib n).cur = some (s, part, k)) : Beside [] (c.finishInk n s part k ls) (c.inkComplete n ls sig) := by
  unfold Core.inkComplete
  rw [none, cur]
  exact Core.beside_nextInk ..

theorem Core.inkComplete_audit {c : Core} {n t : Nat} (ls : LsErr) (sig : AuditSig) (aud : (c.nib n).aud = some t) :
    Beside [] (c.auditStep n t sig) (c.inkComplete n ls sig) := by
  unfold Core.inkComplete
  rw [aud]
  exact Core.beside_nextInk ..

end Sys2Proof.Machine
end

section
/-!
An ink-line finished and an audit's step, each put together from the lemmas above, and O22.
-/

namespace Sys2Proof.Proofs

open Sys2Proof.Machine Sys2Proof.Claims
open Sys2Proof.Machine.Core (Beside Grows)

section
variable {c d : Core} {n t part k l : Nat} {p : Part} (hn : n < 18) (due : c.lineDue t k = some l)
  (mine : (c.parts t).find? (fun q => q.id = part) = some p)
  (good : ((c.fillCov (c.inkCtx k l) p.c0 p.c1).computeInk (c.inkCtx k l) p.c0 p.c1).isSome = true)
include hn due mine good

/-- An ink-line whose words read back is complete (R187, R198). -/
theorem inkLine_complete {ls : LsErr} (ok : ∀ g more, ls ≠ .readBack g more) (rest : Beside [] (c.finishInk n t part k ls) d) :
    d.isDone t part k = true ∧ (∀ w, ls = .corrected w → d.r R.LS_CE_CNT = c.r R.LS_CE_CNT + w) ∧
      d.web = c.web ∧ d.job = c.job ∧ d.heads = c.heads ∧ d.bars = c.bars ∧ d.st = c.st := by
  obtain ⟨b, computed, complete, -⟩ := Core.finishInk_computed hn ls due mine good
  obtain ⟨e, stored, read⟩ := Core.lsEffect_good b t part k ok
  have done := (complete _ read).trans rest
  have counted := Core.beside_countCorrected e ls
  have before := computed.trans stored
  have st : d.st = c.st := (done.st List.not_mem_nil).trans ((counted.st (by decide)).trans (before.st List.not_mem_nil))
  refine ⟨(done.isDone ..).trans (Core.isDone_setDone ..), fun w hw => ?_, done.web.trans (counted.web.trans before.web),
    done.job.trans (counted.job.trans before.job), done.heads.trans (counted.heads.trans before.heads),
    done.bars.trans (counted.bars.trans before.bars), st⟩
  subst hw
  have kept : d.r R.LS_CE_CNT = (e.countCorrected (.corrected w)).r R.LS_CE_CNT := done.r _ (by decide) List.not_mem_nil
  rw [kept, Core.countCorrected_count, before.r _ (by decide) List.not_mem_nil]

/-- An ink-line with words that fail stays as it was; each is counted and told (R199). -/
theorem inkLine_failed {g : Fin 64} {more : List (Fin 64)} (rest : Beside [] (c.finishInk n t part k (.readBack g more)) d) :
    d.isDone t part k = c.isDone t part k ∧ d.r R.LS_UE_CNT = c.r R.LS_UE_CNT + 1 + BitVec.ofNat 32 more.length ∧
      (∀ x ∈ g :: more, Posts c d 0x0407 31 (t % 24 * 65536 + x)) ∧ d.web = c.web ∧ d.job = c.job ∧ d.st = c.st := by
  obtain ⟨b, computed, -, incomplete⟩ := Core.finishInk_computed hn (.readBack g more) due mine good
  obtain ⟨e, stored, read⟩ := Core.lsEffect_bad b t part k g more
  have failed := (incomplete _ read).trans rest
  have before := computed.trans stored
  have whole := ((before.widen _).trans (Core.beside_readBacks e t (g :: more))).trans (failed.widen _)
  have count : d.r R.LS_UE_CNT = c.r R.LS_UE_CNT + 1 + BitVec.ofNat 32 more.length := by
    rw [failed.r _ (by decide) List.not_mem_nil, Core.readBacks_count, before.r _ (by decide) List.not_mem_nil,
      List.length_cons, Nat.add_comm, BitVec.ofNat_add, BitVec.add_assoc]
    rfl
  exact ⟨whole.isDone .., count, fun x hx => posts_within before.posted (Core.readBacks_posts t hx e) failed.posted, whole.web,
    whole.job, whole.st (by decide)⟩

end

/-- An audit whose two signatures agree is recorded and counted (R477). -/
theorem audit_agreed {c d : Core} {n t : Nat} {a : Audit}
    (found : c.ump.audits.find? (fun a => a.worker == n && a.stroke == t) = some a) (last : a.left ≤ 1) (two : a.majority = false)
    (nib : a.nib < 18) (rest : Beside [] (c.auditStep n t .agree) d) :
    d.n (R.UMP_AUDIT_LAST a.nib) = t % 2 ^ 32 ∧ d.r R.UMP_AUDIT_CNT = c.r R.UMP_AUDIT_CNT + 1 ∧ d.web = c.web ∧ d.job = c.job ∧
      d.st = c.st := by
  obtain ⟨b, before, step⟩ := Core.auditStep_agree found last two
  rw [step] at rest
  have stroke : a.stroke = t := by
    have is := List.find?_some found
    simp only [Bool.and_eq_true, beq_iff_eq] at is
    exact is.2
  have apart : R.UMP_AUDIT_LAST a.nib ≠ R.UMP_AUDIT_CNT ∧ R.DEV_STATE ≠ R.UMP_AUDIT_LAST a.nib := by
    unfold R.UMP_AUDIT_LAST R.UMP_AUDIT_CNT R.DEV_STATE
    omega
  obtain ⟨notCnt, notState⟩ := apart
  have noted : Beside [R.UMP_AUDIT_LAST a.nib, R.UMP_AUDIT_CNT] b (b.setN (R.UMP_AUDIT_LAST a.nib) a.stroke) :=
    .setR b _ (.inr List.mem_cons_self)
  have counted : Beside [R.UMP_AUDIT_LAST a.nib, R.UMP_AUDIT_CNT] (b.setN (R.UMP_AUDIT_LAST a.nib) a.stroke) _ :=
    .inc _ R.UMP_AUDIT_CNT (.inr (List.mem_cons_of_mem _ List.mem_cons_self))
  have later : Beside [] ((b.setN (R.UMP_AUDIT_LAST a.nib) a.stroke).inc R.UMP_AUDIT_CNT) d := (Beside.perf _ (by decide)).trans rest
  have whole := (((before.widen _).trans noted).trans counted).trans (later.widen _)
  have number : d.n (R.UMP_AUDIT_LAST a.nib) = t % 2 ^ 32 := by
    rw [later.n _ (steady_auditLast nib) List.not_mem_nil, Core.n, Core.inc_eq, Core.r_setR_ne _ _ notCnt, Core.setN_eq,
      Core.r_setR_same, BitVec.toNat_ofNat, stroke]
  have count : d.r R.UMP_AUDIT_CNT = c.r R.UMP_AUDIT_CNT + 1 := by
    rw [later.r _ (by decide) List.not_mem_nil, Core.inc_eq, Core.r_setR_same, Core.setN_eq, Core.r_setR_ne _ _ notCnt.symm,
      before.r _ (by decide) List.not_mem_nil]
  have st : d.st = c.st := whole.st (by
    rw [List.mem_cons, not_or]
    exact ⟨notState, by decide⟩)
  exact ⟨number, count, whole.web, whole.job, st⟩

/-- Settles O22: an ink-line by how its words read back, an audit by its two signatures. -/
theorem inkLineStored : Obligations.InkLineStored := by
  intro n ls sig s active
  refine ⟨fun t part k l p idle cur due mine good => ⟨fun ok => ?_, ?_⟩, fun t a aud found last two nib => ?_⟩
  · obtain ⟨d, runs, after⟩ := exec_inkLineComplete ls sig active
    exact ⟨d, runs, inkLine_complete n.isLt due mine good ok ((Core.inkComplete_own ls sig idle cur).trans after)⟩
  · rintro g more rfl
    obtain ⟨d, runs, after⟩ := exec_inkLineComplete (.readBack g more) sig active
    exact ⟨d, runs, inkLine_failed n.isLt due mine good ((Core.inkComplete_own _ sig idle cur).trans after)⟩
  · obtain ⟨d, runs, after⟩ := exec_inkLineComplete ls .agree active
    exact ⟨d, runs, audit_agreed found last two nib ((Core.inkComplete_audit ls .agree aud).trans after)⟩

end Sys2Proof.Proofs
end
